-- ==== Sys2Proof/Word.lean ====
section
/-! DEFINITION. The word types and the one sparse map every register file, tile table and
package table of the model is kept in. -/

namespace Sys2Proof

/-- A 64-bit word: a general register, a reference, a program counter (R46, R65). -/
abbrev Word := BitVec 64

/-- A byte of memory (R9). -/
abbrev Byte := BitVec 8

/-- A sparse map from indices to data, in ascending order of index when built by `put`. An index
that is not listed has the default its reader names. -/
abbrev SMap (α : Type) := List (Nat × α)

/-- The entry at an index, if one is listed. -/
def SMap.val? {α : Type} : SMap α → Nat → Option α
  | [], _ => none
  | (k, v) :: t, n => if k = n then some v else SMap.val? t n

/-- The entry at an index, or the default. -/
def SMap.val {α : Type} (m : SMap α) (dflt : α) (n : Nat) : α :=
  (SMap.val? m n).getD dflt

/-- Sets the entry at an index. -/
def SMap.put {α : Type} : SMap α → Nat → α → SMap α
  | [], n, x => [(n, x)]
  | (k, v) :: t, n, x =>
    if n < k then (n, x) :: (k, v) :: t
    else if k = n then (n, x) :: t
    else (k, v) :: SMap.put t n x

/-- Removes every entry at an index. -/
def SMap.del {α : Type} : SMap α → Nat → SMap α
  | [], _ => []
  | (k, v) :: t, n => if k = n then SMap.del t n else (k, v) :: SMap.del t n

/-- The indices listed, in list order. -/
def SMap.keys {α : Type} (m : SMap α) : List Nat := m.map (·.1)

/-- The entries listed, in list order. -/
def SMap.vals {α : Type} (m : SMap α) : List α := m.map (·.2)

/-- Changes every entry. -/
def SMap.mapVals {α : Type} (m : SMap α) (f : Nat → α → α) : SMap α :=
  m.map fun p => (p.1, f p.1 p.2)

end Sys2Proof
end

