-- ==== Sys2Proof/Config.lean ====
section
/-! DEFINITION. What the manual leaves to the implementation and the free values: constants with
no body, so that no statement can rest on a value of them (notes/assumptions). -/

namespace Sys2Proof.Config

/-- A free 64-bit value: the n-th undefined word drawn (R13, R58, R242; log 3). -/
opaque freeWord : Nat → BitVec 64

/-- A free vector register image (R58; log 3). -/
opaque freeVec : Nat → BitVec 2048

/-- A free choice of the device between two permitted outcomes (R52, R162; log 3). -/
opaque freeBool : Nat → Bool

/-- The order of steps that the manual leaves unordered: which due step goes next (R217; log 1). -/
opaque choose : Nat → Nat

/-- SM3 of a byte string, as a 256-bit number (R20, R344; log 9). -/
opaque sm3 : List (BitVec 8) → BitVec 256

/-- The SM2 key exchange: the session key, the device's ephemeral public key and the confirmation
value, from the device identity, the tenant's public key and a fresh draw (R341, R342; log 9). -/
opaque sm2Agree : Nat → List (BitVec 8) → Nat → BitVec 128 × List (BitVec 8)

/-- The SM2 signature of a digest under a key (R344; log 9). -/
opaque sm2Sign : Nat → BitVec 256 → List (BitVec 8)

/-- Whether an SM2 signature over a digest holds under a public-key hash (R386; log 9). -/
opaque sm2Verify : Nat → BitVec 256 → List (BitVec 8) → Bool

/-- SM4-GCM: ciphertext and tag of a payload under key, nonce and additional data (R339; log 9). -/
opaque sm4Seal : Nat → Nat → List (BitVec 8) → List (BitVec 8) → List (BitVec 8)

/-- SM4-GCM: the payload, if the tag holds (R339; log 9). -/
opaque sm4Open : Nat → Nat → List (BitVec 8) → List (BitVec 8) → Option (List (BitVec 8))

/-- SM4-XTS: what a 32-byte line of die memory or HBM that was written under one memory key reads as under another,
byte by byte: writer's and reader's key, line with its target type, its bytes as written, which byte (R343; log 9). -/
opaque xts : Nat → Nat → Nat → List (BitVec 8) → Nat → BitVec 8

/-- The ciphertext of an answer to a readback read that another's session asks for: session key, value (R19;
log 46). -/
opaque readSeal : Nat → Nat → Nat

/-- The n-th key the device generates (R341, R343; log 9). -/
opaque freshKey : Nat → Nat

/-- The agreement of a link's keys, of the outgoing and of the incoming direction: device identity, the peer's package,
a fresh draw (R340; log 9). -/
opaque linkAgree : Nat → Nat → Nat → Nat × Nat

/-- The device certificate: the identity's public key, signed by Irnel's manufacturing key (R341; log 9). -/
opaque deviceCertificate : List (BitVec 8)

/-- The fused identity key, firmware key hash and supervisor key (R386; log 9). -/
opaque fusedIdentity : Nat
opaque fusedFirmwareKey : Nat
opaque fusedSupervisorKey : Nat

end Sys2Proof.Config
end

