-- ==== Sys2Proof/Syntax.lean ====
section
/-! DEFINITION. The instructions and steps of the Zotar: one constructor per row of the opcode
table. The first 162 are strand instructions with a 96-bit word (R73 to R79); the rest are the
steps of the tile, the engines, the control plane, the links and the host (spec file 95). -/

namespace Sys2Proof

/-- The fields of formats R, I, M, X and S (R73 to R75): everything of the word but MAJ and MIN.
Format X reads bits [40:32] as flags: see `Fields.acq` and its neighbours. -/
structure Fields where
  /-- D, bits [79:72] -/
  d : BitVec 8 := 0
  /-- A, bits [71:64] -/
  a : BitVec 8 := 0
  /-- B, bits [63:56] -/
  b : BitVec 8 := 0
  /-- C, bits [55:48] -/
  c : BitVec 8 := 0
  /-- SCP, bits [47:45] -/
  scp : BitVec 3 := 0
  /-- PRD, bits [44:42] -/
  prd : BitVec 3 := 0
  /-- NEG, bit [41] -/
  neg : Bool := false
  /-- RND, bits [40:38] -/
  rnd : BitVec 3 := 0
  /-- SAT, bit [37] -/
  sat : Bool := false
  /-- FMT, bits [36:33] -/
  fmt : BitVec 4 := 0
  /-- EF, bit [32] -/
  ef : Bool := false
  /-- IMM, bits [31:0] -/
  imm : BitVec 32 := 0
  deriving DecidableEq, Repr

/-- `.acq`, bit [40] of format X (R75). -/
def Fields.acq (f : Fields) : Bool := f.rnd.getLsbD 2
/-- `.rel`, bit [39] of format X (R75). -/
def Fields.rel (f : Fields) : Bool := f.rnd.getLsbD 1
/-- `.gen`, bit [38] of format X (R75). -/
def Fields.gen (f : Fields) : Bool := f.rnd.getLsbD 0
/-- `.end`, bit [37] of format X (R75). -/
def Fields.endf (f : Fields) : Bool := f.sat
/-- `.lq`, bit [32] of format X (R75). -/
def Fields.lq (f : Fields) : Bool := f.ef

/-- The fields of the repeat prefix (R82). -/
structure RepFields where
  sd : BitVec 8 := 0
  sa : BitVec 8 := 0
  sb : BitVec 8 := 0
  sc : BitVec 8 := 0
  /-- bits [47:38], reserved -/
  rsv : BitVec 10 := 0
  /-- CNT, bits [37:32]: repetitions − 1 -/
  cnt : BitVec 6 := 0
  si : BitVec 32 := 0
  deriving DecidableEq, Repr

/-- Conditions of `set` and `br` (R79, R95). -/
inductive Cond where
  | eq | ne | lt | le | gt | ge | ltu | leu | gtu | geu
  deriving DecidableEq, Repr

/-- Conditions of `vcmp` (R79, R125). -/
inductive VCond where
  | eq | ne | lt | le | gt | ge | un | ord
  deriving DecidableEq, Repr

/-- Operators of `vred` and `vscan` (R79, R130). -/
inductive RedOp where
  | add | min | max | and | or | xor
  deriving DecidableEq, Repr

/-- Reductions of `sync` (R79, R204). -/
inductive SyncOp where
  | add | min | max | and | or
  deriving DecidableEq, Repr

/-- Operations of `amo` (R79, R212). -/
inductive AmoOp where
  | add | and | or | xor | min | max | minu | maxu | swap | cas
  deriving DecidableEq, Repr

/-- A byte on the fabric with its poison bit (R241, R348). -/
abbrev PByte := BitVec 8 × Bool

/-- Where another package's tile writes in the own package outside tile SRAM: KEYID and key of the first byte, with the
writer's kernel as it is numbered here and its SSC5 (R208, R364). -/
structure FarHome where
  kern : Nat
  ssc5 : BitVec 32
  kid : Nat
  key : Nat
  deriving DecidableEq, Repr

/-- An exchange write arriving at a tile's SRAM port (R225 to R227), or at another home of the own package. -/
structure RemoteWrite where
  tile : Nat
  /-- source tile identifier -/
  src : Nat
  /-- local address of the first byte -/
  addr : Nat
  /-- KIND of R227: 0 store or copy, 1 response landing, 2 agent operation, 3 multicast -/
  kind : Nat
  data : List PByte
  /-- the remote sync word of the other package's command, and the bytes that this write counts into it: those of a
  chunk with its last write (R233, R239, R242) -/
  word : Option Nat := none
  cnt : Nat := 0
  home : Option FarHome := none
  deriving DecidableEq, Repr

/-- What another package of the pod brought to the pod barrier (R197, R198, R204). -/
structure PeerArrival where
  slot : Nat
  /-- an arrival; else only news of a JOIN, which goes over the pod barrier network by itself (R374) -/
  arrived : Bool := true
  /-- the lowest tile identifier of its parties (R364) -/
  low : Nat := 2 ^ 18 - 1
  /-- arrived by `sync.pd` of some strand: its contribution; none when all its strands exited -/
  op : Option SyncOp
  fmt : BitVec 4
  f32 : Bool
  value : BitVec 64
  poison : Bool
  code : BitVec 8
  /-- lowest tile identifier that reported the code, or contributed -/
  origin : Nat
  /-- pod completions it has counted (R375) -/
  ssn : BitVec 32
  /-- PEND, PORG, NAB and NORG of the pod's domain as that package holds them (R209, R266) -/
  pend : BitVec 8 := 0
  porg : Nat := 0
  nab : Bool := false
  norg : Nat := 0
  /-- device conditions found there for the pod: code and origin (R205, R242, R261) -/
  conds : List (BitVec 8 × Nat) := []
  /-- tile-table entries that strands of the kernel have readied there (R263) -/
  entries : List Nat := []
  /-- slots that a JOIN there has set to joining (R374), and PCNT of its route table by slot (R375) -/
  joining : List Nat := []
  pcnts : List (Nat × Nat) := []
  deriving DecidableEq, Repr

/-- A segment of a collective (R257, R259): a block of 16 elements in the scatter phase, or bytes
of a result shard in the gather phase. -/
structure Segment where
  entry : Nat
  epoch : BitVec 16
  fg : BitVec 16
  /-- source membership slot -/
  src : Nat
  /-- first block (scatter) or first byte (gather) -/
  pos : Nat
  data : List PByte
  /-- OP 3: the stamp word carried before the data, with its own poison (R261, R391) -/
  stamp : Option (BitVec 64 × Bool)
  deriving DecidableEq, Repr

/-- A place in a store that an error strikes (R347). -/
inductive ErrSite where
  /-- a granule of a tile's SRAM, a line of group SRAM -/
  | sram (tile off : Nat) | groupSram (pa : Nat)
  /-- of a strand: a `g` or `h` register, a place of a load or store queue, a lane of a `v` register -/
  | g (tile rec n : Nat) | h (tile rec n : Nat) | loadPlace (tile rec q i : Nat) | storePlace (tile rec q i : Nat)
  | vLane (tile rec n lane : Nat)
  /-- of a tile: an element of an `m` or `a` register, a table, a line of the instruction store -/
  | m (tile n e : Nat) | a (tile n e : Nat) | tb (tile n : Nat) | storeLine (tile line : Nat)
  /-- entries of TLBs, fault buffers, multicast tables; an undo record -/
  | groupTlb (grp i : Nat) | dieTlb (die i : Nat) | faultEntry (grp i : Nat) | multicast (grp i : Nat)
  | undo (die i : Nat)
  deriving DecidableEq, Repr

/-- What the patrol scrub finds in a line, or the error of another store as it is read, corrected or not (R347). -/
inductive ScrubOutcome where
  | clean | corrected | uncorrectable
  | struck (x : ErrSite) (fatal : Bool)
  deriving DecidableEq, Repr

/-- What the 16 Sage monitors of a group report at each candidate bin and offset: their margins, in units of 0.5 %
(R377, R379). -/
structure SageMargin where
  group : Nat
  /-- (bin, offset in mV, the monitors' margins) -/
  cands : List (Nat × Int × List Nat)
  deriving DecidableEq, Repr

/-- A RoCEv2 packet, received or sent, in the fields of its headers (R337 to R339, log 13). -/
structure EthPacket where
  qp : Nat
  opcode : Nat
  /-- reliable-connected service -/
  rc : Bool
  /-- IP ECN field at CE -/
  ce : Bool
  /-- 8-byte counter header of a sealed packet -/
  counter : Nat
  /-- extended transport headers, as bytes -/
  header : List (BitVec 8)
  payload : List (BitVec 8)
  /-- base transport header: packet sequence number, the byte after the opcode, partition key, acknowledge request -/
  psn : Nat := 0
  flags : Nat := 0
  pkey : Nat := 0xffff
  ackReq : Bool := true
  /-- UDP destination port, bytes of the whole frame, whether the ICRC holds -/
  port : Nat := 4791
  frame : Nat := 0
  icrc : Bool := true
  deriving DecidableEq, Repr

/-- An RDMA access of the host (R338). -/
structure RdmaRequest where
  qp : Nat
  rkey : BitVec 32
  va : BitVec 64
  len : Nat
  data : List (BitVec 8)
  imm : Option (BitVec 32)
  /-- sequence number of its last packet -/
  psn : Nat := 0
  deriving DecidableEq, Repr

/-- A boot IMAGE message, its data gathered (R386). -/
structure ImageMsg where
  data : List (BitVec 8)
  sig : List (BitVec 8)
  deriving DecidableEq, Repr

/-- The readback registers that a session may write and that have no row of their own (R10, R11, R286): those
from `strandSpecial` on are a tile's, and the owner's session writes any, with its tag or poison above the value. -/
inductive RbReg where
  | domainWord (level unit : Nat)
  | multicast (group entry : Nat)
  | ctxWord (i : Nat)
  | ptroot (i : Nat)
  | evc (i : Nat)
  | lqBase (q : Nat)
  | lqSize (q : Nat)
  | kqBase (q : Nat)
  | kqSize (q : Nat)
  | thymeEntry (tile i : Nat)
  | ctrc (stack : Nat)
  | mctl
  | mbva
  | route (slot : Nat)
  | sloga
  | slogb
  | elog
  | faultStatus (group : Nat)
  | strandSpecial (tile rec num : Nat)
  | strandPc (tile rec : Nat)
  | strandG (tile rec n : Nat)
  | strandK (tile rec n : Nat)
  | strandH (tile rec n : Nat)
  | strandV (tile rec n lane : Nat)
  | strandVDesc (tile rec n : Nat)
  | strandFrame (tile rec : Nat)
  | strandAbort (tile rec : Nat)
  | strandPacket (tile rec i : Nat)
  | strandRegion (tile rec n : Nat)
  | strandDrain (tile rec q i : Nat)
  | codeWord (tile off : Nat)
  | strandEntry (tile rec q i : Nat)
  | sramWord (tile off : Nat)
  | mWord (tile i w : Nat)
  | mPois (tile i w : Nat)
  | mDesc (tile i : Nat)
  | aWord (tile i w : Nat)
  | aStage (tile i w : Nat)
  | aPois (tile i w : Nat)
  | aDesc (tile i : Nat)
  | tbEntry (tile i e : Nat)
  | tbDesc (tile i : Nat)
  | tbBuild (tile i : Nat)
  | tbBook (tile i : Nat)
  | pwl (tile i : Nat)
  | pwln (tile : Nat)
  /-- one of those of a kernel's share of a tile that is evicted -/
  | evicted (kern : Nat) (r : RbReg)
  deriving DecidableEq, Repr

/-- A readback write of a session (R10, R11). -/
structure ReadbackWrite where
  reg : RbReg
  value : BitVec 128
  /-- the supervisor session, else a session keyed to a context -/
  supervisor : Bool
  asid : Nat
  deriving DecidableEq, Repr

/-- A session's write of a tile's freeze word (R359). -/
structure FreezeWrite where
  /-- the supervisor session, else a session keyed to a context -/
  supervisor : Bool
  asid : Nat
  value : BitVec 64
  deriving DecidableEq, Repr

/-- The instructions and steps: one constructor per row of the opcode table. -/
inductive Instr where
  /-- ADD (R93) -/
  | add (f : Fields)
  /-- SUB (R93) -/
  | sub (f : Fields)
  /-- MUL (R93) -/
  | mul (f : Fields)
  /-- MULH (R93) -/
  | mulh (f : Fields)
  /-- DIV (R93) -/
  | div (f : Fields)
  /-- REM (R93) -/
  | rem (f : Fields)
  /-- AND (R93) -/
  | and (f : Fields)
  /-- OR (R93) -/
  | or (f : Fields)
  /-- XOR (R93) -/
  | xor (f : Fields)
  /-- ANDN (R93) -/
  | andn (f : Fields)
  /-- SHL (R93) -/
  | shl (f : Fields)
  /-- SHR (R93) -/
  | shr (f : Fields)
  /-- SAR (R93) -/
  | sar (f : Fields)
  /-- ROL (R93) -/
  | rol (f : Fields)
  /-- MIN (R93) -/
  | min (f : Fields)
  /-- MAX (R93) -/
  | max (f : Fields)
  /-- CLZ (R94) -/
  | clz (f : Fields)
  /-- CTZ (R94) -/
  | ctz (f : Fields)
  /-- POPC (R94) -/
  | popc (f : Fields)
  /-- SET (R95) -/
  | set (c : Cond) (f : Fields)
  /-- SEL (R96) -/
  | sel (f : Fields)
  /-- MOV (R96) -/
  | mov (f : Fields)
  /-- MOVI (R96) -/
  | movi (d a : BitVec 8) (imm : BitVec 64)
  /-- SEXT (R97) -/
  | sext (f : Fields)
  /-- ZEXT (R97) -/
  | zext (f : Fields)
  /-- BFX (R98) -/
  | bfx (f : Fields)
  /-- BFI (R98) -/
  | bfi (f : Fields)
  /-- LEA (R99) -/
  | lea (f : Fields)
  /-- LD (R100) -/
  | ld (f : Fields)
  /-- ST (R100) -/
  | st (f : Fields)
  /-- LDQ (R105) -/
  | ldq (f : Fields)
  /-- STQ (R106) -/
  | stq (f : Fields)
  /-- QCFG (R107) -/
  | qcfg (f : Fields)
  /-- QADV (R107) -/
  | qadv (f : Fields)
  /-- BR (R109) -/
  | br (c : Cond) (f : Fields)
  /-- JMP (R110) -/
  | jmp (f : Fields)
  /-- JMPR (R110) -/
  | jmpr (f : Fields)
  /-- CALL (R110) -/
  | call (f : Fields)
  /-- RET (R110) -/
  | ret (f : Fields)
  /-- LOOP (R111) -/
  | loop (f : Fields)
  /-- REP (R83) -/
  | rep (r : RepFields)
  /-- NOP (R112) -/
  | nop (f : Fields)
  /-- BRK (R113) -/
  | brk (f : Fields)
  /-- TRAP (R113) -/
  | trap (f : Fields)
  /-- VADD (R122) -/
  | vadd (f : Fields)
  /-- VSUB (R122) -/
  | vsub (f : Fields)
  /-- VMUL (R122) -/
  | vmul (f : Fields)
  /-- VFMA (R122) -/
  | vfma (f : Fields)
  /-- VMIN (R122) -/
  | vmin (f : Fields)
  /-- VMAX (R122) -/
  | vmax (f : Fields)
  /-- VABS (R122) -/
  | vabs (f : Fields)
  /-- VNEG (R122) -/
  | vneg (f : Fields)
  /-- VCMP (R125) -/
  | vcmp (c : VCond) (f : Fields)
  /-- VSEL (R126) -/
  | vsel (f : Fields)
  /-- VAND (R124) -/
  | vand (f : Fields)
  /-- VOR (R124) -/
  | vor (f : Fields)
  /-- VXOR (R124) -/
  | vxor (f : Fields)
  /-- VSHL (R124) -/
  | vshl (f : Fields)
  /-- VSHR (R124) -/
  | vshr (f : Fields)
  /-- VSAR (R124) -/
  | vsar (f : Fields)
  /-- VCVT (R129) -/
  | vcvt (f : Fields)
  /-- VRED (R130) -/
  | vred (op : RedOp) (f : Fields)
  /-- VSCAN (R131) -/
  | vscan (op : RedOp) (f : Fields)
  /-- VPERM (R132) -/
  | vperm (f : Fields)
  /-- VBCAST (R132) -/
  | vbcast (f : Fields)
  /-- VEXT (R132) -/
  | vext (f : Fields)
  /-- VINS (R132) -/
  | vins (f : Fields)
  /-- VLD (R134) -/
  | vld (f : Fields)
  /-- VST (R134) -/
  | vst (f : Fields)
  /-- VCLAIM (R120) -/
  | vclaim (f : Fields)
  /-- VYIELD (R121) -/
  | vyield (f : Fields)
  /-- VPWL (R139) -/
  | vpwl (f : Fields)
  /-- PWLSET (R138) -/
  | pwlset (f : Fields)
  /-- VBLK (R135) -/
  | vblk (f : Fields)
  /-- VBLK_SET (R135) -/
  | vblkSet (f : Fields)
  /-- VQ_PC (R136) -/
  | vqPc (f : Fields)
  /-- VQ_CB (R136) -/
  | vqCb (f : Fields)
  /-- VPOIS (R127) -/
  | vpois (f : Fields)
  /-- KAND (R141) -/
  | kand (f : Fields)
  /-- KOR (R141) -/
  | kor (f : Fields)
  /-- KXOR (R141) -/
  | kxor (f : Fields)
  /-- KNOT (R141) -/
  | knot (f : Fields)
  /-- KPOP (R141) -/
  | kpop (f : Fields)
  /-- KFIRST (R141) -/
  | kfirst (f : Fields)
  /-- KMOV (R141) -/
  | kmov (f : Fields)
  /-- MCLAIM (R147) -/
  | mclaim (f : Fields)
  /-- MREL (R148) -/
  | mrel (f : Fields)
  /-- MLD (R150) -/
  | mld (f : Fields)
  /-- MST (R151) -/
  | mst (f : Fields)
  /-- TBUILD (R153) -/
  | tbuild (f : Fields)
  /-- TBUILDC (R154) -/
  | tbuildc (f : Fields)
  /-- TLOOK (R157) -/
  | tlook (f : Fields)
  /-- TLOOKC (R158) -/
  | tlookc (f : Fields)
  /-- TDROP (R162) -/
  | tdrop (f : Fields)
  /-- AZERO (R159) -/
  | azero (f : Fields)
  /-- ALD (R150) -/
  | ald (f : Fields)
  /-- AST (R151) -/
  | ast (f : Fields)
  /-- AFLUSH (R160) -/
  | aflush (f : Fields)
  /-- APUT (R161) -/
  | aput (f : Fields)
  /-- MCHK (R165) -/
  | mchk (f : Fields)
  /-- ACHK (R166) -/
  | achk (f : Fields)
  /-- SPAWN (R179) -/
  | spawn (f : Fields)
  /-- EXIT (R180) -/
  | exit (f : Fields)
  /-- WAIT (R181) -/
  | wait (f : Fields)
  /-- YIELD (R182) -/
  | yield (f : Fields)
  /-- WID (R183) -/
  | wid (f : Fields)
  /-- SYNC (R203) -/
  | sync (op : SyncOp) (f : Fields)
  /-- SSR (R210) -/
  | ssr (f : Fields)
  /-- FENCE (R211) -/
  | fence (f : Fields)
  /-- AMO (R212) -/
  | amo (op : AmoOp) (f : Fields)
  /-- FACC (R213) -/
  | facc (f : Fields)
  /-- FCRD (R213) -/
  | fcrd (f : Fields)
  /-- XGET (R242) -/
  | xget (f : Fields)
  /-- XPUT (R242) -/
  | xput (f : Fields)
  /-- XCPY (R242) -/
  | xcpy (f : Fields)
  /-- XMC (R243) -/
  | xmc (f : Fields)
  /-- XLD (R244) -/
  | xld (f : Fields)
  /-- XST (R244) -/
  | xst (f : Fields)
  /-- XOP_ADD (R247) -/
  | xopAdd (f : Fields)
  /-- XOP_FADD (R247) -/
  | xopFadd (f : Fields)
  /-- XOP_CAS1 (R247) -/
  | xopCas1 (f : Fields)
  /-- XOP_CAS2 (R247) -/
  | xopCas2 (f : Fields)
  /-- XOP_CAS4 (R247) -/
  | xopCas4 (f : Fields)
  /-- XOP_ENQ (R247) -/
  | xopEnq (f : Fields)
  /-- XOP_CHASE (R247) -/
  | xopChase (f : Fields)
  /-- XSEND (R245) -/
  | xsend (f : Fields)
  /-- SWSET (R234) -/
  | swset (f : Fields)
  /-- SWGET (R234) -/
  | swget (f : Fields)
  /-- CTREADY (R255) -/
  | ctready (f : Fields)
  /-- CTARM (R255) -/
  | ctarm (f : Fields)
  /-- CTSTAT (R255) -/
  | ctstat (f : Fields)
  /-- SVC (R287) -/
  | svc (f : Fields)
  /-- SVC_RETURN (R287) -/
  | svcReturn (f : Fields)
  /-- TRET (R287) -/
  | tret (f : Fields)
  /-- MFSR (R287) -/
  | mfsr (f : Fields)
  /-- MTSR (R287) -/
  | mtsr (f : Fields)
  /-- PARK (R287) -/
  | park (f : Fields)
  /-- KLAUNCH (R288) -/
  | klaunch (f : Fields)
  /-- HALT (R287) -/
  | halt (f : Fields)
  /-- TLBINV_PAGE (R304) -/
  | tlbinvPage (f : Fields)
  /-- TLBINV_CTX (R304) -/
  | tlbinvCtx (f : Fields)
  /-- TLBINV_ALL (R304) -/
  | tlbinvAll (f : Fields)
  /-- TLBPROBE (R305) -/
  | tlbprobe (f : Fields)
  /-- FLTRD (R305) -/
  | fltrd (f : Fields)
  /-- FLTREP (R305) -/
  | fltrep (f : Fields)
  /-- MIGR (R306) -/
  | migr (f : Fields)
  /-- HLD (R321) -/
  | hld (f : Fields)
  /-- HST (R321) -/
  | hst (f : Fields)
  /-- HMOV (R322) -/
  | hmov (f : Fields)
  /-- HPIN (R325) -/
  | hpin (f : Fields)
  /-- HUNPIN (R325) -/
  | hunpin (f : Fields)
  /-- HCMP (R323) -/
  | hcmp (f : Fields)
  /-- HOBJ_ALLOC (R326) -/
  | hobjAlloc (f : Fields)
  /-- HOBJ_FREE (R326) -/
  | hobjFree (f : Fields)
  /-- HOBJ_INFO (R326) -/
  | hobjInfo (f : Fields)
  /-- HOBJ_MOVE (R326) -/
  | hobjMove (f : Fields)
  /-- HOBJ_COMPACT (R327) -/
  | hobjCompact (f : Fields)
  /-- HOBJ_FLIP (R329) -/
  | hobjFlip (f : Fields)
  /-- REGION (R351) -/
  | region (f : Fields)
  /-- REGION_CLOSE (R351) -/
  | regionClose (f : Fields)
  /-- PAIR (R353) -/
  | pair (f : Fields)
  /-- UNPAIR (R353) -/
  | unpair (f : Fields)
  /-- TILE_ISSUE_CYCLE (R185) -/
  | tileIssueCycle (tile : Nat)
  /-- LDQ_PUSH (R105) -/
  | ldqPush (tile : Nat) (rec : Nat) (q : Nat)
  /-- QUEUE_DEADLOCK_TIMEOUT (R108) -/
  | queueDeadlockTimeout (tile : Nat) (rec : Nat)
  /-- OPEN_PACKET_TIMEOUT (R85) -/
  | openPacketTimeout (tile : Nat) (rec : Nat)
  /-- VCLAIM_GRANT (R120) -/
  | vclaimGrant (tile : Nat)
  /-- MCLAIM_GRANT (R147) -/
  | mclaimGrant (tile : Nat)
  /-- VECTOR_WINDOW (R187) -/
  | vectorWindow (tile : Nat)
  /-- TABLE_COMMAND_START (R168) -/
  | tableCommandStart (tile : Nat)
  /-- SILENT_REBUILD (R163) -/
  | silentRebuild (tile : Nat) (tb : Nat)
  /-- RECORD_READY (R184) -/
  | recordReady (tile : Nat) (rec : Nat)
  /-- SLOT_LOAD (R184) -/
  | slotLoad (tile : Nat)
  /-- BANK_WAKE (R196) -/
  | bankWake (tile : Nat) (bank : Nat)
  /-- EXCHANGE_COMMAND_START (R238) -/
  | exchangeCommandStart (tile : Nat)
  /-- REQUEST_INJECT (R249) -/
  | requestInject (tile : Nat) (cmd : Nat)
  /-- HOME_ACCESS (R208) -/
  | homeAccess (tile : Nat) (cmd : Nat)
  /-- XOP_EXECUTE (R246) -/
  | xopExecute (tile : Nat) (cmd : Nat)
  /-- MULTICAST_PACKET (R243) -/
  | multicastPacket (tile : Nat) (cmd : Nat)
  /-- REMOTE_WRITE_ARRIVAL (R225) -/
  | remoteWriteArrival (w : RemoteWrite)
  /-- THYME_HELD_FLUSH (R229) -/
  | thymeHeldFlush (tile : Nat)
  /-- RESPONSE_LANDING (R249) -/
  | responseLanding (tile : Nat) (cmd : Nat)
  /-- ACKNOWLEDGEMENT_RECEIVED (R242) -/
  | acknowledgementReceived (tile : Nat) (cmd : Nat)
  /-- CHUNK_COMPLETE (R239) -/
  | chunkComplete (tile : Nat) (cmd : Nat)
  /-- REDIRECT_NOTICE_RECEIVED (R331) -/
  | redirectNoticeReceived (tile : Nat) (cmd : Nat)
  /-- PAGE_WALK_COMPLETE (R300) -/
  | pageWalkComplete (die : Nat) (entry : Nat)
  /-- REPLAY_RETRANSLATE (R305) -/
  | replayRetranslate (tile : Nat) (cmd : Nat)
  /-- TLBINV_COMPLETE (R304) -/
  | tlbinvComplete (tile : Nat) (rec : Nat)
  /-- FENCE_COMPLETE (R211) -/
  | fenceComplete (tile : Nat) (rec : Nat)
  /-- BARRIER_COMPLETE (R204) -/
  | barrierComplete (level : Nat) (unit : Nat) (peers : List PeerArrival)
  /-- ABORTED_COMPLETION (R206) -/
  | abortedCompletion (level : Nat) (unit : Nat) (peers : List PeerArrival)
  /-- BARRIER_TIMEOUT (R206) -/
  | barrierTimeout (level : Nat) (unit : Nat)
  /-- LIVENESS_PROBE_EXPIRY (R363) -/
  | livenessProbeExpiry (slot : Nat) (answered : Bool)
  /-- SEGMENT_ARRIVAL (R259) -/
  | segmentArrival (g : Segment)
  /-- REDUCE_STEP (R258) -/
  | reduceStep (entry : Nat) (block : Nat)
  /-- RESULT_GATHER_WRITE (R257) -/
  | resultGatherWrite (g : Segment)
  /-- FIRING_COMPLETE (R257) -/
  | firingComplete (entry : Nat)
  /-- SEGMENT_RESEND_TIMEOUT (R369): entry, and the segment by slot + 256 × (gather + 2 × position) -/
  | segmentResendTimeout (entry : Nat) (seg : Nat)
  /-- STEP_LOG_RECEIVE (R374) -/
  | stepLogReceive (bytes : List (BitVec 8))
  /-- MIGRATION_COPY_CHUNK (R307) -/
  | migrationCopyChunk (req : Nat)
  /-- MIGRATION_COMMIT (R307) -/
  | migrationCommit (req : Nat)
  /-- MIGRATION_RELEASE (R307) -/
  | migrationRelease (req : Nat)
  /-- MIGRATION_ABANDON (R307) -/
  | migrationAbandon (req : Nat)
  /-- RELOCATION_CHUNK_COPY (R330) -/
  | relocationChunkCopy (req : Nat)
  /-- RELOCATION_COMMIT (R331) -/
  | relocationCommit (req : Nat)
  /-- RELOCATION_RELEASE (R331) -/
  | relocationRelease (req : Nat)
  /-- COMPACTION_END (R327) -/
  | compactionEnd (req : Nat)
  /-- FORWARD_FREE (R329) -/
  | forwardFree (rg : Nat)
  /-- LAUNCH_NOTIFY (R268) -/
  | launchNotify (queue : Nat) (tail : Nat) (asid : Nat)
  /-- LAUNCH_RECORD_TAKE (R273) -/
  | launchRecordTake
  /-- LAUNCH_START (R274) -/
  | launchStart (kernel : Nat)
  /-- RETIREMENT (R285) -/
  | retirement (kernel : Nat)
  /-- PARK_THRESHOLD_EXPIRY (R275) -/
  | parkThresholdExpiry (tile : Nat)
  /-- SLICE_EXPIRY (R282) -/
  | sliceExpiry (kernel : Nat)
  /-- TILE_PARK (R277) -/
  | tilePark (tile : Nat) (reason : Nat)
  /-- GROUP_EVICT (R281) -/
  | groupEvict (group : Nat)
  /-- TILE_RESTORE (R281) -/
  | tileRestore (tile : Nat)
  /-- EVC_HEAD_WRITE (R290) -/
  | evcHeadWrite (asid : Nat) (head : BitVec 32)
  /-- KEYDROP (R345) -/
  | keydrop (qp : Nat) (asid : Nat) (keyid : Nat)
  /-- RDMA_WRITE (R338) -/
  | rdmaWrite (r : RdmaRequest)
  /-- RDMA_READ (R338) -/
  | rdmaRead (r : RdmaRequest)
  /-- TAG_FAILURE_RETRAIN (R340) -/
  | tagFailureRetrain (port : Nat)
  /-- LINK_REKEY (R340) -/
  | linkRekey (port : Nat)
  /-- RATE_RECOVERY_TICK (R337) -/
  | rateRecoveryTick (qp : Nat)
  /-- GO_BACK_N_RETRANSMISSION (R339) -/
  | goBackNRetransmission (qp : Nat)
  /-- TILE_TABLE_WRITE (R252) -/
  | tileTableWrite (asid : Nat) (entry : Nat) (image : BitVec 512)
  /-- REGION_DESCRIPTOR_WRITE (R311) -/
  | regionDescriptorWrite (rg : Nat) (words : List (BitVec 64))
  /-- TRC_WRITE (R228) -/
  | trcWrite (tile : Nat) (value : BitVec 64)
  /-- CKPT_WRITE (R372) -/
  | ckptWrite (value : BitVec 64)
  /-- FREEZE_REQUEST (R359) -/
  | freezeRequest (tile : Nat) (w : FreezeWrite)
  /-- FREEZE_DONE (R359) -/
  | freezeDone (tile : Nat)
  /-- ERRINJ_SRAM (R358) -/
  | errinjSram (tile : Nat) (value : BitVec 64)
  /-- ERRINJ_REGISTER (R358) -/
  | errinjRegister (tile : Nat) (value : BitVec 64)
  /-- ERRINJ_ACCUMULATOR (R265) -/
  | errinjAccumulator (tile : Nat) (value : BitVec 64)
  /-- ERRINJ_FINGERPRINT (R358) -/
  | errinjFingerprint (tile : Nat) (value : BitVec 64)
  /-- ERRINJ_PLANE_COPY (R358) -/
  | errinjPlaneCopy (tile : Nat) (value : BitVec 64)
  /-- ERRINJ_DISARM (R358) -/
  | errinjDisarm (tile : Nat) (value : BitVec 64)
  /-- PAIR_COMPARE (R354) -/
  | pairCompare (tile : Nat) (rec : Nat)
  /-- PATROL_SCRUB (R347) -/
  | patrolScrub (tt : Nat) (pa : Nat) (outcome : ScrubOutcome)
  /-- VOTE_CYCLE (R356) -/
  | voteCycle (diff : BitVec 3)
  /-- STATE_HASH_COMPARE (R356) -/
  | stateHashCompare (diff : BitVec 3)
  /-- RESYNC_COMPLETE (R356) -/
  | resyncComplete
  /-- SAGE_REPLAN (R379) -/
  | sageReplan (seconds : Nat) (margins : List SageMargin)
  /-- SETTING_SWITCH (R380) -/
  | settingSwitch (group : Nat)
  /-- POWER_SAMPLE (R383) -/
  | powerSample (watts : Nat)
  /-- TEMP_SAMPLE (R383) -/
  | tempSample (celsius : List Nat)
  /-- THROTTLE_STEP (R384) -/
  | throttleStep (group : Nat)
  /-- THROTTLE_UNDO (R384) -/
  | throttleUndo
  /-- ETH_PACKET_RECEIVE (R337) -/
  | ethPacketReceive (p : EthPacket)
  /-- CNP_RECEIVE (R337) -/
  | cnpReceive (qp : Nat)
  /-- CREATE (R341) -/
  | create (qp : Nat) (asid : Nat) (pcap : BitVec 2) (supok : Bool)
  /-- AGREE (R341) -/
  | agree (qp : Nat) (asid : Nat) (tenantKey : List (BitVec 8))
  /-- ATTEST (R344) -/
  | attest (qp : Nat) (asid : Nat) (nonce : List (BitVec 8))
  /-- KEYNEW (R341) -/
  | keynew (qp : Nat) (asid : Nat)
  /-- RESUME (R341) -/
  | resume (qp : Nat) (asid : Nat)
  /-- DESTROY (R341) -/
  | destroy (qp : Nat) (asid : Nat)
  /-- LOGSEND (R374) -/
  | logsend (qp : Nat) (asid : Nat) (slot : Nat) (frm : Nat)
  /-- JOIN (R374) -/
  | join (qp : Nat) (asid : Nat) (slot : Nat)
  /-- IMAGE (R386) -/
  | image (m : ImageMsg)
  /-- FLIT_GROUP_RESEND (R250) -/
  | flitGroupResend (port : Nat) (tagBad : Bool)
  /-- PORT_RETRAIN_FAIL (R250) -/
  | portRetrainFail (port : Nat)
  /-- POWER_ON_RESET (R387) -/
  | powerOnReset
  /-- COMMANDED_RESET (R387) -/
  | commandedReset
  /-- REGISTER_WRITE (R10) -/
  | registerWrite (w : ReadbackWrite)
  /-- SUPERVISOR_STOP (R276) -/
  | supervisorStop (asid : Nat)
  /-- MUBEL_LINK_TRAINING (R340) -/
  | mubelLinkTraining (port : Nat) (peer : Nat)
  /-- BUMP_ROLLBACK_COUNTER (R386) -/
  | bumpRollbackCounter (count : Nat)
  deriving DecidableEq, Repr

end Sys2Proof
end

