-- ==== Sys2Proof/WellFormed.lean ====
section
/-! DEFINITION. Which fields an instruction accepts: the encoding tables of R92 to R113, R118,
R146, R178, R202, R210 to R213, R234, R235, R254, R287, R303, R320, R351 and R353, and the two
decode checks of R80, R81 that follow from them. -/

namespace Sys2Proof

/-! ### Operand specifiers (R47) -/

/-- File code of a specifier, bits [7:5] (R47). -/
def opFile (s : BitVec 8) : Nat := s.toNat / 32

/-- Index of a specifier, bits [4:0] (R47). -/
def opIdx (s : BitVec 8) : Nat := s.toNat % 32

/-- What a position accepts (R77, R90, R118, R146, R235, R303, R320). -/
inductive OpK where
  /-- must be 0x00 -/
  | none
  /-- `g`, `lq` or the constant zero, as a source -/
  | src
  /-- `g`, `sq` or the constant, as a scalar destination (R90) -/
  | dst
  /-- `g` or the constant, as a destination (R47) -/
  | gdst
  /-- `g0` to `g31` only -/
  | g
  /-- an even `g`, naming a pair (R47) -/
  | geven
  /-- `g` or `lq`: an address or length of an exchange command (R235) -/
  | addr
  /-- as `addr`, or `h`: a virtual address (R235) -/
  | addrH
  /-- `v` destination -/
  | v
  /-- `v` or the constant, as a source (R118) -/
  | vsrc
  /-- an even `v`, naming a pair (R146) -/
  | veven
  /-- `v`, the constant, or 0x00 for none (R118) -/
  | vopt
  | k
  /-- `k2`, `k4` or `k6`, naming a pair (R146) -/
  | kpair
  | m
  | a
  | tb
  | h
  /-- `h`, `g` or the constant, as a destination of `hmov` (R322) -/
  | hOrGdst
  /-- `h`, `g`, `lq` or the constant, as the source of `hmov` (R322) -/
  | hOrSrc
  /-- `k`, `g` or the constant, as the destination of `kmov` (R141) -/
  | kOrGdst
  /-- `k`, `g`, `lq` or the constant, as the source of `kmov` (R141) -/
  | kOrSrc
  /-- a control byte with these bits assigned (R101); no operand specifier -/
  | ctl (bits : BitVec 8)
  deriving DecidableEq, Repr

/-- Whether a specifier names `g0` to `g31`. -/
def isG (s : BitVec 8) : Bool := opFile s == 0
/-- Whether a specifier names `lq0` to `lq3`. -/
def isLq (s : BitVec 8) : Bool := opFile s == 7 && decide (opIdx s < 4)
/-- Whether a specifier names `sq0` or `sq1`. -/
def isSq (s : BitVec 8) : Bool := opFile s == 7 && (opIdx s == 4 || opIdx s == 5)
/-- Whether a specifier is the constant zero, 0b111_11111. -/
def isZero (s : BitVec 8) : Bool := s == 0xff
/-- Whether a specifier names `v0` to `v31`. -/
def isV (s : BitVec 8) : Bool := opFile s == 1
/-- Whether a specifier names `k0` to `k7`. -/
def isK (s : BitVec 8) : Bool := opFile s == 2 && decide (opIdx s < 8)
/-- Whether a specifier names `m0` to `m7`. -/
def isM (s : BitVec 8) : Bool := opFile s == 3 && decide (opIdx s < 8)
/-- Whether a specifier names `a0` to `a3`. -/
def isA (s : BitVec 8) : Bool := opFile s == 4 && decide (opIdx s < 4)
/-- Whether a specifier names `tb0` or `tb1`. -/
def isTb (s : BitVec 8) : Bool := opFile s == 5 && decide (opIdx s < 2)
/-- Whether a specifier names `h0` to `h15`. -/
def isH (s : BitVec 8) : Bool := opFile s == 6 && decide (opIdx s < 16)

/-- Whether a specifier is accepted in a position (R47, R77). A control byte is no operand. -/
def OpK.accepts (kd : OpK) (s : BitVec 8) : Bool :=
  match kd with
  | .none => s == 0
  | .src => isG s || isLq s || isZero s
  | .dst => isG s || isSq s || isZero s
  | .gdst => isG s || isZero s
  | .g => isG s
  | .geven => isG s && opIdx s % 2 == 0
  | .addr => isG s || isLq s
  | .addrH => isG s || isLq s || isH s
  | .v => isV s
  | .vsrc => isV s || isZero s
  | .veven => isV s && opIdx s % 2 == 0
  | .vopt => s == 0 || isV s || isZero s
  | .k => isK s
  | .kpair => s == 0x42 || s == 0x44 || s == 0x46
  | .m => isM s
  | .a => isA s
  | .tb => isTb s
  | .h => isH s
  | .hOrGdst => isH s || isG s || isZero s
  | .hOrSrc => isH s || isG s || isLq s || isZero s
  | .kOrGdst => isK s || isG s || isZero s
  | .kOrSrc => isK s || isG s || isLq s || isZero s
  | .ctl _ => true

/-- Whether a control byte keeps to its assigned bits; other positions are no control bytes. -/
def OpK.ctlOk (kd : OpK) (s : BitVec 8) : Bool :=
  match kd with
  | .ctl bits => s &&& ~~~ bits == 0
  | _ => true

/-- What an instruction accepts in its fields. `scps`, `rnds` and `fmts` list codes as bit sets. -/
structure Shape where
  d : OpK := .none
  a : OpK := .none
  b : OpK := .none
  c : OpK := .none
  /-- SCP codes accepted -/
  scps : BitVec 8 := 1
  /-- PRD and NEG accepted -/
  pred : Bool := true
  /-- RND codes accepted; in format X the accepted values of `.acq .rel .gen` -/
  rnds : BitVec 8 := 1
  /-- SAT accepted (in format X `.end`, in stores `.ppass`) -/
  sat : Bool := false
  /-- EF accepted -/
  ef : Bool := false
  /-- FMT codes accepted -/
  fmts : BitVec 16 := 1
  /-- IMM bits assigned -/
  imm : BitVec 32 := 0
  /-- a further reserved-field condition of the instruction's description -/
  bad : Bool := false
  /-- a further operand-class condition of the instruction's description -/
  badOp : Bool := false
  /-- a condition of the description that makes the word no instruction (R59) -/
  undef : Bool := false
  deriving DecidableEq, Repr

/-- Every IMM bit assigned: an immediate, an offset or a code target. -/
def immAll : BitVec 32 := 0xffffffff

/-- Elements per lane of a format tag and integer width (R116). -/
def eplOf (fmt : BitVec 4) (iw : Nat) : Nat :=
  match fmt.toNat with
  | 0 => 1
  | 1 => if iw < 2 then 1 else 2
  | 2 => 1
  | 3 => 2
  | 4 => 2
  | 10 => 2
  | _ => 4

/-- The width code of tag 1, IMM[1:0] (R117). -/
def Fields.iw (f : Fields) : Nat := f.imm.toNat % 4

/-- Elements per lane of the instruction's format (R116, R117). -/
def Fields.epl (f : Fields) : Nat := eplOf f.fmt f.iw

/-- Bits of an element (R116). -/
def Fields.ew (f : Fields) : Nat := 32 / f.epl

/-- IW set with a tag other than 1 (R117). -/
def Fields.iwBad (f : Fields) : Bool := f.fmt != 1 && f.iw != 0

/-- RND accepted for the float tags 2 to 4 only (R118). -/
def rndFloat (f : Fields) : BitVec 8 :=
  if f.fmt == 2 || f.fmt == 3 || f.fmt == 4 then 0x1f else 1

/-- SF of `vcvt`, IMM[7:4] (R129). -/
def Fields.sf (f : Fields) : Nat := f.imm.toNat / 16 % 16
/-- SIW of `vcvt`, IMM[9:8] (R129). -/
def Fields.siw (f : Fields) : Nat := f.imm.toNat / 256 % 4
/-- The part P, IMM[3:2] (R128). -/
def Fields.part (f : Fields) : Nat := f.imm.toNat / 4 % 4

/-- The number of parts between two element counts (R128). -/
def partsOf (ns nd : Nat) : Nat := max (nd / ns) (ns / nd)

/-- The special-register numbers of R59. -/
def isSpecial (n : Nat) : Bool :=
  decide (n ≤ 9) || (decide (0x10 ≤ n) && decide (n ≤ 0x15)) ||
  (decide (0x20 ≤ n) && decide (n ≤ 0x22)) || (decide (0x30 ≤ n) && decide (n ≤ 0x3b))

/-- Format I: a destination, a first source and B + IMM (R92). -/
def shBin (sat : Bool) : Shape :=
  { d := .dst, a := .src, b := .src, fmts := 0xff, sat := sat, imm := immAll }

/-- Lane-wise vector instructions over `v` sources (R118). -/
def shVec (f : Fields) (fmts : BitVec 16) (rnds : BitVec 8) (sat : Bool) (b c : OpK) : Shape :=
  { d := .v, a := .vsrc, b := b, c := c, fmts := fmts, rnds := rnds, sat := sat, ef := true,
    imm := 3, bad := f.iwBad }

/-- Vector shifts (R118). -/
def shVshift (f : Fields) (sat : Bool) : Shape :=
  { d := .v, a := .vsrc, b := .vsrc, fmts := 2, sat := sat, ef := true, imm := 0x3f03,
    bad := f.iwBad }

/-- Lane exchanges `vext` and `vins` (R118). -/
def shLane (f : Fields) (dk ak : OpK) : Shape :=
  { d := dk, a := ak, b := .src, fmts := 0xfff, ef := true, imm := 0x3f03, bad := f.iwBad }

/-- Scopes 1 to 5. -/
def scp15 : BitVec 8 := 0x3e

/-- IMM of a remote sync word: [19:4] and [0] (R235). -/
def immRsw : BitVec 32 := 0xffff1

/-- Flags of format X: `.acq` and `.rel` always, `.gen` where marked (R235). -/
def xflags (gen : Bool) : BitVec 8 := if gen then 0xff else 0x55

/-- Block transfers (R235): at most one of A and B names an `h`. -/
def shBlock (f : Fields) (ak bk : OpK) (imm : BitVec 32) (gen : Bool) : Shape :=
  { d := .g, a := ak, b := bk, c := .addr, scps := scp15, rnds := xflags gen, imm := imm,
    badOp := isH f.a && isH f.b }

/-- `xop` (R235): an offset register only with an `h` target. -/
def shXop (f : Fields) : Shape :=
  { d := .g, a := .addrH, b := .addr, c := if isH f.a then .g else .none, scps := scp15,
    rnds := xflags false }

/-- Heap operations of `hobj` (R326): IMM[2:0] is the operation. -/
def shHobj (f : Fields) (op : Nat) (dk ak bk : OpK) : Shape :=
  { d := dk, a := ak, b := bk, imm := 7, bad := f.imm.toNat % 8 != op }

/-- The translation invalidations (R303). -/
def shTlbinv (ak bk : OpK) (imm : BitVec 32) : Shape :=
  { a := ak, b := bk, scps := 0x3c, imm := imm }

/-- Formats 3 to 6, 10 and 11: what the table builds read (R146). -/
def fmtsBuild : BitVec 16 := 0xc78

/-- The scale register of a build or conversion is named for some formats only (R129, R146). -/
def cFor (f : Fields) (fmts : BitVec 16) : OpK :=
  if fmts.getLsbD f.fmt.toNat then .src else .none

/-- The shape and fields of a strand instruction of formats R, I, M, X and S. -/
def shapeOf : Instr → Option (Shape × Fields)
  | .add f | .sub f | .mul f | .div f | .shl f => some (shBin true, f)
  | .mulh f | .rem f | .and f | .or f | .xor f | .andn f | .shr f | .sar f | .rol f | .min f
  | .max f => some (shBin false, f)
  | .clz f | .ctz f | .popc f | .sext f | .zext f =>
    some ({ d := .dst, a := .src, fmts := 0xff }, f)
  | .set _ f => some (shBin false, f)
  | .sel f => some ({ d := .dst, a := .src, b := .src, c := .src }, f)
  | .mov f => some ({ d := .dst, a := .src }, f)
  | .bfx f => some (
      { d := .dst, a := .src, fmts := 0x81, imm := 0x3f3f,
        bad := decide (64 < f.imm.toNat % 64 + f.imm.toNat / 256 % 64 + 1) }, f)
  | .bfi f => some (
      { d := .g, a := .src, imm := 0x3f3f,
        bad := decide (64 < f.imm.toNat % 64 + f.imm.toNat / 256 % 64 + 1) }, f)
  | .lea f | .ld f => some ({ d := .dst, a := .src, b := .src, fmts := 0xff, imm := immAll }, f)
  | .st f => some (
      { d := .src, a := .src, b := .src, c := .ctl 0x80, fmts := 0xff,
        imm := immAll }, f)
  | .ldq f => some ({ a := .src, b := .src, c := .ctl 0x03, fmts := 0xff, imm := immAll }, f)
  | .stq f => some ({ a := .src, b := .src, c := .ctl 0x81, fmts := 0xff, imm := immAll }, f)
  | .qcfg f | .qadv f => some ({ imm := 0xf07, bad := decide (6 ≤ f.imm.toNat % 8) }, f)
  | .br _ f => some ({ a := .src, b := .src, fmts := 0xff, imm := immAll }, f)
  | .jmp f => some ({ imm := immAll }, f)
  | .jmpr f | .ret f => some ({ a := .g }, f)
  | .call f => some ({ d := .g, imm := immAll }, f)
  | .loop f => some ({ d := .g, imm := immAll }, f)
  | .nop f => some ({}, f)
  | .brk f | .trap f => some ({ imm := 0xffff }, f)
  | .vadd f | .vsub f => some (shVec f 0x1e (rndFloat f) true .vsrc .none, f)
  | .vmul f => some (shVec f 0x9e (rndFloat f) (f.fmt != 7) .vsrc .none, f)
  | .vfma f => some (shVec f 0x1e (rndFloat f) true .vsrc .vsrc, f)
  | .vmin f | .vmax f => some (shVec f 0x1e 1 false .vsrc .none, f)
  | .vabs f | .vneg f => some (shVec f 0x9e 1 (f.fmt == 1) .none .none, f)
  | .vcmp c f => some (
      { d := .k, a := .vsrc, b := .vsrc, fmts := 0x1e, ef := true, imm := 0xf,
        bad := f.iwBad || decide (f.epl ≤ f.part) || (f.fmt == 1 && (c == .un || c == .ord)) }, f)
  | .vsel f => some (shVec f 0xfff 1 false .vsrc .k, f)
  | .vand f | .vor f | .vxor f => some (shVec f 2 1 false .vsrc .none, f)
  | .vshl f => some (shVshift f true, f)
  | .vshr f | .vsar f => some (shVshift f false, f)
  | .vcvt f => some (
      { d := .v, a := .vsrc, c := cFor f 0xc80, fmts := 0xcfe, sat := true,
        rnds := if f.fmt == 10 || (f.fmt == 1 && (f.sf == 1 || f.sf == 8 || f.sf == 9)) ||
            (decide (2 ≤ f.fmt.toNat ∧ f.fmt.toNat ≤ 6) && f.sf == f.fmt.toNat)
        then 1 else 0x1f,
        ef := true, imm := 0x3ff,
        bad := f.iwBad || f.sf == 0 || decide (12 ≤ f.sf) || (f.sf != 1 && f.siw != 0) ||
        decide (partsOf (eplOf (BitVec.ofNat 4 f.sf) f.siw) f.epl ≤ f.part) }, f)
  | .vred op f => some (
      { d := .gdst, a := .vsrc, fmts := 0x1e, rnds := if op == .add && f.fmt != 1 then 0x0f else 1,
        sat := f.fmt == 1, ef := true, imm := 3, bad := f.iwBad }, f)
  | .vscan op f => some (
      { d := .v, a := .vsrc, fmts := 6, rnds := if op == .add && f.fmt != 1 then 0x0f else 1, sat := f.fmt == 1,
        ef := true, imm := 3, bad := f.iwBad }, f)
  | .vperm f => some (shVec f 0xfff 1 false .vsrc .none, f)
  | .vbcast f => some (
      { d := .v, a := .src, fmts := 0xcff, ef := true, imm := 3,
        bad := f.iwBad }, f)
  | .vext f => some (shLane f .gdst .vsrc, f)
  | .vins f => some (shLane f .v .src, f)
  | .vld f => some (
      { d := .v, a := .src, b := .src, c := .vopt, fmts := 0xcff, ef := true,
        imm := immAll }, f)
  | .vst f => some (
      { d := .vsrc, a := .src, b := .src, c := .vopt, fmts := 0xfff, sat := true,
        ef := true, imm := immAll }, f)
  | .vclaim f => some (
      { d := .gdst, imm := 0x77,
        bad := decide (f.imm.toNat % 8 < f.imm.toNat / 16 % 8) }, f)
  | .vyield f => some ({}, f)
  | .vpwl f => some ({ d := .v, a := .vsrc, fmts := 4, ef := true }, f)
  | .pwlset f => some ({ a := .src, imm := 0x3f }, f)
  | .vblk f => some (
      { d := .gdst, a := .vsrc, fmts := 0x1c, ef := true, imm := 1,
        bad := f.imm.getLsbD 0 }, f)
  | .vblkSet f => some (
      { d := .v, a := .vsrc, b := .src, fmts := 0xc80, ef := true, imm := 1,
        bad := !f.imm.getLsbD 0 }, f)
  | .vqPc f => some (
      { d := .v, a := .vsrc, b := .vsrc, c := .src, fmts := 0x1c, rnds := 0x1f,
        ef := true, imm := 0xc, bad := decide (partsOf (eplOf f.fmt 0) 4 ≤ f.part) }, f)
  | .vqCb f => some (
      { d := .v, a := .vsrc, b := .vsrc, c := .src, fmts := 0x1c,
        ef := true, imm := 0xc, bad := decide (partsOf (eplOf f.fmt 0) 4 ≤ f.part) }, f)
  | .vpois f => some ({ d := .k, a := .vsrc, imm := 1 }, f)
  | .kand f | .kor f | .kxor f => some ({ d := .k, a := .k, b := .k }, f)
  | .knot f => some ({ d := .k, a := .k }, f)
  | .kpop f | .kfirst f => some ({ d := .gdst, a := .k }, f)
  | .kmov f => some ({ d := .kOrGdst, a := .kOrSrc, badOp := !isK f.d && !isK f.a }, f)
  | .mclaim f => some ({ d := .gdst, pred := false }, f)
  | .mrel f => some ({ pred := false }, f)
  | .mld f => some (
      { d := .m, a := .src, b := .src, c := .src, fmts := 0xffe,
        imm := immAll }, f)
  | .mst f => some (
      { d := .m, a := .src, b := .src, c := .src, fmts := 0xffe, sat := true,
        ef := true, imm := immAll }, f)
  | .tbuild f => some (
      { d := .tb, a := .m, c := cFor f 0x78, fmts := fmtsBuild, ef := true,
        pred := false }, f)
  | .tbuildc f => some (
      { d := .tb, a := .m, b := .vsrc, c := cFor f 0x78, fmts := fmtsBuild,
        ef := true, pred := false, imm := 0x3f }, f)
  | .tlook f => some ({ d := .a, a := .tb, b := .m, c := .src, fmts := 0x100 }, f)
  | .tlookc f => some ({ d := .a, a := .tb, b := .m, fmts := 0x200 }, f)
  | .tdrop f => some ({ d := .tb, pred := false }, f)
  | .azero f => some ({ d := .a, pred := false }, f)
  | .ald f => some ({ d := .a, a := .src, b := .src, c := .src, fmts := 4, imm := immAll }, f)
  | .ast f => some (
      { d := .a, a := .src, b := .src, c := .src, fmts := 4, sat := true,
        imm := immAll }, f)
  | .aflush f => some ({ d := .a, a := .vsrc, fmts := 8, ef := true, pred := false }, f)
  | .aput f => some ({ d := .a, a := .src, b := .src, fmts := 4, pred := false }, f)
  | .mchk f => some (
      { d := .veven, a := .tb, b := .m, c := .src, fmts := 0x100,
        pred := false }, f)
  | .achk f => some (
      { d := .kpair, a := .a, b := .veven, c := .src, fmts := 4, ef := true,
        pred := false }, f)
  | .spawn f => some ({ d := .gdst, a := .src, b := .src, imm := immAll }, f)
  | .exit f | .park f | .region f | .regionClose f | .svcReturn f | .tret f => some ({}, f)
  | .fence f => some ({ scps := 0x3f }, f)
  | .wait f => some ({ d := .gdst, a := .src, b := .src }, f)
  | .yield f => some ({ imm := 0xf }, f)
  | .wid f => some ({ d := .gdst, imm := 7, bad := f.imm.toNat % 8 == 6 }, f)
  | .sync op f => some (
      { d := .gdst, a := .src, b := .src, c := .ctl 0xc0, scps := scp15,
        fmts := 0x81, imm := if f.c.getLsbD 6 then 0 else immAll,
        bad := f.c.getLsbD 7 && (f.fmt != 0 || op == .and || op == .or) }, f)
  | .ssr f => some ({ d := .gdst, scps := 0x3f, imm := 3, bad := f.imm.toNat % 4 == 3 }, f)
  | .amo _ f => some (
      { d := .gdst, a := .src, b := .src, c := .src, fmts := 0xe1,
        imm := immAll }, f)
  | .facc f => some ({ d := .src, a := .src, b := .src, imm := immAll }, f)
  | .fcrd f => some ({ d := .gdst, a := .src, b := .src, c := .ctl 1, imm := immAll }, f)
  | .xget f => some (shBlock f .addr .addrH 0 true, f)
  | .xput f => some (shBlock f .addrH .addr immRsw true, f)
  | .xcpy f => some (shBlock f .addrH .addrH immRsw true, f)
  | .xmc f => some (shBlock f .addr .addrH 0xfc0ffff1 false, f)
  | .xld f => some (
      { d := .g, a := if f.lq then .none else .addr, b := .addrH,
        c := if isH f.b then .g else .none, scps := scp15, rnds := xflags false, ef := true,
        fmts := if f.lq then 1 else 0x1f, imm := if f.lq then 3 else 0 }, f)
  | .xst f => some (
      { d := .g, a := .addrH, b := .addr, c := if isH f.a then .g else .none,
        scps := scp15, rnds := xflags false, fmts := 0x1f, imm := immRsw }, f)
  | .xopAdd f | .xopFadd f | .xopCas1 f | .xopCas2 f | .xopCas4 f | .xopEnq f | .xopChase f =>
    some (shXop f, f)
  | .xsend f => some (
      { d := .g, a := .g, b := .src, c := .ctl 1, scps := 0x3f,
        rnds := xflags false, sat := true, imm := immRsw }, f)
  | .swset f => some ({ d := .g, a := .src, b := .src, c := .ctl 1, imm := immAll }, f)
  | .swget f => some ({ d := .gdst, a := .src, b := .src, c := .ctl 1, imm := immAll }, f)
  | .ctready f => some ({ a := .src }, f)
  | .ctarm f => some (
      { d := .g, a := .src, b := if f.imm.getLsbD 0 then .src else .none,
        imm := 1 }, f)
  | .ctstat f => some ({ d := .gdst, a := .src }, f)
  | .svc f => some ({ d := .gdst, a := .src, imm := 0xffff, bad := f.imm.toNat % 65536 == 0 }, f)
  | .mfsr f => some ({ d := .gdst, imm := 0xfff, undef := !isSpecial (f.imm.toNat % 4096) }, f)
  | .mtsr f => some ({ a := .src, imm := 0xfff, undef := !isSpecial (f.imm.toNat % 4096) }, f)
  | .klaunch f => some ({ d := .gdst, a := .src, b := .src }, f)
  | .halt f => some ({ imm := 0xffff }, f)
  | .tlbinvPage f => some (shTlbinv .src .src 1, f)
  | .tlbinvCtx f => some (shTlbinv .none .src 0, f)
  | .tlbinvAll f => some (shTlbinv .none .none 0, f)
  | .tlbprobe f => some ({ d := .gdst, a := .src, b := .src }, f)
  | .fltrd f => some ({ d := .geven, a := .src }, f)
  | .fltrep f => some ({ a := .src, imm := 1 }, f)
  | .migr f => some ({ d := .gdst, a := .src, b := .src, c := .src, imm := immRsw }, f)
  | .hld f => some ({ d := .h, a := .src, b := .src, imm := immAll }, f)
  | .hst f => some ({ d := .h, a := .src, b := .src, c := .ctl 0x80, imm := immAll }, f)
  | .hmov f => some ({ d := .hOrGdst, a := .hOrSrc, badOp := !isH f.d && !isH f.a }, f)
  | .hpin f => some ({ d := .geven, a := .h }, f)
  | .hunpin f => some ({ d := .gdst, a := .h }, f)
  | .hcmp f => some ({ d := .gdst, a := .h, b := .h }, f)
  | .hobjAlloc f => some (shHobj f 0 .h .src .src, f)
  | .hobjFree f => some (shHobj f 1 .gdst .h .none, f)
  | .hobjInfo f => some (shHobj f 2 .geven .h .none, f)
  | .hobjMove f => some (shHobj f 3 .h .h .src, f)
  | .hobjCompact f => some (shHobj f 4 .gdst .none .src, f)
  | .hobjFlip f => some (shHobj f 5 .gdst .none .src, f)
  | .pair f | .unpair f => some ({ d := .gdst }, f)
  | _ => none

/-- A reserved-field condition of R80 holds. -/
def reservedBad (sh : Shape) (f : Fields) : Bool :=
  !sh.scps.getLsbD f.scp.toNat || (!sh.pred && (f.prd != 0 || f.neg)) ||
  !sh.rnds.getLsbD f.rnd.toNat || (!sh.sat && f.sat) || (!sh.ef && f.ef) ||
  !sh.fmts.getLsbD f.fmt.toNat || f.imm &&& ~~~ sh.imm != 0 ||
  !(sh.d.ctlOk f.d && sh.a.ctlOk f.a && sh.b.ctlOk f.b && sh.c.ctlOk f.c) || sh.bad

/-- An operand lies outside the files or indices its position accepts (R47, R77, R80). -/
def operandBad (sh : Shape) (f : Fields) : Bool :=
  !(sh.d.accepts f.d && sh.a.accepts f.a && sh.b.accepts f.b && sh.c.accepts f.c) || sh.badOp

/-- Why a word is rejected at decode, in the order of R81. -/
inductive DecodeErr where
  /-- MAJ or MIN unassigned, or a special-register number not in R59: undefined-instruction trap -/
  | undefined
  /-- reserved-field trap -/
  | reservedField
  /-- operand-class trap -/
  | operandClass
  deriving DecidableEq, Repr

/-- The decode checks of R81 (4 to 6) on shaped fields. -/
def shapeErr (sh : Shape) (f : Fields) : Option DecodeErr :=
  if sh.undef then some .undefined
  else if reservedBad sh f then some .reservedField
  else if operandBad sh f then some .operandClass
  else none

/-- The decode checks of an instruction. `movi` has a D and an A field alone (R96), `rep` steps
and reserved bits (R82); a step has no word, so nothing to check. -/
def decodeErr (i : Instr) : Option DecodeErr :=
  match i with
  | .movi d a _ => if OpK.dst.accepts d && a == 0 then none else some .operandClass
  | .rep r => if r.rsv == 0 then none else some .reservedField
  | i =>
    match shapeOf i with
    | some (sh, f) => shapeErr sh f
    | none => none

/-- A well-formed instruction: no decode check of R80 rejects it. -/
def wellFormed (i : Instr) : Bool := (decodeErr i).isNone

/-- Whether a term is a strand instruction, one that has a 96-bit word. -/
def isStrand (i : Instr) : Bool :=
  match i with
  | .movi .. | .rep _ => true
  | i => (shapeOf i).isSome

end Sys2Proof
end

