-- ==== Sys2Proof/Decode.lean ====
section
/-! DEFINITION. The decoder, total on 96-bit words and on bytes, and the encoder (R64, R73 to R82). -/

namespace Sys2Proof

/-! ### Fields of a word (R73, R75, R82) -/

/-- Bits [lo + n − 1 : lo] of a word. -/
def bitsAt {w : Nat} (x : BitVec w) (lo n : Nat) : BitVec n := x.extractLsb' lo n

/-- Bit lo of a word. -/
def bitAt {w : Nat} (x : BitVec w) (lo : Nat) : Bool := x.getLsbD lo

/-- MAJ, bits [95:88] (R73). -/
def wordMaj (w : BitVec 96) : BitVec 8 := bitsAt w 88 8
/-- MIN, bits [87:80] (R73). -/
def wordMin (w : BitVec 96) : BitVec 8 := bitsAt w 80 8

/-- The fields of formats R, I, M, X and S (R73, R75). -/
def wordFields (w : BitVec 96) : Fields :=
  { d := bitsAt w 72 8, a := bitsAt w 64 8, b := bitsAt w 56 8, c := bitsAt w 48 8,
    scp := bitsAt w 45 3, prd := bitsAt w 42 3, neg := bitAt w 41, rnd := bitsAt w 38 3,
    sat := bitAt w 37, fmt := bitsAt w 33 4, ef := bitAt w 32, imm := bitsAt w 0 32 }

/-- The fields of format P (R82). -/
def wordRep (w : BitVec 96) : RepFields :=
  { sd := bitsAt w 72 8, sa := bitsAt w 64 8, sb := bitsAt w 56 8, sc := bitsAt w 48 8,
    rsv := bitsAt w 38 10, cnt := bitsAt w 32 6, si := bitsAt w 0 32 }

/-! ### Minor codes (R79) -/

/-- The condition of a minor code of `set` and `br`. -/
def condOf (n : Nat) : Option Cond :=
  match n with
  | 0 => some .eq | 1 => some .ne | 2 => some .lt | 3 => some .le | 4 => some .gt
  | 5 => some .ge | 6 => some .ltu | 7 => some .leu | 8 => some .gtu | 9 => some .geu
  | _ => none

/-- The minor code of a condition. -/
def Cond.code : Cond → BitVec 8
  | .eq => 0 | .ne => 1 | .lt => 2 | .le => 3 | .gt => 4
  | .ge => 5 | .ltu => 6 | .leu => 7 | .gtu => 8 | .geu => 9

/-- The condition of a minor code of `vcmp`. -/
def vcondOf (n : Nat) : Option VCond :=
  match n with
  | 0 => some .eq | 1 => some .ne | 2 => some .lt | 3 => some .le | 4 => some .gt
  | 5 => some .ge | 10 => some .un | 11 => some .ord
  | _ => none

/-- The minor code of a `vcmp` condition. -/
def VCond.code : VCond → BitVec 8
  | .eq => 0 | .ne => 1 | .lt => 2 | .le => 3 | .gt => 4 | .ge => 5 | .un => 10 | .ord => 11

/-- The operator of a minor code of `vred` and `vscan`. -/
def redOf (n : Nat) : Option RedOp :=
  match n with
  | 0 => some .add | 1 => some .min | 2 => some .max | 3 => some .and | 4 => some .or
  | 5 => some .xor
  | _ => none

/-- The minor code of a reduction operator. -/
def RedOp.code : RedOp → BitVec 8
  | .add => 0 | .min => 1 | .max => 2 | .and => 3 | .or => 4 | .xor => 5

/-- The reduction of a minor code of `sync`. -/
def syncOf (n : Nat) : Option SyncOp :=
  match n with
  | 0 => some .add | 1 => some .min | 2 => some .max | 3 => some .and | 4 => some .or
  | _ => none

/-- The minor code of a `sync` reduction. -/
def SyncOp.code : SyncOp → BitVec 8
  | .add => 0 | .min => 1 | .max => 2 | .and => 3 | .or => 4

/-- The operation of a minor code of `amo`. -/
def amoOf (n : Nat) : Option AmoOp :=
  match n with
  | 0 => some .add | 1 => some .and | 2 => some .or | 3 => some .xor | 4 => some .min
  | 5 => some .max | 6 => some .minu | 7 => some .maxu | 8 => some .swap | 9 => some .cas
  | _ => none

/-- The minor code of an `amo` operation. -/
def AmoOp.code : AmoOp → BitVec 8
  | .add => 0 | .and => 1 | .or => 2 | .xor => 3 | .min => 4
  | .max => 5 | .minu => 6 | .maxu => 7 | .swap => 8 | .cas => 9

/-! ### The opcode map (R78) -/

/-- The instruction of a minor-free major code; none where the major is unassigned or takes minor
codes of its own. -/
def majorInstr (maj : Nat) (f : Fields) : Option Instr :=
  match maj with
  | 0x10 => some (.add f)
  | 0x11 => some (.sub f)
  | 0x12 => some (.mul f)
  | 0x13 => some (.mulh f)
  | 0x14 => some (.div f)
  | 0x15 => some (.rem f)
  | 0x16 => some (.and f)
  | 0x17 => some (.or f)
  | 0x18 => some (.xor f)
  | 0x19 => some (.andn f)
  | 0x1a => some (.shl f)
  | 0x1b => some (.shr f)
  | 0x1c => some (.sar f)
  | 0x1d => some (.rol f)
  | 0x1e => some (.min f)
  | 0x1f => some (.max f)
  | 0x20 => some (.clz f)
  | 0x21 => some (.ctz f)
  | 0x22 => some (.popc f)
  | 0x24 => some (.sel f)
  | 0x25 => some (.mov f)
  | 0x27 => some (.sext f)
  | 0x28 => some (.zext f)
  | 0x29 => some (.bfx f)
  | 0x2a => some (.bfi f)
  | 0x2b => some (.lea f)
  | 0x2c => some (.ld f)
  | 0x2d => some (.st f)
  | 0x2e => some (.ldq f)
  | 0x2f => some (.stq f)
  | 0x30 => some (.qcfg f)
  | 0x31 => some (.qadv f)
  | 0x33 => some (.jmp f)
  | 0x34 => some (.jmpr f)
  | 0x35 => some (.call f)
  | 0x36 => some (.ret f)
  | 0x37 => some (.loop f)
  | 0x39 => some (.nop f)
  | 0x3a => some (.brk f)
  | 0x3b => some (.trap f)
  | 0x40 => some (.vadd f)
  | 0x41 => some (.vsub f)
  | 0x42 => some (.vmul f)
  | 0x43 => some (.vfma f)
  | 0x44 => some (.vmin f)
  | 0x45 => some (.vmax f)
  | 0x46 => some (.vabs f)
  | 0x47 => some (.vneg f)
  | 0x49 => some (.vsel f)
  | 0x4a => some (.vand f)
  | 0x4b => some (.vor f)
  | 0x4c => some (.vxor f)
  | 0x4d => some (.vshl f)
  | 0x4e => some (.vshr f)
  | 0x4f => some (.vsar f)
  | 0x50 => some (.vcvt f)
  | 0x53 => some (.vperm f)
  | 0x54 => some (.vbcast f)
  | 0x55 => some (.vext f)
  | 0x56 => some (.vins f)
  | 0x57 => some (.vld f)
  | 0x58 => some (.vst f)
  | 0x59 => some (.vclaim f)
  | 0x5a => some (.vyield f)
  | 0x5b => some (.vpwl f)
  | 0x5c => some (.pwlset f)
  | 0x5f => some (.vpois f)
  | 0x60 => some (.kand f)
  | 0x61 => some (.kor f)
  | 0x62 => some (.kxor f)
  | 0x63 => some (.knot f)
  | 0x64 => some (.kpop f)
  | 0x65 => some (.kfirst f)
  | 0x66 => some (.kmov f)
  | 0x70 => some (.mclaim f)
  | 0x71 => some (.mrel f)
  | 0x72 => some (.mld f)
  | 0x73 => some (.mst f)
  | 0x74 => some (.tbuild f)
  | 0x75 => some (.tbuildc f)
  | 0x76 => some (.tlook f)
  | 0x77 => some (.tlookc f)
  | 0x78 => some (.tdrop f)
  | 0x79 => some (.azero f)
  | 0x7a => some (.ald f)
  | 0x7b => some (.ast f)
  | 0x7c => some (.aflush f)
  | 0x7d => some (.aput f)
  | 0x7e => some (.mchk f)
  | 0x7f => some (.achk f)
  | 0x80 => some (.spawn f)
  | 0x81 => some (.exit f)
  | 0x82 => some (.wait f)
  | 0x83 => some (.yield f)
  | 0x84 => some (.wid f)
  | 0x86 => some (.ssr f)
  | 0x87 => some (.fence f)
  | 0x89 => some (.facc f)
  | 0x8a => some (.fcrd f)
  | 0x90 => some (.xget f)
  | 0x91 => some (.xput f)
  | 0x92 => some (.xcpy f)
  | 0x93 => some (.xmc f)
  | 0x94 => some (.xld f)
  | 0x95 => some (.xst f)
  | 0x97 => some (.xsend f)
  | 0x98 => some (.swset f)
  | 0x99 => some (.swget f)
  | 0x9a => some (.ctready f)
  | 0x9b => some (.ctarm f)
  | 0x9c => some (.ctstat f)
  | 0xa1 => some (.tret f)
  | 0xa2 => some (.mfsr f)
  | 0xa3 => some (.mtsr f)
  | 0xa4 => some (.park f)
  | 0xa5 => some (.klaunch f)
  | 0xa6 => some (.halt f)
  | 0xa8 => some (.tlbprobe f)
  | 0xa9 => some (.fltrd f)
  | 0xaa => some (.fltrep f)
  | 0xab => some (.migr f)
  | 0xb0 => some (.hld f)
  | 0xb1 => some (.hst f)
  | 0xb2 => some (.hmov f)
  | 0xb3 => some (.hpin f)
  | 0xb4 => some (.hunpin f)
  | 0xb5 => some (.hcmp f)
  | 0xb8 => some (.pair f)
  | 0xb9 => some (.unpair f)
  | _ => none

/-- `hobj` by its operation IMM[2:0] (R326). Operations 6 and 7 are read as the last one, whose
shape refuses them with the reserved-field trap. -/
def hobjInstr (f : Fields) : Instr :=
  match f.imm.toNat % 8 with
  | 0 => .hobjAlloc f
  | 1 => .hobjFree f
  | 2 => .hobjInfo f
  | 3 => .hobjMove f
  | 4 => .hobjCompact f
  | _ => .hobjFlip f

/-- The instruction of a major and minor code (R78, R79), before the decode checks; none where
the pattern is no instruction. -/
def opcodeInstr (maj min : Nat) (f : Fields) : Option Instr :=
  match maj with
  | 0x23 => (condOf min).map (fun c => .set c f)
  | 0x32 => (condOf min).map (fun c => .br c f)
  | 0x48 => (vcondOf min).map (fun c => .vcmp c f)
  | 0x51 => (redOf min).map (fun c => .vred c f)
  | 0x52 => (redOf min).map (fun c => .vscan c f)
  | 0x85 => (syncOf min).map (fun c => .sync c f)
  | 0x88 => (amoOf min).map (fun c => .amo c f)
  | 0x5d =>
    if min = 0 then some (if f.imm.getLsbD 0 then .vblkSet f else .vblk f) else none
  | 0x5e =>
    match min with
    | 0 => some (.vqPc f)
    | 1 => some (.vqCb f)
    | _ => none
  | 0x96 =>
    match min with
    | 0 => some (.xopAdd f)
    | 1 => some (.xopFadd f)
    | 2 => some (.xopCas1 f)
    | 3 => some (.xopCas2 f)
    | 4 => some (.xopCas4 f)
    | 5 => some (.xopEnq f)
    | 6 => some (.xopChase f)
    | _ => none
  | 0xa0 =>
    if min = 0 then some (if f.imm.toNat % 65536 = 0 then .svcReturn f else .svc f) else none
  | 0xa7 =>
    match min with
    | 0 => some (.tlbinvPage f)
    | 1 => some (.tlbinvCtx f)
    | 2 => some (.tlbinvAll f)
    | _ => none
  | 0xb6 => if min = 0 then some (hobjInstr f) else none
  | 0xb7 =>
    match min with
    | 0 => some (.region f)
    | 1 => some (.regionClose f)
    | _ => none
  | _ => if min = 0 then majorInstr maj f else none

/-- The instruction of a word, before the decode checks (R78, R79). -/
def decodeOpcode (w : BitVec 96) : Option Instr :=
  if wordMaj w = 0x26 then
    if wordMin w = 0 then some (.movi (bitsAt w 72 8) (bitsAt w 64 8) (bitsAt w 0 64)) else none
  else if wordMaj w = 0x38 then
    if wordMin w = 0 then some (.rep (wordRep w)) else none
  else opcodeInstr (wordMaj w).toNat (wordMin w).toNat (wordFields w)

/-- The decoder: the instruction of a 96-bit word, or why it is none (R80, R81). -/
def decode (w : BitVec 96) : Except DecodeErr Instr :=
  match decodeOpcode w with
  | none => .error .undefined
  | some i =>
    match decodeErr i with
    | some e => .error e
    | none => .ok i

/-! ### Bytes (R9, R64) -/

/-- The little-endian number of a list of bytes (R9). -/
def bytesToNat : List Byte → Nat
  | [] => 0
  | b :: t => b.toNat + 256 * bytesToNat t

/-- The n bytes of a number, least significant first (R9). -/
def natToBytes (n : Nat) (x : Nat) : List Byte :=
  match n with
  | 0 => []
  | k + 1 => BitVec.ofNat 8 x :: natToBytes k (x / 256)

/-- The instruction in the first twelve bytes of a list, and the rest of the list (R64). -/
def decodeBytes (bs : List Byte) : Except DecodeErr (Instr × List Byte) :=
  match decode (BitVec.ofNat 96 (bytesToNat (bs.take 12))) with
  | .ok i => .ok (i, bs.drop 12)
  | .error e => .error e

/-- The decoder on a word numbered as spec/opcode_table.json numbers bits: bit 0 is the least
significant bit of the first byte. The bits above nbits are zero. -/
def decodeTableWord (nbits w : Nat) : Option Instr :=
  match decodeBytes (natToBytes 12 (w % 2 ^ nbits)) with
  | .ok (i, _) => some i
  | .error _ => none

/-! ### The encoder -/

/-- A word of formats R, I, M, X and S from its fields (R73, R75). -/
def packFields (maj min : BitVec 8) (f : Fields) : BitVec 96 :=
  maj ++ min ++ f.d ++ f.a ++ f.b ++ f.c ++ f.scp ++ f.prd ++ BitVec.ofBool f.neg ++ f.rnd ++
    BitVec.ofBool f.sat ++ f.fmt ++ BitVec.ofBool f.ef ++ f.imm

/-- A word of format L (R73). -/
def packMovi (d a : BitVec 8) (imm : BitVec 64) : BitVec 96 :=
  (0x26 : BitVec 8) ++ (0 : BitVec 8) ++ d ++ a ++ imm

/-- A word of format P (R82). -/
def packRep (r : RepFields) : BitVec 96 :=
  (0x38 : BitVec 8) ++ (0 : BitVec 8) ++ r.sd ++ r.sa ++ r.sb ++ r.sc ++ r.rsv ++ r.cnt ++ r.si

/-- MAJ, MIN and the fields of a strand instruction of formats R, I, M, X and S (R78, R79). -/
def opcodeOf : Instr → Option (BitVec 8 × BitVec 8 × Fields)
  | .add f => some (0x10, 0, f)
  | .sub f => some (0x11, 0, f)
  | .mul f => some (0x12, 0, f)
  | .mulh f => some (0x13, 0, f)
  | .div f => some (0x14, 0, f)
  | .rem f => some (0x15, 0, f)
  | .and f => some (0x16, 0, f)
  | .or f => some (0x17, 0, f)
  | .xor f => some (0x18, 0, f)
  | .andn f => some (0x19, 0, f)
  | .shl f => some (0x1a, 0, f)
  | .shr f => some (0x1b, 0, f)
  | .sar f => some (0x1c, 0, f)
  | .rol f => some (0x1d, 0, f)
  | .min f => some (0x1e, 0, f)
  | .max f => some (0x1f, 0, f)
  | .clz f => some (0x20, 0, f)
  | .ctz f => some (0x21, 0, f)
  | .popc f => some (0x22, 0, f)
  | .sel f => some (0x24, 0, f)
  | .mov f => some (0x25, 0, f)
  | .sext f => some (0x27, 0, f)
  | .zext f => some (0x28, 0, f)
  | .bfx f => some (0x29, 0, f)
  | .bfi f => some (0x2a, 0, f)
  | .lea f => some (0x2b, 0, f)
  | .ld f => some (0x2c, 0, f)
  | .st f => some (0x2d, 0, f)
  | .ldq f => some (0x2e, 0, f)
  | .stq f => some (0x2f, 0, f)
  | .qcfg f => some (0x30, 0, f)
  | .qadv f => some (0x31, 0, f)
  | .jmp f => some (0x33, 0, f)
  | .jmpr f => some (0x34, 0, f)
  | .call f => some (0x35, 0, f)
  | .ret f => some (0x36, 0, f)
  | .loop f => some (0x37, 0, f)
  | .nop f => some (0x39, 0, f)
  | .brk f => some (0x3a, 0, f)
  | .trap f => some (0x3b, 0, f)
  | .vadd f => some (0x40, 0, f)
  | .vsub f => some (0x41, 0, f)
  | .vmul f => some (0x42, 0, f)
  | .vfma f => some (0x43, 0, f)
  | .vmin f => some (0x44, 0, f)
  | .vmax f => some (0x45, 0, f)
  | .vabs f => some (0x46, 0, f)
  | .vneg f => some (0x47, 0, f)
  | .vsel f => some (0x49, 0, f)
  | .vand f => some (0x4a, 0, f)
  | .vor f => some (0x4b, 0, f)
  | .vxor f => some (0x4c, 0, f)
  | .vshl f => some (0x4d, 0, f)
  | .vshr f => some (0x4e, 0, f)
  | .vsar f => some (0x4f, 0, f)
  | .vcvt f => some (0x50, 0, f)
  | .vperm f => some (0x53, 0, f)
  | .vbcast f => some (0x54, 0, f)
  | .vext f => some (0x55, 0, f)
  | .vins f => some (0x56, 0, f)
  | .vld f => some (0x57, 0, f)
  | .vst f => some (0x58, 0, f)
  | .vclaim f => some (0x59, 0, f)
  | .vyield f => some (0x5a, 0, f)
  | .vpwl f => some (0x5b, 0, f)
  | .pwlset f => some (0x5c, 0, f)
  | .vpois f => some (0x5f, 0, f)
  | .kand f => some (0x60, 0, f)
  | .kor f => some (0x61, 0, f)
  | .kxor f => some (0x62, 0, f)
  | .knot f => some (0x63, 0, f)
  | .kpop f => some (0x64, 0, f)
  | .kfirst f => some (0x65, 0, f)
  | .kmov f => some (0x66, 0, f)
  | .mclaim f => some (0x70, 0, f)
  | .mrel f => some (0x71, 0, f)
  | .mld f => some (0x72, 0, f)
  | .mst f => some (0x73, 0, f)
  | .tbuild f => some (0x74, 0, f)
  | .tbuildc f => some (0x75, 0, f)
  | .tlook f => some (0x76, 0, f)
  | .tlookc f => some (0x77, 0, f)
  | .tdrop f => some (0x78, 0, f)
  | .azero f => some (0x79, 0, f)
  | .ald f => some (0x7a, 0, f)
  | .ast f => some (0x7b, 0, f)
  | .aflush f => some (0x7c, 0, f)
  | .aput f => some (0x7d, 0, f)
  | .mchk f => some (0x7e, 0, f)
  | .achk f => some (0x7f, 0, f)
  | .spawn f => some (0x80, 0, f)
  | .exit f => some (0x81, 0, f)
  | .wait f => some (0x82, 0, f)
  | .yield f => some (0x83, 0, f)
  | .wid f => some (0x84, 0, f)
  | .ssr f => some (0x86, 0, f)
  | .fence f => some (0x87, 0, f)
  | .facc f => some (0x89, 0, f)
  | .fcrd f => some (0x8a, 0, f)
  | .xget f => some (0x90, 0, f)
  | .xput f => some (0x91, 0, f)
  | .xcpy f => some (0x92, 0, f)
  | .xmc f => some (0x93, 0, f)
  | .xld f => some (0x94, 0, f)
  | .xst f => some (0x95, 0, f)
  | .xsend f => some (0x97, 0, f)
  | .swset f => some (0x98, 0, f)
  | .swget f => some (0x99, 0, f)
  | .ctready f => some (0x9a, 0, f)
  | .ctarm f => some (0x9b, 0, f)
  | .ctstat f => some (0x9c, 0, f)
  | .tret f => some (0xa1, 0, f)
  | .mfsr f => some (0xa2, 0, f)
  | .mtsr f => some (0xa3, 0, f)
  | .park f => some (0xa4, 0, f)
  | .klaunch f => some (0xa5, 0, f)
  | .halt f => some (0xa6, 0, f)
  | .tlbprobe f => some (0xa8, 0, f)
  | .fltrd f => some (0xa9, 0, f)
  | .fltrep f => some (0xaa, 0, f)
  | .migr f => some (0xab, 0, f)
  | .hld f => some (0xb0, 0, f)
  | .hst f => some (0xb1, 0, f)
  | .hmov f => some (0xb2, 0, f)
  | .hpin f => some (0xb3, 0, f)
  | .hunpin f => some (0xb4, 0, f)
  | .hcmp f => some (0xb5, 0, f)
  | .pair f => some (0xb8, 0, f)
  | .unpair f => some (0xb9, 0, f)
  | .set op f => some (0x23, op.code, f)
  | .br op f => some (0x32, op.code, f)
  | .vcmp op f => some (0x48, op.code, f)
  | .vred op f => some (0x51, op.code, f)
  | .vscan op f => some (0x52, op.code, f)
  | .sync op f => some (0x85, op.code, f)
  | .amo op f => some (0x88, op.code, f)
  | .vblk f | .vblkSet f => some (0x5d, 0, f)
  | .vqPc f => some (0x5e, 0, f)
  | .vqCb f => some (0x5e, 1, f)
  | .xopAdd f => some (0x96, 0, f)
  | .xopFadd f => some (0x96, 1, f)
  | .xopCas1 f => some (0x96, 2, f)
  | .xopCas2 f => some (0x96, 3, f)
  | .xopCas4 f => some (0x96, 4, f)
  | .xopEnq f => some (0x96, 5, f)
  | .xopChase f => some (0x96, 6, f)
  | .svc f | .svcReturn f => some (0xa0, 0, f)
  | .tlbinvPage f => some (0xa7, 0, f)
  | .tlbinvCtx f => some (0xa7, 1, f)
  | .tlbinvAll f => some (0xa7, 2, f)
  | .hobjAlloc f | .hobjFree f | .hobjInfo f | .hobjMove f | .hobjCompact f | .hobjFlip f =>
    some (0xb6, 0, f)
  | .region f => some (0xb7, 0, f)
  | .regionClose f => some (0xb7, 1, f)
  | _ => none

/-- The encoder: the 96-bit word of a strand instruction; a step has none. -/
def encode (i : Instr) : Option (BitVec 96) :=
  match i with
  | .movi d a imm => some (packMovi d a imm)
  | .rep r => some (packRep r)
  | i => (opcodeOf i).map fun p => packFields p.1 p.2.1 p.2.2

/-- The twelve bytes of a strand instruction in a fetch line (R64). -/
def encodeBytes (i : Instr) : Option (List Byte) :=
  (encode i).map fun w => natToBytes 12 w.toNat

/-- Rows 0x4, 0x5, 0x6, 0x7 and 0x9 are class E, the others class S (R69). -/
def isClassE (i : Instr) : Bool :=
  match opcodeOf i with
  | some (maj, _, _) => decide (4 ≤ maj.toNat / 16 ∧ maj.toNat / 16 ≤ 7) || maj.toNat / 16 == 9
  | none => false

/-- The instructions that raise the privilege trap in a tenant strand (R78). -/
def isPrivileged (i : Instr) : Bool :=
  match i with
  | .tret _ | .halt _ | .tlbinvPage _ | .tlbinvCtx _ | .tlbinvAll _ | .fltrd _ | .fltrep _
  | .migr _ => true
  | _ => false

end Sys2Proof
end

