-- ==== Sys2Proof/Machine/Num.lean ====
section
/-! DEFINITION. Number formats, rounding, block exponents, fixed-point cells and wire blocks
(R21 to R45). Reals are exact fractions; every rounding is explicit. -/

namespace Sys2Proof.Machine

/-! ### Bits and integers -/

/-- One where the condition holds, else zero. -/
def b2n (c : Bool) : Nat := if c then 1 else 0

/-- A flag as a 64-bit word. -/
def b2w (c : Bool) : Word := if c then 1 else 0

/-- Bits [lo + n − 1 : lo] of a natural number. -/
def bitsN (x lo n : Nat) : Nat := x / 2 ^ lo % 2 ^ n

/-- The field of n bits at bit lo of a word replaced (a readback field, R10). -/
def setBits {w : Nat} (x : BitVec w) (lo n v : Nat) : BitVec w :=
  (x &&& ~~~ (BitVec.ofNat w ((2 ^ n - 1) * 2 ^ lo))) ||| BitVec.ofNat w (v % 2 ^ n * 2 ^ lo)

/-- The two's complement reading of the low w bits of a number (R22, R45 SExt). -/
def sextN (w x : Nat) : Int :=
  let y := x % 2 ^ w
  if 2 * y < 2 ^ w then (y : Int) else (y : Int) - (2 ^ w : Nat)

/-- An integer reduced modulo 2^w (Wrap of R22). -/
def wrapN (w : Nat) (x : Int) : Nat := (x % ((2 ^ w : Nat) : Int)).toNat

/-- Least value of an integer format (R22). -/
def intMin (w : Nat) (signed : Bool) : Int := if signed then - ((2 ^ (w - 1) : Nat) : Int) else 0
/-- Largest value of an integer format (R22). -/
def intMax (w : Nat) (signed : Bool) : Int :=
  if signed then ((2 ^ (w - 1) : Nat) : Int) - 1 else ((2 ^ w : Nat) : Int) - 1

/-- Sat of R22. -/
def satI (w : Nat) (signed : Bool) (x : Int) : Int := max (intMin w signed) (min (intMax w signed) x)

/-- The low w bits of an integer result, saturated with `.sat`, else wrapped (R22). -/
def intBits (w : Nat) (signed sat : Bool) (x : Int) : Nat :=
  wrapN w (if sat then satI w signed x else x)

/-- The integer of the low w bits in a format (R22). -/
def intVal (w : Nat) (signed : Bool) (x : Nat) : Int :=
  if signed then sextN w x else ((x % 2 ^ w : Nat) : Int)

/-! ### Exact values -/

/-- A real value or a special one: a fraction num/den with a sign, so that both zeros exist (R23). -/
inductive FVal where
  | nan
  | inf (neg : Bool)
  | fin (neg : Bool) (num den : Nat)
  deriving DecidableEq, Repr

/-- n × 2^e as a fraction. -/
def FVal.ofScaled (neg : Bool) (n : Nat) (e : Int) : FVal :=
  if 0 ≤ e then .fin neg (n * 2 ^ e.toNat) 1 else .fin neg n (2 ^ (-e).toNat)

/-- An integer as a value. -/
def FVal.ofInt (x : Int) : FVal := .fin (decide (x < 0)) x.natAbs 1

/-- x × 2^e. -/
def FVal.scale (x : FVal) (e : Int) : FVal :=
  match x with
  | .fin s n d => if 0 ≤ e then .fin s (n * 2 ^ e.toNat) d else .fin s n (d * 2 ^ (-e).toNat)
  | y => y

/-- −x. -/
def FVal.neg : FVal → FVal
  | .nan => .nan
  | .inf s => .inf (!s)
  | .fin s n d => .fin (!s) n d

/-- |x|. -/
def FVal.abs : FVal → FVal
  | .nan => .nan
  | .inf _ => .inf false
  | .fin _ n d => .fin false n d

/-- Whether x is a NaN. -/
def FVal.isNan : FVal → Bool
  | .nan => true
  | _ => false

/-- The numerator of a finite value with its sign. -/
def FVal.sNum (s : Bool) (n : Nat) : Int := if s then -(n : Int) else n

/-- The exact sum. An exact zero takes the sign of R29: that of two zeros of like sign, else −0
under round-down alone. -/
def FVal.add (down : Bool) (x y : FVal) : FVal :=
  match x, y with
  | .nan, _ => .nan
  | _, .nan => .nan
  | .inf s, .inf t => if s = t then .inf s else .nan
  | .inf s, .fin _ _ _ => .inf s
  | .fin _ _ _, .inf t => .inf t
  | .fin s n d, .fin t k e =>
    let z : Int := FVal.sNum s n * e + FVal.sNum t k * d
    if z = 0 then .fin (if n = 0 ∧ k = 0 ∧ s = t then s else down) 0 1
    else .fin (decide (z < 0)) z.natAbs (d * e)

/-- The exact product. -/
def FVal.mul (x y : FVal) : FVal :=
  match x, y with
  | .nan, _ => .nan
  | _, .nan => .nan
  | .inf s, .inf t => .inf (s != t)
  | .inf s, .fin t k _ => if k = 0 then .nan else .inf (s != t)
  | .fin s n _, .inf t => if n = 0 then .nan else .inf (s != t)
  | .fin s n d, .fin t k e => .fin (s != t) (n * k) (d * e)

/-- The exact quotient of finite values with a nonzero divisor; other quotients as IEEE 754. -/
def FVal.div (x y : FVal) : FVal :=
  match x, y with
  | .nan, _ => .nan
  | _, .nan => .nan
  | .inf _, .inf _ => .nan
  | .inf s, .fin t _ _ => .inf (s != t)
  | .fin s _ _, .inf t => .fin (s != t) 0 1
  | .fin s n d, .fin t k e =>
    if k = 0 then (if n = 0 then .nan else .inf (s != t)) else .fin (s != t) (n * e) (d * k)

/-- x < y as reals; false with a NaN. Zeros are equal. -/
def FVal.lt (x y : FVal) : Bool :=
  match x, y with
  | .nan, _ => false
  | _, .nan => false
  | .inf s, .inf t => s && !t
  | .inf s, .fin _ _ _ => s
  | .fin _ _ _, .inf t => !t
  | .fin s n d, .fin t k e => decide (FVal.sNum s n * e < FVal.sNum t k * d)

/-- x = y as reals; false with a NaN. Zeros are equal. -/
def FVal.eqv (x y : FVal) : Bool := !x.isNan && !y.isNan && !x.lt y && !y.lt x

/-- The sign bit of a value that is no NaN. -/
def FVal.sign : FVal → Bool
  | .nan => false
  | .inf s => s
  | .fin s _ _ => s

/-! ### Floating formats (R23 to R26) -/

/-- A binary floating format. -/
structure FFmt where
  eb : Nat
  mb : Nat
  bias : Nat
  /-- has infinities; E4M3 has none and its top exponent holds finite values (R23) -/
  infs : Bool
  deriving DecidableEq, Repr

def fp32 : FFmt := { eb := 8, mb := 23, bias := 127, infs := true }
def fp16 : FFmt := { eb := 5, mb := 10, bias := 15, infs := true }
def bf16 : FFmt := { eb := 8, mb := 7, bias := 127, infs := true }
def e4m3 : FFmt := { eb := 4, mb := 3, bias := 7, infs := false }
def e5m2 : FFmt := { eb := 5, mb := 2, bias := 15, infs := true }

/-- Bits of a format. -/
def FFmt.width (f : FFmt) : Nat := 1 + f.eb + f.mb
/-- The code of Max(f) (R23). -/
def FFmt.maxCode (f : FFmt) : Nat :=
  if f.infs then (2 ^ f.eb - 1) * 2 ^ f.mb - 1 else 2 ^ (f.eb + f.mb) - 2
/-- Emin(f) (R29). -/
def FFmt.emin (f : FFmt) : Int := 1 - (f.bias : Int)
/-- The sign bit of a result. -/
def FFmt.signed (f : FFmt) (neg : Bool) (c : Nat) : Nat := if neg then 2 ^ (f.eb + f.mb) + c else c
/-- CanonNaN(f) (R25). -/
def FFmt.nan (f : FFmt) : Nat :=
  if f.infs then (2 ^ f.eb - 1) * 2 ^ f.mb + 2 ^ (f.mb - 1) else 2 ^ (f.eb + f.mb) - 1
/-- Infinity, or the overflow code of a format without one (R29). -/
def FFmt.top (f : FFmt) (neg : Bool) : Nat := f.signed neg (f.maxCode + 1)

/-- The value of a magnitude code (R23). -/
def FFmt.mag (f : FFmt) (neg : Bool) (c : Nat) : FVal :=
  let e := c / 2 ^ f.mb
  let mant := c % 2 ^ f.mb
  if e = 0 then FVal.ofScaled neg mant (f.emin - f.mb)
  else FVal.ofScaled neg (2 ^ f.mb + mant) ((e : Int) - f.bias - f.mb)

/-- The value of a code (R23 to R26). -/
def FFmt.val (f : FFmt) (x : Nat) : FVal :=
  let c := x % 2 ^ (f.eb + f.mb)
  let neg := decide (x / 2 ^ (f.eb + f.mb) % 2 = 1)
  if c ≤ f.maxCode then f.mag neg c
  else if f.infs && c == f.maxCode + 1 then .inf neg
  else .nan

/-! ### Rounding (R28 to R31) -/

/-- Rounding modes (R28). -/
inductive Rm where
  | rne | rtz | rdn | rup | sr
  deriving DecidableEq, Repr

/-- The mode of a rounding field; 0b101 to 0b111 are refused at decode. -/
def rmOf (r : BitVec 3) : Rm :=
  match r.toNat with
  | 0 => .rne | 1 => .rtz | 2 => .rdn | 3 => .rup | _ => .sr

/-- LfsrNext (R30): the new state; its upper 16 bits are the value. -/
def lfsrNext (r : BitVec 32) : BitVec 32 :=
  let b := r.getLsbD 31 ^^ r.getLsbD 21 ^^ r.getLsbD 1 ^^ r.getLsbD 0
  (r <<< 1) ||| (if b then 1 else 0)

/-- The 16 bits LfsrNext returns, from the new state. -/
def lfsrOut (r : BitVec 32) : Nat := r.toNat / 65536

/-- RNGS is never zero (R31). -/
def rngsFix (r : BitVec 32) : BitVec 32 := if r = 0 then 1 else r

/-- RNE of a nonnegative fraction. -/
def rneN (num den : Nat) : Nat :=
  let q := num / den
  let r := num % den
  if 2 * r < den then q
  else if den < 2 * r then q + 1
  else if q % 2 = 0 then q else q + 1

/-- RNE of a fraction with a sign (R29). -/
def rneI (neg : Bool) (num den : Nat) : Int := FVal.sNum neg (rneN num den)

/-- The magnitude RoundI gives for a fraction, and RNGS after it (R29). -/
def roundMag (md : Rm) (neg : Bool) (num den : Nat) (g : BitVec 32) : Nat × BitVec 32 :=
  match md with
  | .rne => (rneN num den, g)
  | .rtz => (num / den, g)
  | .rdn => (if neg then (num + den - 1) / den else num / den, g)
  | .rup => (if neg then num / den else (num + den - 1) / den, g)
  | .sr =>
    let g' := lfsrNext g
    let fl := num / den
    let f16 := num % den * 65536 / den
    (if lfsrOut g' < f16 then fl + 1 else fl, g')

/-- floor(log2 (num/den)) for a positive fraction. -/
def log2Frac (num den : Nat) : Int :=
  let e : Int := (Nat.log2 num : Int) - Nat.log2 den
  let le (k : Int) : Bool :=
    if 0 ≤ k then decide (den * 2 ^ k.toNat ≤ num) else decide (den ≤ num * 2 ^ (-k).toNat)
  if le e then (if le (e + 1) then e + 1 else e) else e - 1

/-- num/den > Max(f). -/
def overMax (f : FFmt) (num den : Nat) : Bool :=
  (f.mag false f.maxCode).lt (.fin false num den)

/-- Round (R29): the code, and RNGS after the one LfsrNext call that mode SR makes. -/
def roundF (x : FVal) (f : FFmt) (md : Rm) (sat : Bool) (g : BitVec 32) : Nat × BitVec 32 :=
  let g1 := if md = .sr then lfsrNext g else g
  match x with
  | .nan => (f.nan, g1)
  | .inf s =>
    if f.infs && !sat then (f.top s, g1)
    else if sat then (f.signed s f.maxCode, g1)
    else (f.top s, g1)
  | .fin s n d =>
    if n = 0 then (f.signed s 0, g1)
    else
      let ov := overMax f n d
      let k : Int := max (log2Frac n d) f.emin - f.mb
      let (num, den) := if 0 ≤ k then (n, d * 2 ^ k.toNat) else (n * 2 ^ (-k).toNat, d)
      let m := if md = .sr ∧ ov then .rne else md
      let r := roundMag m s num den g
      let c := (k + f.mb - f.emin).toNat * 2 ^ f.mb + r.1
      let g2 := if ov then g1 else r.2
      if f.maxCode < c then
        if sat || md == .rtz || (md == .rdn && !s) || (md == .rup && s)
        then (f.signed s f.maxCode, g2)
        else (f.top s, g2)
      else (f.signed s c, g2)

/-- Round to nearest even: no LFSR call. -/
def roundNe (x : FVal) (f : FFmt) (sat : Bool) : Nat := (roundF x f .rne sat 1).1

/-- Scale2 (R29) of an FP32 value. -/
def scale2 (x : FVal) (e : Int) (sat : Bool) : Nat := roundNe (x.scale e) fp32 sat

/-- A floating value to an integer format: RoundI, then always saturated (R27). Under SR the one
call is made for every input. -/
def floatToInt (x : FVal) (w : Nat) (signed : Bool) (md : Rm) (g : BitVec 32) :
    Nat × BitVec 32 :=
  let g1 := if md = .sr then lfsrNext g else g
  match x with
  | .nan => (0, g1)
  | .inf s => (wrapN w (if s then intMin w signed else intMax w signed), g1)
  | .fin s n d =>
    let r := roundMag md s n d g
    (wrapN w (satI w signed (FVal.sNum s r.1)), r.2)

/-! ### LN6 (R32 to R35) -/

/-- The fraction table F (R33). -/
def lnF (j : Nat) : Nat :=
  match j % 4 with
  | 0 => 0x8000 | 1 => 0x9838 | 2 => 0xb505 | _ => 0xd745

/-- LinVal(L) × 2^19 as an integer (R33). -/
def linVal19 (l : Nat) : Nat := if l = 0 then 0 else lnF l * 2 ^ (l / 4)

/-- The linear value of a code with block exponent blk; NaR is none (R33, R35). -/
def lnVal (c : Nat) (blk : Int) : FVal :=
  if c % 64 = 0x20 then .nan
  else if c % 32 = 0 then .fin false 0 1
  else (FVal.fin (decide (c / 32 % 2 = 1)) (linVal19 (c % 32)) (2 ^ 19)).scale blk

/-- LnToLin (R35). Its NaR and zero results make the LFSR call all the same (R30). -/
def lnToLin (c : Nat) (blk : Int) (md : Rm) (sat : Bool) (g : BitVec 32) : Nat × BitVec 32 :=
  roundF (lnVal c blk) fp32 md sat g

/-- The largest L in 0..30 with LinVal(L) ≤ num/den. -/
def lnFloor (num den : Nat) : Nat → Nat
  | 0 => 0
  | l + 1 => if linVal19 (l + 1) * den ≤ num * 2 ^ 19 then l + 1 else lnFloor num den l

/-- LinToLn (R35). -/
def linToLn (x : FVal) (blk : Int) (md : Rm) (g : BitVec 32) : Nat × BitVec 32 :=
  let g1 := if md = .sr then lfsrNext g else g
  match x.scale (-blk) with
  | .nan => (0x20, g1)
  | .inf _ => (0x20, g1)
  | .fin _ 0 _ => (0, g1)
  | .fin s n d =>
    if linVal19 31 * d ≤ n * 2 ^ 19 then (b2n s * 32 + 31, g1)
    else
      let lo := lnFloor n d 30
      let below := n * 2 ^ 19 - linVal19 lo * d
      let above := linVal19 (lo + 1) * d - n * 2 ^ 19
      let l :=
        if below = 0 then lo
        else match md with
          | .rne =>
            if below < above then lo
            else if above < below then lo + 1
            else if lo % 2 = 0 then lo else lo + 1
          | .rtz => lo
          | .rup => if s then lo else lo + 1
          | .rdn => if s then lo + 1 else lo
          | .sr => if lfsrOut g1 < 65536 * below / (below + above) then lo + 1 else lo
      (if l = 0 then 0 else b2n s * 32 + l, g1)

/-- LnMul (R35). -/
def lnMul (a b : Nat) : Nat :=
  let a := a % 64
  let b := b % 64
  if a = 0x20 ∨ b = 0x20 then 0x20
  else if a % 32 = 0 ∨ b % 32 = 0 then 0
  else
    let l := min (a % 32 + b % 32 - 16) 31
    if l < 1 then 0 else (if a / 32 = b / 32 then 0 else 32) + l

/-! ### Block exponents (R36, R37) -/

/-- The unset block field (R36). -/
def blkUnset : BitVec 8 := 0x80

/-- A block field as an exponent; unset acts as 0 (R37). -/
def blkInt (b : BitVec 8) : Int := if b = blkUnset then 0 else b.toInt

/-- BlkSum (R37): none is the block-exponent trap. -/
def blkSum (e1 e2 : BitVec 8) : Option (BitVec 8) :=
  if e1 = blkUnset ∧ e2 = blkUnset then some blkUnset
  else
    let t := blkInt e1 + blkInt e2
    if t < -127 ∨ 127 < t then none else some (BitVec.ofInt 8 t)

/-- The larger magnitude of two finite values; others leave the first. -/
def maxMag (acc : FVal) (x : FVal) : FVal :=
  match x with
  | .fin _ n d => if acc.lt (.fin false n d) then .fin false n d else acc
  | _ => acc

/-- BlkChoose (R37). -/
def blkChoose (xs : List FVal) : Int :=
  match xs.foldl maxMag (.fin false 0 1) with
  | .fin _ n d => if n = 0 then -127 else min 127 (max (-127) (log2Frac n d - 14))
  | _ => -127

/-- Align (R37): the mantissa and whether Poison is set. -/
def alignTo (x : FVal) (e : Int) : Int × Bool :=
  match x.scale (-e) with
  | .nan => (0, true)
  | .inf s => (if s then -32767 else 32767, false)
  | .fin s n d => (min 32767 (max (-32767) (rneI s n d)), false)

/-! ### Fixed-point cells (R40, R41) -/

/-- FixAdd (R40) of an FP32 code into a cell (value, ovf). -/
def fixAdd (v : BitVec 192) (ovf : Bool) (x : Nat) : BitVec 192 × Bool :=
  match fp32.val x with
  | .nan => (v, true)
  | .inf s => (if s then BitVec.intMin 192 else BitVec.intMax 192, true)
  | .fin s n d =>
    if d * 2 ^ 100 ≤ n then (if s then BitVec.intMin 192 else BitVec.intMax 192, true)
    else
      let t := v.toInt + rneI s (n * 2 ^ 80) d
      (BitVec.ofInt 192 t,
        ovf || decide (((2 ^ 191 : Nat) : Int) ≤ t) || decide (t < -((2 ^ 191 : Nat) : Int)))

/-- FixRd (R40). -/
def fixRd (v : BitVec 192) (ovf : Bool) : Nat :=
  if ovf then fp32.nan else roundNe ((FVal.ofInt v.toInt).scale (-80)) fp32 false

/-! ### Wire blocks (R42, R43) -/

/-- A collective wire block (R42). -/
structure WireBlock where
  m : List Int
  e : Int
  poison : Bool
  ovf : Bool
  rc : Nat
  deriving DecidableEq, Repr

/-- The block of 16 values (R42). A NaN poisons it through Align (R37). -/
def wireOf (xs : List FVal) : WireBlock :=
  let e := blkChoose xs
  let ms := xs.map fun x => alignTo x e
  { m := ms.map (·.1), e := e, poison := ms.any (·.2), ovf := false, rc := 0 }

/-- RNE(m × 2^(−k)) for k ≥ 0. -/
def rneShift (m : Int) (k : Nat) : Int := rneI (decide (m < 0)) m.natAbs (2 ^ k)

/-- WireAdd of two unpoisoned blocks (R43). -/
def wireAdd (a b : WireBlock) : WireBlock :=
  let e := max a.e b.e
  let s := List.zipWith
    (fun x y => rneShift x (e - a.e).toNat + rneShift y (e - b.e).toNat) a.m b.m
  let tooBig := s.any fun x => decide (32767 < x.natAbs)
  if tooBig && decide (e < 127) then
    { m := s.map fun x => rneShift x 1, e := e + 1, poison := false, ovf := a.ovf || b.ovf,
      rc := min 63 (a.rc + b.rc + 1) }
  else
    { m := s.map fun x => min 32767 (max (-32767) x), e := e, poison := false,
      ovf := a.ovf || b.ovf || tooBig, rc := min 63 (a.rc + b.rc) }

/-- The 34 bytes of a block (R42). -/
def WireBlock.bytes (w : WireBlock) : List Byte :=
  w.m.flatMap (fun x => natToBytes 2 (wrapN 16 x)) ++
    [BitVec.ofInt 8 w.e,
     BitVec.ofNat 8 (b2n w.poison * 128 + b2n w.ovf * 64 + min 63 w.rc)]

/-- The 16-bit mantissas of a byte list. -/
def mantissas : Nat → List Byte → List Int
  | 0, _ => []
  | n + 1, bs => sextN 16 (bytesToNat (bs.take 2)) :: mantissas n (bs.drop 2)

/-- A received block (R42): e = 0x80 or a mantissa of −32,768 counts as poisoned. -/
def wireRead (bs : List Byte) : WireBlock :=
  let ms := mantissas 16 bs
  let e := (bs.drop 32).headD 0
  let fl := (bs.drop 33).headD 0
  { m := ms, e := e.toInt,
    poison := fl.getLsbD 7 || e == 0x80 || ms.any (· == -32768),
    ovf := fl.getLsbD 6, rc := fl.toNat % 64 }

end Sys2Proof.Machine
end

