-- ==== Sys2Proof/Machine/Mem.lean ====
section
/-! DEFINITION. Physical memory: one sparse list of bytes under keys that name a target type and a
physical address (R194), and the list of poisoned granules (R347, R348). -/

namespace Sys2Proof.Machine

/-- Memory: listed bytes in rising order of key, none equal to what an unlisted byte reads as. -/
abbrev Memory := List Host.Cell

/-- What an unlisted byte reads as: boot clears every memory to zero (R386 step 5). -/
def unlisted : Byte := 0

/-- Reads one byte. -/
def rdByte : Memory → Nat → Byte
  | [], _ => unlisted
  | (k, c) :: t, a => if k = a then c else rdByte t a

/-- Writes one byte, keeping the canonical form. -/
def wrByte : Memory → Nat → Byte → Memory
  | [], a, b => if b = unlisted then [] else [(a, b)]
  | (k, c) :: t, a, b =>
    if a < k then (if b = unlisted then (k, c) :: t else (a, b) :: (k, c) :: t)
    else if k = a then (if b = unlisted then t else (a, b) :: t)
    else (k, c) :: wrByte t a b

/-- Keys strictly rising from a bound and no listed byte equal to the unlisted one. -/
def memWfFrom : Nat → Memory → Bool
  | _, [] => true
  | lo, (k, c) :: t => decide (lo ≤ k) && c != unlisted && memWfFrom (k + 1) t

/-- The canonical form of a memory. -/
def Memory.wf (m : Memory) : Bool := memWfFrom 0 m

/-- Reads n bytes from a key upward. -/
def rdBytes (m : Memory) (a : Nat) : Nat → List Byte
  | 0 => []
  | n + 1 => rdByte m a :: rdBytes m (a + 1) n

/-- Writes a list of bytes from a key upward. -/
def wrBytes (m : Memory) (a : Nat) : List Byte → Memory
  | [] => m
  | b :: t => wrBytes (wrByte m a b) (a + 1) t

/-- The little-endian number of n bytes (R9). -/
def rdNat (m : Memory) (a n : Nat) : Nat := bytesToNat (rdBytes m a n)

/-- Writes a number as n bytes, least significant first (R9). -/
def wrNat (m : Memory) (a n x : Nat) : Memory := wrBytes m a (natToBytes n x)

/-- The bytes listed with keys in [a, a + n). -/
def memSlice (m : Memory) (a n : Nat) : Memory :=
  m.filter fun p => decide (a ≤ p.1) && decide (p.1 < a + n)

/-- Clears every byte with a key in [a, a + n) to zero. -/
def memClear (m : Memory) (a n : Nat) : Memory :=
  m.filter fun p => !(decide (a ≤ p.1) && decide (p.1 < a + n))

/-! ### Keys (R193, R194) -/

/-- The key of physical address pa of a target type. -/
def memKey (tt pa : Nat) : Nat := tt * 2 ^ 47 + pa

/-- The target type of a key. -/
def keyType (a : Nat) : Nat := a / 2 ^ 47

/-- The physical address of a key. -/
def keyPa (a : Nat) : Nat := a % 2 ^ 47

/-- The key of a local address in a tile's SRAM. -/
def sramKey (tile off : Nat) : Nat := tile * 2 ^ 20 + off

/-- The key of a byte of a tile's instruction store. -/
def codeKey (tile off : Nat) : Nat := memKey 6 (tile * 2 ^ 20 + off)

/-- The key of an offset in a die's memory. -/
def dieKey (pkg die off : Nat) : Nat := memKey 2 (pkg * 2 ^ 32 + die * 2 ^ 30 + off)

/-- The key of an offset in a package's HBM; every package's HBM is kept under its type 4 address. -/
def hbmKey (pkg off : Nat) : Nat := memKey 4 (pkg * 2 ^ 39 + off)

/-! ### Poison marks (R347, R348) -/

/-- The poisoned granules, by key of their first byte, in rising order. -/
abbrev Marks := List Nat

/-- Bytes in a granule: 8 in tile SRAM, a 32-byte line elsewhere (R347). -/
def granule (a : Nat) : Nat := if keyType a = 0 then 8 else 32

/-- First key of the granule of a byte. -/
def granuleOf (a : Nat) : Nat := a / granule a * granule a

/-- Whether a byte reads poisoned. -/
def isMarked (p : Marks) (a : Nat) : Bool := p.any (· == granuleOf a)

/-- Sets the mark of the granule that begins at g. -/
def setMark : Marks → Nat → Marks
  | [], g => [g]
  | k :: t, g => if g < k then g :: k :: t else if k = g then k :: t else k :: setMark t g

/-- Clears the mark of the granule that begins at g. -/
def clearMark (p : Marks) (g : Nat) : Marks := p.filter (· != g)

/-- Marks strictly rising from a bound. -/
def marksWfFrom : Nat → Marks → Bool
  | _, [] => true
  | lo, k :: t => decide (lo ≤ k) && marksWfFrom (k + 1) t

/-- Whether any of n bytes reads poisoned. -/
def anyMarked (p : Marks) (a : Nat) : Nat → Bool
  | 0 => false
  | n + 1 => isMarked p a || anyMarked p (a + 1) n

/-- The marks after the granules from g on have met a write of [a, a + n), k granules at most: a
poisoned write marks, a whole unpoisoned one clears, a partial one leaves the mark (R348). -/
def markSpan (p : Marks) (a n : Nat) (poison : Bool) (g : Nat) : Nat → Marks
  | 0 => p
  | k + 1 =>
    let w := granule a
    if a + n ≤ g then p
    else
      let p' :=
        if poison then setMark p g
        else if a ≤ g ∧ g + w ≤ a + n then clearMark p g
        else p
      markSpan p' a n poison (g + w) k

/-- The marks after a write of n bytes at a, all poisoned or all not (R348). -/
def markWrite (p : Marks) (a n : Nat) (poison : Bool) : Marks :=
  if n = 0 then p else markSpan p a n poison (granuleOf a) (n / granule a + 2)

/-- The marks after a write of bytes that carry their own poison bits: the whole range is written
unpoisoned, then the granules of poisoned bytes are marked (R241, R348). -/
def markBytes (p : Marks) (a : Nat) (bs : List PByte) : Marks :=
  let go := bs.foldl (fun (acc : Marks × Nat) b =>
    (if b.2 then setMark acc.1 (granuleOf acc.2) else acc.1, acc.2 + 1))
  (go (markWrite p a bs.length false, a)).1

end Sys2Proof.Machine
end

