-- ==== Sys2Proof/Machine/State.lean ====
section
/-! DEFINITION. The state of the machine as plain data: one package with its tiles, groups, dies,
barrier domains, memories, control plane, links and sessions. Every field's default is its value
after a power-on reset. -/

namespace Sys2Proof.Machine

/-! ### Strand registers -/

/-- A vector register (R46, R53): element e of width ew at bit ew × e. -/
structure VReg where
  lanes : BitVec 2048 := 0
  pois : BitVec 64 := 0
  tag : BitVec 4 := 0
  blk : BitVec 8 := 0x80
  deriving DecidableEq, Repr

/-- A reference register and its state word (R55). -/
structure HReg where
  val : Word := 0
  poi : Bool := false
  unh : Bool := false
  hbv : Bool := false
  hba : BitVec 20 := 0
  deriving DecidableEq, Repr

/-- A place of a load queue (R57, R105): held, an `ldq` value not yet pushed, or an `xld` whose
command has not landed. -/
inductive QPlace where
  | held (v : Word) (p : Bool)
  | load (v : Word) (p : Bool)
  | land (cmd : Nat)
  deriving DecidableEq, Repr

/-- A pending drain of a store queue (R106), with its place in the strand's program order (R104). -/
structure Drain where
  ea : Nat
  bytes : Nat
  ppass : Bool
  pos : Nat := 0
  deriving DecidableEq, Repr

/-- A table command as it stands in its queue (R145): its word, the values of A, B and C and the `v` operands
captured at issue, its active columns, and its place in the strand's program order. -/
structure TCmd where
  instr : Instr
  x : Word × Bool := (0, false)
  y : Word × Bool := (0, false)
  z : Word × Bool := (0, false)
  mask : BitVec 64 := BitVec.allOnes 64
  v1 : VReg := {}
  v2 : VReg := {}
  pos : Nat := 0
  deriving DecidableEq, Repr

/-- An address of an exchange command: local, virtual, or an offset in a heap object with the
register it came from and, where its state word asks for one, the heal-back address (R235, R317,
R318). -/
inductive XAddr where
  | none
  | loc (a : Nat)
  | virt (va : Nat)
  | obj (ref : Word) (off : Nat) (reg : Nat) (hb : Option Nat)
  deriving DecidableEq, Repr

/-- The commands of row 0x9 (R234, R242 to R247, R254). -/
inductive XKind where
  | get | put | cpy | mc | ld | ldlq | st | send
  | xop (n : Nat)
  | swset (setGen : Bool) | swget (hi : Bool)
  | ctready | ctarm (stamp : Bool) | ctstat
  deriving DecidableEq, Repr

/-- An exchange command as captured at issue (R237). -/
structure XCmd where
  kind : XKind := .get
  /-- command number on its tile -/
  no : Nat := 0
  /-- record index of the issuing strand -/
  ri : Nat := 0
  word : BitVec 96 := 0
  /-- operand values D, A, B, C captured at issue (R279) -/
  ops : List Word := []
  scp : Nat := 0
  acq : Bool := false
  rel : Bool := false
  gen : Bool := false
  /-- the issuer's sync word, if one is named -/
  sw : Option Nat := none
  /-- the remote sync word, if one is enabled -/
  rsw : Option Nat := none
  dst : XAddr := .none
  src : XAddr := .none
  len : Nat := 0
  /-- the expected stamp; for `xmc` the multicast entry; for `xld.lq` the queue; for `swset` the
  value; for the collective commands the entry -/
  arg : Nat := 0
  /-- the register that `swget` or `ctstat` writes -/
  d : Option (BitVec 8) := none
  /-- the words of a packet (R245) -/
  words : List PByte := []
  /-- the superstep counts of levels 1 to 5 at issue (R201) -/
  sscs : List (BitVec 32) := []
  /-- its place in the strand's program order -/
  pos : Nat := 0
  /-- first byte not yet counted, where a restart record resumes (R279) -/
  from0 : Nat := 0
  /-- the command was held by a fault when it was recorded (R279) -/
  wasHeld : Bool := false
  deriving DecidableEq, Repr

/-- A region (R351). -/
structure Region where
  entry : Word := 0
  rngs : BitVec 32 := 0
  pkt : Nat := 0
  count : Nat := 0
  /-- a pair mismatch was seen in it (R355) -/
  mism : Bool := false
  /-- a restart that waits for the strand's started commands to drain; true: of a consumption, which is
  logged then (R352, R355) -/
  restart : Option Bool := none
  deriving DecidableEq, Repr

/-- What a strand brought to a barrier by `sync` (R203), or the exit arrival of R198. -/
structure Arrival where
  scp : Nat := 0
  op : SyncOp := .add
  fmt : BitVec 4 := 0
  f32 : Bool := false
  x : Word := 0
  px : Bool := false
  /-- contributes a value; a device arrival (R352, R355) does not -/
  val : Bool := true
  code : BitVec 8 := 0
  /-- specifier of the result register -/
  d : BitVec 8 := 0
  deriving DecidableEq, Repr

/-- Why a strand's next instruction waits: the idle counter it counts in, if any (R190), and
whether it is an unliftable queue hold (R108). -/
structure Stall where
  idle : Option Nat := none
  unlift : Bool := false
  deriving DecidableEq, Repr

/-- What a leader forwards to its follower of an instruction that the follower skips (R354). -/
structure Fwd where
  g : List (Nat × Word × Bool) := []
  v : List (Nat × VReg) := []
  k : List (Nat × BitVec 64) := []
  h : List (Nat × HReg) := []
  /-- VL, MCLM and the open packet as the instruction leaves them -/
  vl : Nat := 0
  claim : Option Nat := none
  pkt : Option XCmd := none
  /-- the place of a load queue that it reserves: the queue and what stands in the place -/
  place : Option (Nat × QPlace) := none
  /-- the destination that its command has still to write -/
  await : Option (BitVec 8) := none
  deriving DecidableEq, Repr

/-- The trap causes (R286). -/
inductive Cause where
  | undefinedInstr | reservedField | operandClass | privilege | lineFormat | fetchParity | target
  | breakpoint | software | format | claim | blockExponent | codeRange | tableLost | poison
  | localRange | alignment | queueDeadlock | openPacket | workIdentifier | pwlTable
  | exchangeOperand | collective
  deriving DecidableEq, Repr

/-- A strand: its thread-slot registers, its record's directory entry and what is kept beside it
(R46, R58, R59, R173, R174). -/
structure Strand where
  /-- the thread slot it runs in, if any -/
  slot : Option Nat := none
  /-- KIND, PRI, SCP, SWA and GEN of its wait descriptor (R174) -/
  kind : Nat := 0
  pri : Nat := 0
  scp : Nat := 0
  swa : Nat := 0
  gen : BitVec 32 := 0
  pc : Word := 0
  /-- PC of the issue unit, first slot after it, and a taken transfer (R70, R110) -/
  upc : Word := 0
  npc : Word := 0
  target : Option Word := none
  g : SMap Word := []
  gp : BitVec 32 := 0
  v : SMap VReg := []
  k : SMap (BitVec 64) := []
  h : SMap HReg := []
  lq : SMap (List QPlace) := []
  sq : SMap (List (Word × Bool)) := []
  drains : SMap (List Drain) := []
  dep : SMap Nat := []
  /-- tc for which the strand has been unliftably held (R108) -/
  hold : Nat := 0
  acode : BitVec 8 := 0
  psn : Bool := false
  sup : Bool := false
  rpt : Bool := false
  repidx : Nat := 0
  widw : Word := 0
  wid : Word := 0
  rngs : BitVec 32 := 1
  vl : Nat := 0
  claim : Option Nat := none
  /-- the D of an `mclaim` still waiting (R147) -/
  mreq : Option (BitVec 8) := none
  /-- it has suspended and waits in its slot for its vector commands (R176) -/
  leaving : Bool := false
  /-- the slot it yielded with no other record runnable (R182) -/
  back : Option Nat := none
  /-- the lane groups a waiting `vclaim` asks for: least, most and its D (R120) -/
  vreq : Option (Nat × Nat × BitVec 8) := none
  epc : Word := 0
  /-- an `mtsr` has written EPC since the trap (R71) -/
  epcw : Bool := false
  ecause : Word := 0
  frameRpt : Bool := false
  frameIdx : Nat := 0
  /-- the breakpoint at the PC does not fire for one issue (R114) -/
  bkOff : Bool := false
  /-- the open packet (R245) -/
  pkt : Option XCmd := none
  /-- tc since a stop was first deferred by the open packet (R85) -/
  pktStop : Option Nat := none
  region : Option Region := none
  abortPc : Word := 0
  /-- what it brought to the barrier it waits for -/
  arrival : Option Arrival := none
  /-- levels at which it stands arrived: those of the scope it waits at; and levels it has reached by `sync` since
  their last completion (R198), as bit sets -/
  reached : BitVec 6 := 0
  synced : BitVec 6 := 0
  /-- vector commands queued and not started; table and exchange commands queued, oldest first (R186) -/
  vq : Nat := 0
  tq : List TCmd := []
  xq : List XCmd := []
  /-- the MODEL's own: the place in program order of its next drain, table or exchange command (log 2) -/
  pos : Nat := 0
  vc : Int := 0
  vage : Nat := 0
  /-- `exit` has been issued; commands still queued (R180) -/
  exiting : Bool := false
  /-- pairing (R353 to R355): partner's record, follower, retired results, fingerprint, MIS -/
  partner : Option Nat := none
  folw : Bool := false
  retired : Nat := 0
  fwd : List Fwd := []
  /-- bytes of retired results that are not yet folded, in program order, behind one whose destination a command
  has still to write; and the address and data of the drains that an instruction has made (R354) -/
  foldQ : List (Option (BitVec 8) × List Byte) := []
  stored : List Byte := []
  /-- the strands whose pending drains precede its `spawn`, with the place in their program order (R179) -/
  elders : List (Nat × Nat) := []
  /-- a trap this slot of a pair waits to report, with its code (R355) -/
  ptrap : Option (Cause × Nat) := none
  crc : BitVec 32 := 0
  mis : Bool := false
  /-- registers became undefined at a suspension (R58) -/
  stale : Bool := false
  /-- the scope for which a `fence` waits in the slot (R211), and the commands, by tile and number,
  that a `tlbinv` waits for (R304) -/
  fence : Option Nat := none
  tlbinv : Option (List (Nat × Nat)) := none
  /-- register writes made when it is loaded again: specifier, value, poison (R181, R204, R206) -/
  resume : List (BitVec 8 × Word × Bool) := []
  /-- order in which it began to wait, for the idle counters (R190) -/
  since : Nat := 0
  /-- the MODEL's own: its next instruction was found waiting since the last engine step (log 2) -/
  stall : Option Stall := none
  deriving DecidableEq, Repr

/-! ### Tile -/

/-- A matrix register (R51, R53). -/
structure MReg where
  data : BitVec 32768 := 0
  pois : BitVec 4096 := 0
  tag : BitVec 4 := 0
  blk : BitVec 8 := 0x80
  gen : BitVec 16 := 0
  deriving DecidableEq, Repr

/-- An accumulator register: visible C, stage, stage exponent, overflow, poison (R51, R53). -/
structure AReg where
  c : BitVec 32768 := 0
  stage : BitVec 49152 := 0
  sexp : BitVec 8 := 0x80
  sovf : Bool := false
  pois : BitVec 1024 := 0
  deriving DecidableEq, Repr

/-- A table register: entry i at bit 20 × i, its descriptor, build word and codebook record (R51,
R53, R155). -/
structure TbReg where
  ents : BitVec 81920 := 0
  drop : Bool := true
  gen : BitVec 16 := 0
  src : Nat := 0
  tag : BitVec 4 := 0
  blk : BitVec 8 := 0x80
  /-- RPSN -/
  pois : BitVec 16 := 0
  /-- CHG: GEN of the source wrapped since the build (R54) -/
  changed : Bool := false
  /-- MODE, Q, SFMT, EB, ET -/
  mode : Bool := false
  q : Nat := 0
  sfmt : BitVec 4 := 0
  eb : BitVec 8 := 0
  et : BitVec 8 := 0
  book : List (BitVec 8) := []
  deriving DecidableEq, Repr

/-- A page translation held by a command or a TLB (R296, R297): virtual page, its leaf. -/
structure Xlate where
  asid : Nat := 0
  va : Nat := 0
  leaf : BitVec 64 := 0
  /-- in a last-level TLB: the groups of the die for which a `tlbinv.gp` has removed it, a bit each (R231, R304) -/
  shut : Nat := 0
  deriving DecidableEq, Repr

/-- A fault as recorded (R302). -/
structure FaultRec where
  asid : Nat := 0
  va : Nat := 0
  /-- the reference bits [59:0] of a heap fault (R317) -/
  ref : Option Word := none
  cause : Nat := 0
  sub : Nat := 0
  acc : Nat := 0
  lvl : Nat := 7
  tile : Nat := 0
  /-- WAITC and GMASK as they stood when a replay freed the miss-table entry (R305) -/
  waitc : Nat := 0
  gmask : Nat := 0
  deriving DecidableEq, Repr

/-- Where a request of an active command stands: on its way to its home, queued there behind a
migration (R307), held at a tile port in replay mode (R229), performed, its bytes in the engine on their way to
their destination, its bytes written at the destination home, or ended. -/
inductive ReqPhase where
  | injected | queued | atPort | performed | buffered | written | done
  deriving DecidableEq, Repr

/-- A request of an active command: the bytes [off, off + len) of the transfer (R239). -/
structure XReq where
  off : Nat := 0
  len : Nat := 0
  phase : ReqPhase := .injected
  /-- it ended without its access or its answer: its chunk is performed again (R239, R279) -/
  lost : Bool := false
  /-- injection order on its tile (R248), and its place in a migration's queue (R307) -/
  seq : Nat := 0
  qno : Nat := 0
  data : List PByte := []
  /-- landing-slot class held, if any (R249) -/
  cls : Option Nat := none
  /-- held deliveries outstanding (R229) -/
  wait : Nat := 0
  /-- bytes to count into the issuer's word, and flags for it -/
  cnt : Nat := 0
  err : Bool := false
  pois : Bool := false
  /-- bytes to count into remote words: tile, bytes, poisoned -/
  rem : List (Nat × Nat × Bool) := []
  /-- how many of its last bytes are still to be written together with the first of the next request, whose aligned 8
  bytes they share (R222), and the tiles that a multicast packet delivers to (R243) -/
  owes : Nat := 0
  live : List Nat := []
  deriving DecidableEq, Repr

/-- A heap object as resolved for a command (R317): the final reference, key of byte 0, size. -/
structure XObj where
  ref : Word := 0
  key : Nat := 0
  size : Nat := 0
  kid : Nat := 0
  deriving DecidableEq, Repr

/-- An active command of the exchange engine (R238, R239). -/
structure XAct where
  cmd : XCmd := {}
  /-- bytes counted into the sync words: the restart point -/
  counted : Nat := 0
  /-- first byte for which no request has been injected; for `xcpy` also the first that its buffer has not
  sent on, for `xget` the first that has not been written to the own SRAM -/
  nxt : Nat := 0
  wnxt : Nat := 0
  reqs : List XReq := []
  /-- translations made for it, by page -/
  pages : List Xlate := []
  /-- the object storage resolved for its source and destination -/
  srcO : Option XObj := none
  dstO : Option XObj := none
  /-- its translations are made, up to the first page that faults -/
  prep : Bool := false
  /-- held by this fault (R240), and the first byte it stops -/
  held : Option FaultRec := none
  stop : Nat := 0
  /-- the chunk at which a fault stands that has been found ahead: the chunks before it go first (R240) -/
  lim : Option Nat := none
  /-- bytes read together with those before them, whose aligned 8 bytes the end of a request cuts, by their place in
  the transfer (R222) -/
  frags : List (Nat × List PByte) := []
  /-- the translation it waits for is walked -/
  walking : Bool := false
  /-- the evicted tile whose restore it waits for (R281) -/
  evict : Option Nat := none
  /-- a replay has freed it; with `fail` a new fault fails it (R305) -/
  replay : Bool := false
  failing : Bool := false
  /-- it has failed, or found a stale stamp, and waits for the requests it had sent (R388, R389) -/
  ended : Bool := false
  /-- the `.gen` check has been made -/
  checked : Bool := false
  /-- a redirect notice is on its way (R307, R331) -/
  redir : Bool := false
  /-- counts gathered under `.rel`: bytes, ERR, POI, remote arrivals (R239) -/
  relCnt : Nat := 0
  relErr : Bool := false
  relPois : Bool := false
  relRem : List (Nat × Nat × Bool) := []
  /-- the operand block of an `xop` (R246) -/
  block : List PByte := []
  deriving DecidableEq, Repr

/-- An exchange write held at a tile port in replay mode (R229), with the request it belongs to:
tile, command, request; `op` marks a memory-agent operation. -/
structure HeldWrite where
  w : RemoteWrite
  src : Option (Nat × Nat × Nat) := none
  op : Bool := false
  deriving DecidableEq, Repr

/-- The launch parameters a kernel's tiles keep (R271). -/
structure Kernel where
  asid : Nat := 0
  keyid : Nat := 0
  sup : Bool := false
  qsf : Bool := false
  trt : Bool := false
  thpc : Word := 0
  nlines : Nat := 2047
  prio : Nat := 0
  gmask : BitVec 32 := 0
  pkgset : BitVec 256 := 0
  f5 : Word := 0
  banks : BitVec 64 := 0
  heaps : BitVec 64 := 0
  slice : Nat := 0
  evq : Word := 0
  evqlg : Nat := 0
  saveoff : Nat := 0
  dcode : Nat := 0
  ticket : Nat := 0
  /-- the whole 256-byte header -/
  hdr : List Byte := []
  /-- 0 waiting to start, 1 running, 2 parked by SLICE, 3 parked by PREEMPT -/
  phase : Nat := 0
  /-- the order in which it began to wait (R282) -/
  waitNo : Nat := 0
  /-- membership of the kernel (R360, R362) -/
  mmask : BitVec 256 := 0
  mepoch : BitVec 32 := 0
  /-- its membership control word and MBVA, as the supervisor's session had written them at its acceptance (R360) -/
  mctl : Word := 0
  mbva : Word := 0
  /-- tile-table entries a strand of it has readied (R263) -/
  entries : List Nat := []
  deriving DecidableEq, Repr

/-- A tile (R4, R192, R196, R185, R168, R226, R276). -/
structure Tile where
  strands : SMap Strand := []
  kernel : Option Nat := none
  /-- issue pointer, bonus and credits (R185) -/
  issT : Nat := 7
  bonus : Bool := false
  cr : SMap Nat := []
  idle : SMap Word := []
  ssc : SMap (BitVec 32) := []
  arec : SMap Word := []
  /-- banks powered, and powered but not yet awake; ASID of the last kernel that held the tile (R196) -/
  bankOn : BitVec 64 := 0
  bankWaking : BitVec 64 := 0
  lastAsid : Option Nat := none
  parkt : Word := 0
  parkCnt : Nat := 0
  errinj : Word := 0
  /-- code words flipped by injections: granule address, the inverted bits of its 72 (R358) -/
  flips : List (Nat × BitVec 72) := []
  /-- the window of the vector unit: the strand it serves and the starts it has left (R187) -/
  vwin : Option (Nat × Nat) := none
  /-- strands waiting for lane groups, oldest first (R120) -/
  vwait : List Nat := []
  /-- strands waiting for a claim slot, oldest first (R147) -/
  mwait : List Nat := []
  m : SMap MReg := []
  a : SMap AReg := []
  tb : SMap TbReg := []
  /-- the PWL table: 64 segments of 5 FP32 words, and PWLN (R137) -/
  pwl : SMap (BitVec 32) := []
  pwln : Nat := 0
  /-- runnable records in order (R184) -/
  ready : List Nat := []
  /-- strands by how recently they started a table or exchange command, least recent first -/
  tlast : List Nat := []
  xlast : List Nat := []
  /-- active exchange commands and the number of the next one (R238) -/
  xact : List XAct := []
  xnext : Nat := 0
  /-- the number of the next request injected (R248) -/
  xseq : Nat := 0
  /-- landing slots in use per class (R249) -/
  land : SMap Nat := []
  /-- Thyme (R226 to R229) -/
  ring : SMap (BitVec 128) := []
  trcW : Nat := 0
  trcR : Nat := 0
  trcCnt : Nat := 0
  trcDiv : Bool := false
  trcFov : Bool := false
  trcRov : Bool := false
  trcMode : Nat := 0
  /-- race filter: line, first source, its KIND, second source seen -/
  filter : List (Nat × Nat × Nat × Bool) := []
  heldW : List HeldWrite := []
  rcol : Word := 0
  dirty : BitVec 256 := 0
  parkSt : Nat := 0
  parkWhy : Nat := 0
  /-- a park that is asked for and has not begun: its reason (R276, R283) -/
  parkAsk : Nat := 0
  /-- the park was asked for by `park` (R281) -/
  parkBy : Bool := false
  freezeReq : Bool := false
  frozen : Bool := false
  /-- exchange commands kept for restart at a park (R279) -/
  restart : List XCmd := []
  /-- arrivals of armed words held while parked (R257): address, bytes, poisoned, flags of the word -/
  lateArm : List (Nat × Nat × Bool × List Nat) := []
  deriving DecidableEq, Repr

/-! ### Groups, dies and barrier domains -/

/-- A group (R243, R282, R296, R301, R381). -/
structure Group where
  tlb : List Xlate := []
  fbuf : List FaultRec := []
  dropc : Nat := 0
  drop : Bool := false
  mcast : SMap Word := []
  sagep : Word := 0
  /-- what its 16 Sage monitors last reported at every bin and offset (R377) -/
  reports : List (Nat × Int × List Nat) := []
  /-- the setting last planned or imposed but not yet switched to (R380) -/
  pending : Bool := false
  holder : Option Nat := none
  /-- a park of the group is under way for this reason (R276) -/
  parking : Nat := 0
  deriving DecidableEq, Repr

/-- An entry of a die's miss table (R300). -/
structure Miss where
  fault : Option FaultRec := none
  asid : Nat := 0
  va : Nat := 0
  /-- recorded in the fault buffer of this group -/
  inBuf : Option Nat := none
  gmask : BitVec 8 := 0
  /-- commands waiting on it: tile and command number -/
  waits : List (Nat × Nat) := []
  deriving DecidableEq, Repr

/-- An undo record (R208). -/
structure Undo where
  /-- key of the 32-byte line -/
  line : Nat := 0
  tile : Nat := 0
  /-- the kernel of the writer: tiles pass from kernel to kernel while its records stand (R208, R281) -/
  kern : Option Nat := none
  lvl : Nat := 0
  pois : Bool := false
  /-- an uncorrectable error has struck the record (R347, R357) -/
  bad : Bool := false
  /-- SSC1 to SSC5 of the writer; the record's own bytes hold SSC2 to SSC5, and SSC1 serves the rollback of a tile
  superstep (R206, log 21) -/
  sscs : List (BitVec 32) := []
  /-- the KEYID and the stored bytes of the line (R343) -/
  kid : Nat := 0
  data : List Byte := []
  deriving DecidableEq, Repr

/-- A die (R208, R209, R296, R300). -/
structure Die where
  tlb : List Xlate := []
  miss : SMap Miss := []
  /-- newest record first -/
  journal : List Undo := []
  jover : Nat := 0
  deriving DecidableEq, Repr

/-- A barrier domain (R197, R200, R209, R266). -/
structure Domain where
  ssn : BitVec 32 := 0
  pend : BitVec 8 := 0
  porg : Nat := 0
  nab : Bool := false
  norg : Nat := 0
  pol : Bool := false
  trun : Bool := false
  tmo : BitVec 16 := 0
  /-- device conditions of the superstep: code and origin (R205) -/
  conds : List (BitVec 8 × Nat) := []
  /-- the timer has expired in this superstep (R206, R389) -/
  expired : Bool := false
  /-- pod level: what other packages have brought to this superstep (R197, R375) -/
  peers : List PeerArrival := []
  deriving DecidableEq, Repr

/-! ### Package -/

/-- An event record (R289). -/
structure Event where
  seq : BitVec 32 := 0
  kind : Nat := 0
  status : Nat := 0
  w1 : Word := 0
  w2 : Word := 0
  w3 : Word := 0
  deriving DecidableEq, Repr

/-- A context (R267, R290, R292, R341, R344). -/
structure Ctx where
  asid : Nat := 0
  keyid : Nat := 0
  pcap : BitVec 2 := 0
  supok : Bool := false
  escode : BitVec 8 := 0
  nkern : Nat := 0
  /-- 0 free, 1 idle, 2 running, 3 stopped, 4 halted -/
  st : Nat := 0
  ptroot : Word := 0
  evHead : BitVec 32 := 0
  evDropc : Nat := 0
  evOvf : Bool := false
  /-- next sequence number and the backlog, oldest first -/
  evNext : BitVec 32 := 0
  backlog : List Event := []
  /-- the event queue last named by a launch (R271, R290) -/
  evq : Word := 0
  evqlg : Nat := 0
  keys : List Nat := []
  session : Option (BitVec 128) := none
  cmr : BitVec 256 := 0
  /-- STATE of a stop that no resume has ended: 0, 3 or 4; a launch accepted since has made STATE 2 (R274,
  R286) -/
  stop : Nat := 0
  /-- tiles and records whose trap or halt stopped it (R286) -/
  stoppers : List (Nat × Nat) := []
  /-- key identifiers dropped since the context was made (R345) -/
  oldKeys : List Nat := []
  deriving DecidableEq, Repr

/-- A launch queue or kernel launch queue (R268, R269). -/
structure Ring where
  base : Word := 0
  size : BitVec 16 := 0
  head : BitVec 16 := 0
  tail : BitVec 16 := 0
  /-- tickets and issuing context of the records held, oldest first -/
  recs : List (Nat × Nat) := []
  deriving DecidableEq, Repr

/-- A stack's part of a reduction: what has been folded, and from whom, in admission order. -/
structure Fold where
  /-- wire block so far (OP 0), none before the first admission -/
  wire : Option WireBlock := none
  /-- cells (OP 1): value and overflow per element -/
  cells : List (BitVec 192 × Bool) := []
  /-- maxima (OP 2), FP32 codes -/
  maxs : List (BitVec 32) := []
  order : List Nat := []
  /-- how many contributions were folded and not excluded -/
  used : Nat := 0
  deriving DecidableEq, Repr

/-- A tile-table entry: image, state word and the running firing (R253, R256, R257). -/
structure TtEntry where
  peers : BitVec 256 := 0
  src : Word := 0
  raddr : Word := 0
  len : Nat := 0
  stamp : BitVec 32 := 0
  asid : Nat := 0
  root : Nat := 0
  nrdy : Nat := 0
  v : Bool := false
  op : Nat := 0
  j : Bool := false
  chk : Bool := false
  fg : BitVec 16 := 0
  epoch : BitVec 16 := 0
  rdyc : Nat := 0
  ovf : Bool := false
  stl : Bool := false
  rpv : Bool := false
  running : Bool := false
  dupc : Nat := 0
  xn : Nat := 0
  exclm : BitVec 256 := 0
  /-- the armed word: tile and local address, with the kernel whose strand armed it (R255) -/
  armed : Option (Nat × Nat × Nat) := none
  /-- an expired timer has cancelled its firing; the abort that follows counts no second EPOCH (R263, R389) -/
  timedOut : Bool := false
  /-- the member's own slot in the firing: OSLOT of the entry's kernel (R360) -/
  own : Nat := 0
  /-- effective peers of the firing (R368) -/
  eff : BitVec 256 := 0
  /-- SRC and RADDR as translated when the firing started; none where that failed (R391) -/
  srcX : Option (List Xlate) := none
  dstX : Option (List Xlate) := none
  /-- blocks of the own shard in reduction, by block -/
  folds : SMap Fold := []
  /-- admission order at each stack, and the order a replay asks for (R258, R260) -/
  admitted : SMap (List Nat) := []
  script : SMap (List Nat) := []
  /-- scatter segments waiting for their turn, and segments of both phases that wait for the next
  firing (R259, R260) -/
  waitSegs : List Segment := []
  nextSegs : List Segment := []
  nextGath : List Segment := []
  /-- bytes of the result still to be written at this member, as block numbers -/
  missing : List Nat := []
  /-- some written byte was poisoned -/
  resPois : Bool := false
  /-- a CHK entry found another version: the condition of R261 is due -/
  stale : Bool := false
  /-- resends made of each segment sent (R369), by `segKey`; 5 once its home's slot is reported unreachable -/
  resends : SMap Nat := []
  deriving DecidableEq, Repr

/-- A heap region descriptor (R311). -/
structure Heap where
  asid : Nat := 0
  key : Nat := 0
  v : Bool := false
  col : Bool := false
  tt : Nat := 0
  win : Word := 0
  nobj : Nat := 0
  freeh : BitVec 32 := 0
  epoch : BitVec 16 := 0
  otbase : Nat := 0
  abase : Nat := 0
  next : Nat := 0
  asize : Nat := 0
  /-- storage freed since its last compaction began: first chunk and chunks (R326) -/
  dead : List (Nat × Nat) := []
  /-- a flip has forwards still to free (R329) -/
  flipping : Bool := false
  deriving DecidableEq, Repr

/-- A page migration (R306, R307). -/
structure Migr where
  asid : Nat := 0
  va : Nat := 0
  /-- key of the leaf's bytes, the leaf as it was and as it will be -/
  leafKey : Nat := 0
  old : BitVec 64 := 0
  new : BitVec 64 := 0
  /-- chunks copied, and those to be copied again -/
  cur : Nat := 0
  again : List Nat := []
  committed : Bool := false
  /-- issuer: tile, kernel and sync word -/
  tile : Nat := 0
  kern : Nat := 0
  sw : Option Nat := none
  deriving DecidableEq, Repr

/-- The relocation of an object (R330). -/
structure Reloc where
  rg : Nat := 0
  obj : Nat := 0
  /-- region and object of the destination: the same object in a compaction -/
  rg2 : Nat := 0
  obj2 : Nat := 0
  /-- keys of byte 0 of the old and of the new copy -/
  old : Nat := 0
  new : Nat := 0
  size : Nat := 0
  /-- the cursor P: chunks copied -/
  cur : Nat := 0
  committed : Bool := false
  deriving DecidableEq, Repr

/-- A request of Chervil (R306, R307, R327, R330): a migration, a move of an object to another region,
or the compaction of a region with the objects still to move and the one that is moving. -/
inductive Chervil where
  | migr (m : Migr)
  | move (r : Reloc)
  | compact (rg : Nat) (todo : List Nat) (cur : Option Reloc)
  deriving DecidableEq, Repr

/-- An error-log entry (R357). -/
structure LogEnt where
  time : Nat := 0
  cls : Nat := 0
  unit : Nat := 0
  count : Nat := 1
  loc : Nat := 0
  deriving DecidableEq, Repr

/-- A queue pair (R338, R339). -/
structure Qp where
  asid : Nat := 0
  /-- 0 reset, 1 ready, 2 error -/
  st : Nat := 0
  sealed : Bool := false
  evt : Bool := false
  tagf : Nat := 0
  dqpn : Nat := 0
  txCtr : Nat := 0
  rxCtr : Nat := 0
  key : Nat := 0
  /-- a key still accepted until the first packet under the new one, and the last counter accepted
  under it (R341) -/
  oldKey : Option (Nat × Nat) := none
  /-- send rate in units of 2^-32 of line rate (R337) -/
  rate : Nat := 2 ^ 32
  /-- sequence numbers (R339, log 13): of the packet expected, none until the first since reset or error; of the next
  packet to send; messages completed -/
  epsn : Option Nat := none
  spsn : Nat := 0
  msn : Nat := 0
  /-- packets that wait for an access before them, which waits at its home (R307, R359) -/
  waiting : List EthPacket := []
  /-- packets sent and not acknowledged, in clear, oldest first -/
  unacked : List EthPacket := []
  /-- the message being received: transport header of its first packet, and its bytes so far -/
  msgHdr : List Byte := []
  msg : List Byte := []
  deriving DecidableEq, Repr

/-- A Mubel port (R250, R340). -/
structure Port where
  up : Bool := false
  peer : Nat := 0
  /-- keys of the two directions, out and in, each with its group counter (R340) -/
  key : Nat := 0
  keyIn : Nat := 0
  ctr : Nat := 0
  ctrIn : Nat := 0
  /-- groups sent again, tag failures in a row -/
  resent : Nat := 0
  tagFail : Nat := 0
  deriving DecidableEq, Repr

/-- A member route entry (R361). -/
structure Route where
  v : Bool := false
  /-- 0 free, 1 member, 2 lost, 3 joining -/
  st : Nat := 0
  kind : Bool := false
  pcnt : Nat := 0
  pkg : Nat := 0
  qpn : Nat := 0
  deriving DecidableEq, Repr

/-- The step log's control (R370 to R373). -/
structure StepLog where
  base : Nat := 0
  size : Nat := 0
  mode : Nat := 0
  first : BitVec 32 := 0
  gap : Bool := false
  ovf : Bool := false
  /-- the step that overflowed the area: the log restarts at the next (R373) -/
  lostAt : Option Nat := none
  ckpt : BitVec 32 := 0
  /-- bytes from the area's start: next record, oldest record -/
  wr : Nat := 0
  rd : Nat := 0
  /-- per held step, oldest first: its number, bytes, whether committed -/
  steps : List (Nat × Nat × Bool) := []
  /-- the slot a LOGSEND stream feeds and the next step to send (R374) -/
  stream : Option (Nat × Nat) := none
  deriving DecidableEq, Repr

/-- A collective trace of a stack (R260). -/
structure Trace where
  base : Nat := 0
  size : Nat := 0
  divg : Bool := false
  full : Bool := false
  mode : Nat := 0
  /-- bytes of records held; places of the records a replay has used -/
  used : Nat := 0
  taken : List Nat := []
  deriving DecidableEq, Repr

/-- The registers of an evicted tile's save slot, for which R277 gives no layout; the regions of its SRAM, its
restart records and its tables stand as bytes in the slot (R277 to R281, log 37). -/
structure Saved where
  kernel : Nat := 0
  tile : Nat := 0
  img : Tile := {}
  deriving DecidableEq, Repr

/-- The control plane's vote, power and boot state (R356, R385 to R387). -/
structure Plane where
  dis : BitVec 3 := 0
  rsy : Bool := false
  halt : Bool := false
  rcyc : Nat := 0
  rsc : Nat := 0
  dsc : Nat := 0
  /-- copies whose state an injection has inverted (R358) -/
  upset : BitVec 3 := 0
  /-- control-plane cycles since package reset (R357) -/
  time : Nat := 0
  log : List LogEnt := []
  logW : Nat := 0
  logR : Nat := 0
  logOvf : Bool := false
  /-- samples, newest first, of 100 µs in W; the junction temperatures of the dies, in °C (R383) -/
  watts : List Nat := []
  temps : List Nat := []
  step : Nat := 0
  tcnt : Nat := 0
  trip : Bool := false
  /-- groups raised by throttle step 2, newest first -/
  raised : List Nat := []
  plans : List (BitVec 64) := []
  /-- boot step of R386; 0 is a package that no power-on has started -/
  boot : Nat := 2
  mr0 : BitVec 256 := 0
  mr1 : BitVec 256 := 0
  rollback : Nat := 0
  key0 : Nat := 0
  /-- the boot image received so far (R386) -/
  img : List Byte := []
  /-- HBM in self-refresh (R384) -/
  refresh : Bool := false
  deriving DecidableEq, Repr

/-! ### The whole machine -/

/-- How the last instruction of a strand ended: the MODEL's own field, read by the step for pairs
(log 2). An instruction that is held has had its first effect and waits in its slot for the rest. -/
inductive Ended where
  | done | trapped | stalled | held | suspended
  deriving DecidableEq, Repr

/-- The machine. -/
structure State where
  mem : Memory := []
  marks : Marks := []
  /-- KEYID under which each 32-byte line of die memory or HBM was last written, where not 0 (R343) -/
  lineKey : SMap Nat := []
  /-- the memory keys that are held, by KEYID of 1 to 8,191 (R341, R343) -/
  memKeys : SMap Nat := []
  tiles : SMap Tile := []
  groups : SMap Group := []
  dies : SMap Die := []
  /-- barrier domains by domain number × 8 + level, a domain number being kernel × 2^18 + unit
  (R197) -/
  doms : SMap Domain := []
  kernels : SMap Kernel := []
  ctxs : SMap Ctx := []
  lq : SMap Ring := []
  kq : SMap Ring := []
  tickets : SMap Nat := []
  tt : SMap TtEntry := []
  traces : SMap Trace := []
  heaps : SMap Heap := []
  chervil : SMap Chervil := []
  qps : SMap Qp := []
  ports : SMap Port := []
  routes : SMap Route := []
  /-- the membership words for the next kernel to be accepted (R360) -/
  mctl : Word := 0
  mbva : Word := 0
  slog : StepLog := {}
  saves : List Saved := []
  plane : Plane := {}
  /-- messages for the outside: replies, events and packets sent, oldest first -/
  sent : List EthPacket := []
  /-- segments sent to other members, oldest first, each with the slot it goes to and whether it is of
  the gather phase; step-log records sent, each with its slot -/
  segsOut : List (Nat × Bool × Segment) := []
  logOut : List (Nat × List Byte) := []
  /-- what readback writes have been answered, oldest first: done, or the error status (R11) -/
  statuses : List Bool := []
  /-- the own package's ordinal in the pod -/
  own : Nat := 0
  /-- packages of the pod (R20, R198) that the own package can reach at all -/
  pod : BitVec 256 := 1
  /-- members found lost since the last pod completion (R363) -/
  lost : List Nat := []
  /-- next kernel number and wait number -/
  nextK : Nat := 0
  nextWait : Nat := 0
  /-- the MODEL's own fields (logs 1 to 3): the issuing strand, whether an issue is due, how its
  last instruction ended, the steps that are due, the count of free values drawn -/
  cur : Nat := 0
  curRec : Nat := 0
  issuing : Bool := false
  ended : Ended := .done
  /-- the trap its last instruction to trap raised, with its code -/
  trapWas : Option (Cause × Nat) := none
  agenda : List Instr := []
  freeCtr : Nat := 0
  deriving DecidableEq, Repr

/-- Why the machine stops: of the model's making and safe, no program reaches it. -/
inductive Fault where
  /-- raised by the meaning of a strand instruction when the state names no running strand to issue
  it: safe, a tile issues only from an occupied slot (R185) -/
  | noStrand
  deriving DecidableEq, Repr

/-- Why an instruction has no meaning. -/
inductive Refusal where
  /-- raised by a refused arm of exec: safe, the machine stops -/
  | notModelled (mnemonic : String)
  deriving DecidableEq, Repr

/-- The machine right after a power-on reset: every memory zero, every register at its reset value,
no strand, boot at the step that awaits firmware (R386, R387; the values that the manual does not
give are named in the log). -/
def State.reset : State := {}

end Sys2Proof.Machine
end

