-- ==== Sys2Proof/Machine/Ops.lean ====
section
/-! DEFINITION. The shared operations over the state: tiles and strands, keyed memory, local
memory, address translation, sync words, the error log, events, suspension, barrier arrival, the
taking of a trap and the return from one. -/

namespace Sys2Proof.Machine

/-! ### Tiles, strands, kernels -/

/-- RCOL: the colour of every region (R316). -/
def State.colours (s : State) : Word :=
  s.heaps.foldl (fun x h => setBits x h.1 1 (b2n h.2.col)) 0

/-- A tile by identifier (R193). -/
def State.tileAt (s : State) (t : Nat) : Tile := s.tiles.val { rcol := s.colours } t

/-- Changes a tile. -/
def State.modTileAt (s : State) (t : Nat) (f : Tile → Tile) : State :=
  { s with tiles := s.tiles.put t (f (s.tileAt t)) }

/-- A strand by tile and record index. -/
def State.strandAt (s : State) (t r : Nat) : Strand := (s.tileAt t).strands.val {} r

/-- Changes a strand of a tile. -/
def Tile.modStrand (t : Tile) (r : Nat) (f : Strand → Strand) : Tile :=
  { t with strands := t.strands.put r (f (t.strands.val {} r)) }

/-- Changes a strand. -/
def State.modStrandAt (s : State) (t r : Nat) (f : Strand → Strand) : State :=
  s.modTileAt t fun tl => tl.modStrand r f

/-- The tile of the issuing strand. -/
def State.tl (s : State) : Tile := s.tileAt s.cur

/-- The issuing strand. -/
def State.st (s : State) : Strand := s.strandAt s.cur s.curRec

/-- Changes the tile of the issuing strand. -/
def State.modTl (s : State) (f : Tile → Tile) : State := s.modTileAt s.cur f

/-- Changes the issuing strand. -/
def State.modSt (s : State) (f : Strand → Strand) : State := s.modStrandAt s.cur s.curRec f

/-- Whether the issuing strand exists and runs in a thread slot. -/
def State.running (s : State) : Bool :=
  match s.tiles.val? s.cur with
  | none => false
  | some t =>
    match t.strands.val? s.curRec with
    | none => false
    | some st => st.slot.isSome && st.kind == 2

/-- A group, a die, a domain, a context, a kernel by number. -/
def State.groupAt (s : State) (g : Nat) : Group := s.groups.val {} g
def State.modGroup (s : State) (g : Nat) (f : Group → Group) : State :=
  { s with groups := s.groups.put g (f (s.groupAt g)) }
def State.dieAt (s : State) (d : Nat) : Die := s.dies.val {} d
def State.modDie (s : State) (d : Nat) (f : Die → Die) : State :=
  { s with dies := s.dies.put d (f (s.dieAt d)) }
/-- The key of a barrier domain: a level and a domain number, kernel × 2^18 + unit (R197). -/
def domKey (level dom : Nat) : Nat := dom * 8 + level
def State.domAt (s : State) (level dom : Nat) : Domain := s.doms.val {} (domKey level dom)
def State.modDom (s : State) (level dom : Nat) (f : Domain → Domain) : State :=
  { s with doms := s.doms.put (domKey level dom) (f (s.domAt level dom)) }
def State.kernAt (s : State) (k : Nat) : Kernel := s.kernels.val {} k
def State.modKern (s : State) (k : Nat) (f : Kernel → Kernel) : State :=
  { s with kernels := s.kernels.put k (f (s.kernAt k)) }

/-- The kernel a tile runs, with zero launch parameters where it runs none. -/
def State.kernOf (s : State) (t : Nat) : Kernel :=
  match (s.tileAt t).kernel with
  | some k => s.kernAt k
  | none => {}

/-- The kernel of the issuing strand. -/
def State.kern (s : State) : Kernel := s.kernOf s.cur

/-- The group of a tile (R193): die × 8 + group of the own package's numbering, kept whole. -/
def groupOfTile (t : Nat) : Nat := t / 32
/-- The die of a tile (R193). -/
def dieOfTile (t : Nat) : Nat := t / 256
/-- The package of a tile (R193). -/
def pkgOfTile (t : Nat) : Nat := t / 1024

/-- The unit of a level that encloses a tile (R197): tile, group, die, package, pod. -/
def unitOf (level tile : Nat) : Nat :=
  match level with
  | 0 => tile
  | 1 => tile
  | 2 => groupOfTile tile
  | 3 => dieOfTile tile
  | 4 => pkgOfTile tile
  | _ => 0

/-- The domain of a level that encloses a tile, for the kernel it runs (R197). -/
def State.domOf (s : State) (level tile : Nat) : Nat :=
  (s.tileAt tile).kernel.getD 0 * 2 ^ 18 + unitOf level tile

/-- The context-table slot of an ASID, if it is resident (R267). -/
def State.ctxSlot (s : State) (asid : Nat) : Option Nat :=
  (s.ctxs.find? fun p => p.2.st != 0 && p.2.asid == asid).map (·.1)

/-- The context of an ASID; a free entry where none is resident. -/
def State.ctxOf (s : State) (asid : Nat) : Ctx :=
  match s.ctxSlot asid with
  | some i => s.ctxs.val {} i
  | none => {}

/-- Changes the context of an ASID, where one is resident. -/
def State.modCtx (s : State) (asid : Nat) (f : Ctx → Ctx) : State :=
  match s.ctxSlot asid with
  | some i => { s with ctxs := s.ctxs.put i (f (s.ctxs.val {} i)) }
  | none => s

/-- Draws a free value: advances the counter that every free value reads (log 3). -/
def State.draw (s : State) : State := { s with freeCtr := s.freeCtr + 1 }

/-- The n-th free word from the present count. -/
def State.free (s : State) (n : Nat) : Word := Config.freeWord (s.freeCtr + n)

/-! ### Page-table entries (R293) -/

/-- log2 of the page that a leaf of PS maps (R293). -/
def psLog (ps : Nat) : Nat :=
  match ps with
  | 1 => 16 | 2 => 21 | 3 => 26 | _ => 30

/-- The fields of a page-table entry (R293). -/
def pteV (e : BitVec 64) : Bool := e.getLsbD 63
def pteTT (e : BitVec 64) : Nat := bitsN e.toNat 60 3
def pteKey (e : BitVec 64) : Nat := bitsN e.toNat 47 13
def ptePS (e : BitVec 64) : Nat := bitsN e.toNat 44 3
def pteR (e : BitVec 64) : Bool := e.getLsbD 43
def pteW (e : BitVec 64) : Bool := e.getLsbD 42
def pteX (e : BitVec 64) : Bool := e.getLsbD 41
def pteML (e : BitVec 64) : Bool := e.getLsbD 40
def pteHB (e : BitVec 64) : Bool := e.getLsbD 39
def pteFrame (e : BitVec 64) : Nat := bitsN e.toNat 0 31
def pteNext (e : BitVec 64) : Nat := bitsN e.toNat 0 39

/-- First key and bytes of the frame of a leaf in the own package's view. -/
def State.frameOf (s : State) (e : BitVec 64) : Nat × Nat :=
  let pa := pteFrame e * 2 ^ 16
  (if pteTT e = 3 then hbmKey s.own pa else memKey (pteTT e) pa, 2 ^ psLog (ptePS e))

/-- Whether a byte lies in the frame of a leaf. -/
def State.inFrame (s : State) (e : BitVec 64) (a : Nat) : Bool :=
  decide ((s.frameOf e).1 ≤ a) && decide (a < (s.frameOf e).1 + (s.frameOf e).2)

/-- A migration whose old frame has been written at a, by what no home queues: the chunk is copied again
(R307). -/
def State.soilMigr (s : State) (a : Nat) (m : Migr) : Migr :=
  let j := (a - (s.frameOf m.old).1) / 4096
  if s.inFrame m.old a && !m.committed && decide (j < m.cur) && !m.again.contains j then
    { m with again := m.again ++ [j] }
  else m

/-- Every migration meets a write of [a, a + n), n at most 4,096 (R307). -/
def State.soilFrames (s : State) (a n : Nat) : State :=
  { s with chervil := s.chervil.mapVals fun _ c =>
      match c with
      | .migr m => .migr (s.soilMigr (a + n - 1) (s.soilMigr a m))
      | c => c }

/-! ### Memory under keys (R343) -/

/-- Whether a byte lies in a memory that is encrypted: die memory or HBM. -/
def encrypted (a : Nat) : Bool := keyType a == 2 || keyType a == 4

/-- The KEYID under which the line of a byte was last written. -/
def State.keyOf (s : State) (a : Nat) : Nat := s.lineKey.val 0 (a / 32)

/-- The memory key of a KEYID (R343). -/
def State.keyVal (s : State) (kid : Nat) : Nat := if kid = 0 then s.plane.key0 else s.memKeys.val 0 kid

/-- The key under which a line was written: of its KEYID, or of one dropped since, whose key and KEYID the number of the
line then holds (R345; log 9). -/
def State.writerKey (s : State) (n : Nat) : Nat := if n < 8192 then s.keyVal n else n / 8192 - 1

/-- The number of lines whose KEYID has been dropped (R345). -/
def State.buried (s : State) (kid : Nat) : Nat := 8192 * (s.keyVal kid + 1) + kid

/-- Reads a byte with a KEYID: another writer's line reads as that key's decryption (R343). -/
def State.rdK (s : State) (kid a : Nat) : Byte :=
  if !encrypted a || s.keyOf a == kid then rdByte s.mem a
  else
    Config.xts (s.writerKey (s.keyOf a)) (s.keyVal kid) (a / 32)
      ((List.range 32).map fun i => rdByte s.mem (a / 32 * 32 + i)) (a % 32)

/-- Reads n bytes with their poison. -/
def State.rdP (s : State) (kid a : Nat) : Nat → List PByte
  | 0 => []
  | n + 1 => (s.rdK kid a, isMarked s.marks a) :: s.rdP kid (a + 1) n

/-- Reads n bytes as a number. -/
def State.rdNum (s : State) (kid a n : Nat) : Nat := bytesToNat ((s.rdP kid a n).map (·.1))

/-- Gives a line to a KEYID: what stands in it is what that key reads (R343). -/
def State.reKey (s : State) (kid a : Nat) : State :=
  if !encrypted a || s.keyOf a == kid then s
  else
    let l := a / 32 * 32
    let bs := (s.rdP kid l 32).map (·.1)
    { s with mem := wrBytes s.mem l bs, lineKey := s.lineKey.put (a / 32) kid }

/-- Gives k lines from the line of a byte on to a KEYID. -/
def State.reKeys (s : State) (kid a : Nat) : Nat → State
  | 0 => s
  | k + 1 => (s.reKey kid a).reKeys kid (a + 32) k

/-- Marks every 4 KiB region of n bytes from a local address on dirty (R278). -/
def Tile.soil (t : Tile) (off n : Nat) : Tile :=
  let i := off / 4096
  let m := (off + n - 1) / 4096 + 1 - i
  { t with dirty := t.dirty ||| BitVec.ofNat 256 ((2 ^ m - 1) * 2 ^ i) }

/-- Writes bytes with their poison at a home, under a KEYID: memory, marks and the dirty map of a
tile whose SRAM it is. No journal (R208) and no Thyme order (R225): the callers add those. -/
def State.wrP (s : State) (kid a : Nat) (bs : List PByte) : State :=
  if bs.isEmpty then s
  else
    let s1 := s.reKeys kid a (if encrypted a then (a % 32 + bs.length + 31) / 32 else 0)
    let s2 := { s1 with mem := wrBytes s1.mem a (bs.map Prod.fst), marks := markBytes s1.marks a bs }
    if keyType a = 0 then s2.modTileAt (a / 2 ^ 20) fun t => t.soil (a % 2 ^ 20) bs.length
    else s2.soilFrames a bs.length

/-! ### Local memory of a tile (R102 to R104, R347, R348) -/

/-- First address of the strand pool and park metadata (R173). -/
def poolBase : Nat := 0xff000

/-- The bank of a local address (R196). -/
def bankOf (off : Nat) : Nat := off / 32 % 64

/-- Whether a byte below the pool lies in a gated bank (R196). -/
def Tile.gated (t : Tile) (off : Nat) : Bool :=
  decide (off < poolBase) && !t.bankOn.getLsbD (bankOf off)

/-- Whether a byte lies in a bank that is not yet awake (R196). -/
def Tile.waking (t : Tile) (off : Nat) : Bool :=
  decide (off < poolBase) && t.bankWaking.getLsbD (bankOf off)

/-- A condition on some line of a local range, checked line by line (k lines at most). -/
def anyLine (p : Nat → Bool) (off n : Nat) : Nat → Bool
  | 0 => false
  | k + 1 =>
    if n = 0 then false
    else p off || (if n ≤ 32 - off % 32 then false
      else anyLine p (off / 32 * 32 + 32) (n - (32 - off % 32)) k)

/-- Whether some byte of a range lies in a gated bank. -/
def Tile.anyGated (t : Tile) (off n : Nat) : Bool := anyLine t.gated off n (n / 32 + 2)

/-- Whether some byte of a range lies in a waking bank. -/
def Tile.anyWaking (t : Tile) (off n : Nat) : Bool := anyLine t.waking off n (n / 32 + 2)

/-- Appends an event to the error log, or merges it into the newest entry (R357). -/
def State.logErr (s : State) (cls unit loc : Nat) : State :=
  let p := s.plane
  let merged :=
    match p.log.getLast? with
    | some e =>
      if e.cls = cls ∧ e.unit = unit ∧ e.loc = loc then
        some (p.log.dropLast ++ [{ e with count := min 255 (e.count + 1), time := p.time }])
      else none
    | none => none
  match merged with
  | some l => { s with plane := { p with log := l } }
  | none =>
    if 256 ≤ p.log.length then { s with plane := { p with logOvf := true } }
    else { s with plane := { p with
      log := p.log ++ [{ time := p.time, cls := cls, unit := unit, loc := loc }],
      logW := (p.logW + 1) % 256 } }

/-- LOC of a tile's unit (R357). -/
def locTile (tile x : Nat) : Nat := tile * 2 ^ 30 + x

/-- LOC of a line (R357). -/
def locLine (a : Nat) : Nat := keyType a * 2 ^ 45 + keyPa a / 32 % 2 ^ 42

/-- Whether the inverted bits of a code word are more than the one that SECDED corrects (R347). -/
def uncorrectable (m : BitVec 72) : Bool := m &&& (m - 1) != 0

/-- Applies the flipped code words a read of the range meets: one flip is corrected, more mark the
granule (R358, R347). -/
def State.meetFlips (s : State) (tile off n : Nat) : State :=
  ((s.tileAt tile).flips.filter fun f => decide (f.1 < off + n) && decide (off < f.1 + 8)).foldl
    (fun s f =>
      let s := s.modTileAt tile fun t => { t with flips := t.flips.filter (·.1 != f.1) }
      if uncorrectable f.2 then
        { s with marks := setMark s.marks (sramKey tile f.1) }.logErr 2 0 (locTile tile f.1)
      else s.logErr 1 0 (locTile tile f.1)) s

/-- Reads n local bytes as a number. -/
def State.ldNum (s : State) (tile off n : Nat) : Nat := rdNat s.mem (sramKey tile off) n

/-- Whether any of n local bytes is marked poisoned. -/
def State.ldPois (s : State) (tile off n : Nat) : Bool := anyMarked s.marks (sramKey tile off) n

/-- Writes local bytes with one poison bit for all, and soils the dirty map (R103, R348). Flipped
code words of granules it covers whole are overwritten; others are met first (R358). -/
def State.stBytes (s : State) (tile off : Nat) (bs : List Byte) (pois : Bool) : State :=
  if bs.isEmpty then s
  else
    let s := s.modTileAt tile fun t =>
      { t with flips := t.flips.filter fun f =>
          !(decide (off ≤ f.1) && decide (f.1 + 8 ≤ off + bs.length)) }
    let s := s.meetFlips tile off bs.length
    let s := s.modTileAt tile fun t => t.soil off bs.length
    { s with
      mem := wrBytes s.mem (sramKey tile off) bs,
      marks := markWrite s.marks (sramKey tile off) bs.length pois }

/-- Writes a number as n local bytes. -/
def State.stNum (s : State) (tile off n x : Nat) (pois : Bool) : State :=
  s.stBytes tile off (natToBytes n x) pois

/-- Writes local bytes that carry their own poison. -/
def State.stP (s : State) (tile off : Nat) (bs : List PByte) : State :=
  let s := s.stBytes tile off (bs.map (·.1)) false
  { s with marks := markBytes s.marks (sramKey tile off) bs }

/-! ### Address translation (R292 to R294) -/

/-- Index bits of a level: lowest bit and count (R292). -/
def lvlIdx (lvl : Nat) : Nat × Nat :=
  match lvl with
  | 4 => (39, 17) | 3 => (30, 9) | 2 => (26, 4) | 1 => (21, 5) | _ => (16, 5)

/-- Whether the page size of a leaf is allowed for its target (R294, R314). -/
def psAllowed (tt ps : Nat) : Bool :=
  match tt with
  | 0 => ps == 1
  | 6 => ps == 1
  | 1 => ps == 1 || ps == 2
  | 5 => ps == 1 || ps == 2
  | _ => true

/-- The subcause a leaf that does not fit its target faults with (R294, R302). -/
def leafBad (e : BitVec 64) : Option Nat :=
  if pteTT e = 7 then some 0
  else if !psAllowed (pteTT e) (ptePS e) then some 2
  else if pteFrame e % 2 ^ (psLog (ptePS e) - 16) ≠ 0 then some 3
  else none

/-- Where a walk ends: a leaf with its level and the key of its bytes, or a fault with cause,
subcause and level (R294, R302). -/
inductive Walked where
  | leaf (e : BitVec 64) (lvl at_ : Nat)
  | bad (cause sub lvl : Nat)
  deriving DecidableEq, Repr

/-- The offset of the next table, or of the entry, at a level (R292). -/
def entryOff (tbl lvl va : Nat) : Nat := tbl + 8 * bitsN va (lvlIdx lvl).1 (lvlIdx lvl).2

/-- Alignment of the table that serves a level (R292). -/
def tblSize (lvl : Nat) : Nat :=
  match lvl with
  | 4 => 2 ^ 20 | 3 => 4096 | 2 => 128 | _ => 256

/-- Walks a tree from a table of a level downward to a leaf that is not malformed (R292 to R294). -/
def State.leafFrom (s : State) (va tbl : Nat) : Nat → Walked
  | 0 => .bad 4 1 0
  | n + 1 =>
    let lvl := n
    let at_ := hbmKey s.own (entryOff tbl lvl va)
    let e : BitVec 64 := BitVec.ofNat 64 (s.rdNum 0 at_ 8)
    if !pteV e then .bad 1 0 lvl
    else if 5 ≤ ptePS e ∨ (lvl = 4 ∧ ptePS e ≠ 0) ∨ (lvl = 0 ∧ ptePS e = 0) then .bad 4 1 lvl
    else if ptePS e = 0 then
      if bitsN e.toNat 47 16 ≠ 0 ∨ bitsN e.toNat 39 5 ≠ 0 then .bad 4 1 lvl
      else if pteNext e % tblSize (lvl - 1) ≠ 0 then .bad 4 1 lvl
      else s.leafFrom va (pteNext e) n
    else if ptePS e ≠ lvl + 1 ∨ bitsN e.toNat 31 8 ≠ 0 then .bad 4 1 lvl
    else .leaf e lvl at_

/-- The leaf that a walk of a context's tree reaches, whether or not it fits its target (R292, R305). -/
def State.walkLeaf (s : State) (asid va : Nat) : Walked :=
  s.leafFrom va (bitsN (s.ctxOf asid).ptroot.toNat 20 19 * 2 ^ 20) 5

/-- A whole walk of a context's tree: a leaf has to fit its target (R292, R294). -/
def State.walk (s : State) (asid va : Nat) : Walked :=
  match s.walkLeaf asid va with
  | .leaf e lvl at_ =>
    match leafBad e with
    | some sub => .bad 4 sub lvl
    | none => .leaf e lvl at_
  | x => x

/-- Whether a virtual range is canonical (R194): bits [63:56] equal bit 55, at both ends. -/
def canonical (va : Nat) : Bool := va < 2 ^ 55 || (2 ^ 64 - 2 ^ 55 ≤ va && va < 2 ^ 64)

/-- The physical key of a virtual address under a leaf; none where a field is out of range
(R194). Types 3 and 4 share the keys of a package's HBM; type 5 is handled by its callers. -/
def State.physOf (s : State) (e : BitVec 64) (va : Nat) : Option Nat :=
  let pa := pteFrame e * 2 ^ 16 + va % 2 ^ psLog (ptePS e)
  match pteTT e with
  | 0 => if pa < 2 ^ 38 ∧ s.pod.getLsbD (pa / 2 ^ 30) then some (memKey 0 pa) else none
  | 1 => if pa < 2 ^ 36 ∧ pa % 2 ^ 23 < 2 ^ 23 ∧ s.pod.getLsbD (pa / 2 ^ 28)
      then some (memKey 1 pa) else none
  | 2 => if pa < 2 ^ 40 ∧ s.pod.getLsbD (pa / 2 ^ 32) then some (memKey 2 pa) else none
  | 3 => if pa < 2 ^ 39 then some (hbmKey s.own pa) else none
  | 4 => if pa < 2 ^ 47 ∧ s.pod.getLsbD (pa / 2 ^ 39) then some (memKey 4 pa) else none
  | 5 => some (memKey 5 pa)
  | 6 => if pa < 2 ^ 38 ∧ pa % 2 ^ 20 < 2 ^ 17 ∧ s.pod.getLsbD (pa / 2 ^ 30)
      then some (memKey 6 pa) else none
  | _ => none

/-- A translation of the control plane (R273, R288, R391): the key of an address that its context may read, or
write where that is asked, and that lies in the own HBM where its rule says so; none otherwise. -/
def State.planeKey (s : State) (asid va : Nat) (write : Bool) (hbm : Bool := true) : Option Nat :=
  if !canonical va then none
  else
    match s.walk asid va with
    | .bad _ _ _ => none
    | .leaf e _ _ =>
      if (!hbm || pteTT e == 3) ∧ pteR e ∧ (!write || pteW e) ∧
          ((s.ctxOf asid).keys.contains (pteKey e) || ((s.ctxOf asid).supok && pteKey e == 0))
      then s.physOf e (va % 2 ^ 56) else none

/-- The KEYID of the leaf that maps an address. -/
def State.planeKid (s : State) (asid va : Nat) : Nat :=
  match s.walk asid va with
  | .leaf e _ _ => pteKey e
  | .bad _ _ _ => 0

/-! ### Packets to the outside (R337, R339) -/

/-- A slot is found lost (R363, R376): a member at the next pod completion, a spare that is joining at
once. -/
def State.loseSlot (s : State) (x : Nat) : State :=
  let r := s.routes.val {} x
  if r.st = 3 then { s with routes := s.routes.put x { r with st := 2 } }
  else if r.st = 1 ∧ !s.lost.contains x then { s with lost := s.lost ++ [x] }
  else s

/-- A queue pair enters the error state: the slots whose route beyond the pod it carries are lost at once; the next
agreement brings its own sequence numbers (R337, R339, R363; log 13). -/
def State.qpError (s : State) (i : Nat) : State :=
  let s1 := { s with qps := s.qps.put i { s.qps.val {} i with st := 2, epsn := none, waiting := [] } }
  s1.routes.foldl (fun s r => if r.2.v ∧ r.2.kind ∧ r.2.qpn = i then s.loseSlot r.1 else s) s1

/-- The nonce of a sealed packet: receiving QPN, direction bit, counter (R339). -/
def nonceOf (qpn : Nat) (fromDevice : Bool) (ctr : Nat) : Nat :=
  qpn % 2 ^ 24 * 2 ^ 72 + b2n fromDevice * 2 ^ 71 + ctr % 2 ^ 64

/-- A number in the byte order of the transport headers (R9). -/
def beBytes (n x : Nat) : List Byte := (natToBytes n x).reverse

/-- The base transport header of a packet, 12 bytes in the order of the standard (R9, R337). -/
def bthOf (p : EthPacket) (qpn : Nat) : List Byte :=
  beBytes 1 p.opcode ++ beBytes 1 p.flags ++ beBytes 2 p.pkey ++ [0] ++ beBytes 3 qpn ++
    beBytes 1 (b2n p.ackReq * 2 ^ 7) ++ beBytes 3 p.psn

/-- The additional data of a sealed packet: its transport headers and the counter header (R339). -/
def ethAad (p : EthPacket) (qpn : Nat) : List Byte := bthOf p qpn ++ p.header ++ natToBytes 8 p.counter

/-- A readback write has been answered: done, or with the error status (R11). -/
def State.told (s : State) (ok : Bool) : State := { s with statuses := s.statuses ++ [ok] }

/-- A readback write: one that is rejected writes nothing (R11). -/
def State.answered (s : State) (t : Option State) : State :=
  match t with
  | some t => t.told true
  | none => s.told false

/-- The R_Key of a queue pair (R338). -/
def Qp.rkey (q : Qp) (qpn : Nat) : BitVec 32 :=
  (Config.sm3 (natToBytes 16 q.key ++ natToBytes 3 qpn)).truncate 32

/-- Sends a packet of a queue pair: sealed under the next counter where the queue pair is ready and
sealed and a payload is carried; at counter 2^40 the queue pair enters the error state (R339). -/
def State.emit (s : State) (i : Nat) (p : EthPacket) : State :=
  let q := s.qps.val {} i
  if q.st == 1 && q.sealed && !p.payload.isEmpty then
    let c := q.txCtr + 1
    if 2 ^ 40 ≤ c then s.qpError i
    else
      let p1 := { p with counter := c }
      let body := Config.sm4Seal q.key (nonceOf q.dqpn true c) (ethAad p1 q.dqpn) p1.payload
      { s with
        sent := s.sent ++ [{ p1 with payload := body }],
        qps := s.qps.put i { q with txCtr := c } }
  else { s with sent := s.sent ++ [p] }

/-- Sequence numbers run modulo 2^24. -/
def psnAdd (a b : Nat) : Nat := (a + b) % 2 ^ 24

/-- How far a sequence number lies ahead of another. -/
def psnGap (a b : Nat) : Nat := (a % 2 ^ 24 + 2 ^ 24 - b % 2 ^ 24) % 2 ^ 24

/-- A packet of a queue pair: opcode, sequence number, extended transport headers, payload, with the pad count that its
payload needs. -/
def packetOf (i op psn : Nat) (hdr body : List Byte) : EthPacket :=
  { qp := i, opcode := op, rc := true, ce := false, counter := 0, header := hdr, payload := body, psn := psn,
    flags := (4 - body.length % 4) % 4 * 16 }

/-- Sends a new packet of a queue pair in any state, kept until it is acknowledged. -/
def State.sendRaw (s : State) (i op : Nat) (hdr body : List Byte) : State :=
  let q := s.qps.val {} i
  let p := packetOf i op q.spsn hdr body
  { s with qps := s.qps.put i { q with unacked := q.unacked ++ [p], spsn := psnAdd q.spsn 1 } }.emit i p

/-- Sends a new packet on a queue pair that is ready. -/
def State.sendOn (s : State) (i op : Nat) (hdr body : List Byte) : State :=
  if (s.qps.val {} i).st = 1 then s.sendRaw i op hdr body else s

/-! ### Events (R289, R290) -/

/-- The 32 bytes of an event record. -/
def Event.bytes (e : Event) : List Byte :=
  natToBytes 8 (e.seq.toNat * 2 ^ 32 + e.status % 256 * 256 + e.kind % 256) ++
    natToBytes 8 e.w1.toNat ++ natToBytes 8 e.w2.toNat ++ natToBytes 8 e.w3.toNat

/-- The transport headers of the RDMA WRITE with immediate that posts an event (R289, R337): address, R_Key and
length, and the immediate. DESIGN CHOICE: R289 does not say what these hold; here the address is the record's
place in the event queue, the key the queue pair's own, and the immediate the event's sequence number (log 13). -/
def Event.headers (e : Event) (va : Nat) (rkey : BitVec 32) : List Byte :=
  beBytes 8 (va % 2 ^ 64) ++ beBytes 4 rkey.toNat ++ beBytes 4 32 ++ beBytes 4 e.seq.toNat

/-- Writes event records into a context's queue while the host has left room (R290), and posts
each as RDMA WRITE with immediate on the queue pair that carries them (R289). A halted plane writes none (R356). -/
def State.flushEvents (s : State) (asid : Nat) : Nat → State
  | 0 => s
  | k + 1 =>
    let c := s.ctxOf asid
    match c.backlog with
    | [] => s
    | e :: rest =>
      if !s.plane.halt && decide ((e.seq - c.evHead).toNat < 2 ^ c.evqlg) then
        let va := c.evq.toNat + 32 * (e.seq.toNat % 2 ^ c.evqlg)
        let s1 := match s.planeKey asid va true false with
          | some a => s.wrP (s.planeKid asid va) a (e.bytes.map fun b => (b, false))
          | none => s
        let s2 := match s.qps.find? fun p => p.2.evt && p.2.asid == asid with
          | some p => s1.sendOn p.1 0x0b (e.headers va (p.2.rkey p.1)) e.bytes
          | none => s1
        (s2.modCtx asid fun c => { c with backlog := rest }).flushEvents asid k
      else s

/-- Whether an event stops a kernel or a context: four places of the backlog are kept for these (R290). -/
def eventStops (kind : Nat) : Bool := kind == 2 || kind == 5 || kind == 6 || kind == 7

/-- Whether the backlog has a place for an event of a kind (R290): the events that stop take the four places
kept for them first. -/
def Ctx.eventRoom (c : Ctx) (kind : Nat) : Bool :=
  let stop := (c.backlog.filter fun e => eventStops e.kind).length
  if eventStops kind then decide (c.backlog.length < 16)
  else decide (c.backlog.length - stop + (stop - 4) < 12)

/-- Posts an event (R289, R290): it takes a sequence number, waits in the backlog, is written as
far as HEAD allows, or is dropped. -/
def State.postEvent (s : State) (asid kind status : Nat) (w1 w2 w3 : Word) : State :=
  let c := s.ctxOf asid
  let e : Event := { seq := c.evNext, kind := kind, status := status, w1 := w1, w2 := w2, w3 := w3 }
  let room := c.eventRoom kind
  let direct := c.backlog.isEmpty && decide ((c.evNext - c.evHead).toNat < 2 ^ c.evqlg)
  let s1 := s.modCtx asid fun c =>
    if direct || room then { c with evNext := c.evNext + 1, backlog := c.backlog ++ [e] }
    else { c with evNext := c.evNext + 1, evDropc := min 255 (c.evDropc + 1), evOvf := true }
  s1.flushEvents asid 17

/-! ### Sync words (R232, R233) -/

/-- Whether some byte of a range lies in a gated bank of a tile of this package; what another package has gated
is its own (R196, R233). -/
def State.gatedAt (s : State) (tile off n : Nat) : Bool :=
  pkgOfTile tile == s.own && (s.tileAt tile).anyGated off n

/-- The key of a sync word's first byte, where it can be counted into: below the pool, in a powered
bank, inside the SRAM (R232, R233). -/
def State.swKey (s : State) (tile addr : Nat) : Option Nat :=
  if addr < poolBase ∧ !s.gatedAt tile addr 1 then some (sramKey tile addr) else none

/-- Sets bits [127:96] flags of a sync word: POI 1, STALE 2, ERR 3, SAT 0 as bit numbers. -/
def State.swFlag (s : State) (tile addr bit : Nat) : State :=
  match s.swKey tile addr with
  | none => s
  | some _ =>
    let x := s.ldNum tile (addr + 12) 4
    s.stNum tile (addr + 12) 4 (x ||| 2 ^ bit) (s.ldPois tile (addr + 12) 4)

/-- NHELD of a sync word: raised to the count that the engine keeps, or one less where a hold ends; both
saturate (R232, R234, R240). -/
def State.swHeld (s : State) (tile addr : Nat) (count : Option Nat) : State :=
  match s.swKey tile addr with
  | none => s
  | some _ =>
    let n := match count with
      | some n => min 255 n
      | none => s.ldNum tile (addr + 13) 1 - 1
    s.stNum tile (addr + 13) 1 n (s.ldPois tile (addr + 13) 1)

/-- GEN of a sync word. -/
def State.swGen (s : State) (tile addr : Nat) : BitVec 32 :=
  BitVec.ofNat 32 (s.ldNum tile (addr + 8) 4)

/-- Arrive (R233): the state, and whether the arrival was dropped. -/
def State.arrive (s : State) (tile addr n : Nat) (pois : Bool) : State × Bool :=
  match s.swKey tile addr with
  | none => (s, true)
  | some _ =>
    let s := if pois then s.swFlag tile addr 1 else s
    let tot := s.ldNum tile addr 4
    let t := s.ldNum tile (addr + 4) 4 + n
    let pz := s.ldPois tile addr 16
    if tot = 0 then
      if 2 ^ 32 ≤ t then ((s.stNum tile (addr + 4) 4 (2 ^ 32 - 1) pz).swFlag tile addr 0, false)
      else (s.stNum tile (addr + 4) 4 t pz, false)
    else
      let g := (s.swGen tile addr).toNat + t / tot
      ((s.stNum tile (addr + 8) 4 (g % 2 ^ 32) pz).stNum tile (addr + 4) 4 (t % tot) pz, false)

/-! ### General registers -/

/-- The value of a general register; `g0` reads zero (R46). -/
def Strand.rg (st : Strand) (n : Nat) : Word := if n = 0 then 0 else st.g.val 0 n

/-- The poison of a general register; `g0` is never poisoned (R46). -/
def Strand.rgp (st : Strand) (n : Nat) : Bool := if n = 0 then false else st.gp.getLsbD n

/-- Writes a general register; a write to `g0` is discarded (R46). -/
def Strand.wg (st : Strand) (n : Nat) (x : Word) (p : Bool) : Strand :=
  if n = 0 then st
  else { st with g := st.g.put n x,
                 gp := if p then st.gp ||| (1#32 <<< n) else st.gp &&& ~~~ (1#32 <<< n) }

/-! ### Program counters (R65) -/

/-- LINE and SLOT of a PC. -/
def pcLine (pc : Word) : Nat := bitsN pc.toNat 3 11
def pcSlot (pc : Word) : Nat := bitsN pc.toNat 0 3

/-- A PC of a line and slot. -/
def mkPc (line slot : Nat) : Word := BitVec.ofNat 64 (line * 8 + slot)

/-- The slot after a slot; slot 4 runs on to the next line (R65). The line after 2,047 is 2,048,
which no PC names: the fall-through check of R65 finds it. DESIGN CHOICE (log 30): a taken call in that last slot
has no next line to link to; its link is 0x4000, the number of line 2,048. -/
def pcNext (pc : Word) : Word :=
  if pcSlot pc = 4 then mkPc (pcLine pc + 1) 0 else mkPc (pcLine pc) (pcSlot pc + 1)

/-- Whether a PC has the form of R65. -/
def pcForm (pc : Word) : Bool := decide (pc.toNat < 2 ^ 14) && decide (pcSlot pc ≤ 4)

/-! ### Continuation records and suspension (R173 to R176) -/

/-- The wait descriptor of a strand's record (R174). -/
def Strand.desc (st : Strand) : Word :=
  BitVec.ofNat 64 (st.kind * 2 ^ 61 + st.pri * 2 ^ 58 + bitsN st.gp.toNat 1 5 * 2 ^ 53 +
    st.scp * 2 ^ 50 + st.swa * 2 ^ 32 + st.gen.toNat)

/-- The local address of a record (R173). -/
def recAddr (i : Nat) : Nat := poolBase + 64 * i

/-- The 64 bytes of a strand's record (R173). -/
def Strand.record (st : Strand) : List Byte :=
  natToBytes 8 st.pc.toNat ++ natToBytes 8 st.wid.toNat ++ natToBytes 8 st.desc.toNat ++
    natToBytes 8 (st.rg 1).toNat ++ natToBytes 8 (st.rg 2).toNat ++ natToBytes 8 (st.rg 3).toNat ++
    natToBytes 8 (st.rg 4).toNat ++ natToBytes 8 (st.rg 5).toNat

/-- Writes a strand's record into the pool of its tile. -/
def State.writeRecord (s : State) (tile r : Nat) : State :=
  s.stBytes tile (recAddr r) (s.strandAt tile r).record false

/-- Writes the wait descriptor of a waiting strand into its record; the other bytes stand as a supervisor may
have left them (R174, R175). -/
def State.writeDesc (s : State) (tile r : Nat) : State :=
  s.stNum tile (recAddr r + 16) 8 (s.strandAt tile r).desc.toNat false

/-- Empties a strand's six queues and cancels its pending drains (R57). -/
def Strand.emptyQueues (st : Strand) : Strand := { st with lq := [], sq := [], drains := [] }

/-- Closes an open region (R351). -/
def Strand.closeRegion (st : Strand) : Strand := { st with region := none }

/-- Drops a table (R162): its entries are gone; descriptor and build word stay. -/
def TbReg.dropped (x : TbReg) : TbReg := { x with drop := true, ents := 0 }

/-- The table register that a command uses (R163). -/
def TCmd.usesTb (c : TCmd) : Option Nat :=
  match c.instr with
  | .tlook f | .tlookc f | .mchk f => some (opIdx f.a)
  | _ => none

/-- The device's choice at a suspension point to drop the tables of a strand's claim (R52, R162): none that a
command in its queue uses. -/
def State.maybeDrop (s : State) (tile r : Nat) : State :=
  let st := s.strandAt tile r
  match st.claim with
  | none => s
  | some c =>
    let go (s : State) (j : Nat) : State :=
      if Config.freeBool s.freeCtr && !(st.tq.any fun q => q.usesTb == some (j - 2 * c)) then
        (s.modTileAt tile fun t => { t with tb := t.tb.put j (t.tb.val {} j).dropped }).draw
      else s.draw
    go (go s (2 * c)) (2 * c + 1)

/-- A suspended strand whose vector commands have completed leaves its slot (R121, R176): its grant is
released and its queues are emptied. What R58 does not keep becomes undefined when it is loaded again. -/
def State.leaveSlot (s : State) (tile r : Nat) : State :=
  let s := s.modStrandAt tile r fun st =>
    { st.emptyQueues with
      slot := none, vl := 0, vq := 0, stall := none, leaving := false, stale := true }
  s.maybeDrop tile r

/-- Suspends a strand (R176): its record is written with a wait descriptor and the PC to resume at; it
waits in its slot for its vector commands, counting in IDLE8, and leaves it. -/
def State.suspendAt (s : State) (tile r : Nat) (kind scp swa : Nat) (gen : BitVec 32) (pc : Word) :
    State :=
  let s := s.modTileAt tile fun t =>
    { t.modStrand r fun st =>
        { st.closeRegion with
          kind := kind, scp := scp, swa := swa, gen := gen, pc := pc, target := none, vreq := none,
          hold := 0, stall := some { idle := some 8 }, fence := none, tlbinv := none, leaving := true,
          since := s.freeCtr } with
      vwait := t.vwait.filter (· != r) }
  let s := s.writeRecord tile r
  let s := if kind = 1 then s.modTileAt tile fun t => { t with ready := t.ready ++ [r] } else s
  let s := if (s.strandAt tile r).vq = 0 then s.leaveSlot tile r else s
  s.draw

/-- What a suspension point leaves undefined (R13, R58): free values from draw n on, with tags that
exist and RNGS never zero; VL is 0 and the queues are empty. -/
def Strand.undefine (st : Strand) (n : Nat) : Strand :=
  let w := fun i => Config.freeWord (n + i)
  let g := (List.range 26).foldl (fun g i => g.put (6 + i) (w i)) st.g
  let v := (List.range 32).foldl (fun v i => v.put i
    { lanes := Config.freeVec (n + i), pois := w (32 + i),
      tag := BitVec.ofNat 4 ((w (64 + i)).toNat % 12),
      blk := BitVec.ofNat 8 ((w (64 + i)).toNat / 16) }) st.v
  let k := (List.range 7).foldl (fun k i => k.put (1 + i) (w (100 + i))) st.k
  let h := (List.range 16).foldl (fun h i => h.put i
    (let x := w (128 + i)
     { val := w (144 + i), poi := x.getLsbD 0, unh := x.getLsbD 1, hbv := x.getLsbD 2,
       hba := BitVec.ofNat 20 (x.toNat / 8) })) st.h
  { st.emptyQueues with
    g := g, gp := (st.gp &&& 0x3e) ||| ((w 26).truncate 32 &&& 0xffffffc0), v := v, k := k, h := h,
    rngs := rngsFix ((w 27).truncate 32), repidx := (w 28).toNat % 64, vl := 0, stale := false }

/-- Makes the issuing strand's registers undefined where it stands (R58, R181). -/
def State.undefineAt (s : State) (tile r : Nat) : State :=
  let s1 := s.modStrandAt tile r fun st => st.undefine s.freeCtr
  { s1 with freeCtr := s1.freeCtr + 160 }

/-! ### Barrier arrival (R198, R203) -/

/-- The levels 1 to n as a bit set. -/
def levelsTo (n : Nat) : BitVec 6 := BitVec.ofNat 6 (2 ^ (n + 1) - 2)

/-- The tiles of a domain (R197): those of the kernel in the unit. -/
def State.domTiles (s : State) (level dom : Nat) : List (Nat × Tile) :=
  s.tiles.filter fun p => p.2.kernel == some (dom / 2 ^ 18) && unitOf level p.1 == dom % 2 ^ 18

/-- Whether no tile of a domain is evicted: completions are held until the restore (R281). -/
def State.noneAway (s : State) (level dom : Nat) : Bool :=
  (s.saves.all fun x => x.kernel != dom / 2 ^ 18 || unitOf level x.tile != dom % 2 ^ 18)

/-- Whether a party of a domain is parked by preemption, frozen, or stopped for a new setting of its group: its timer
stops (R206, R281, R359, R380). -/
def State.preempted (s : State) (level dom : Nat) : Bool :=
  ((s.domTiles level dom).any fun t =>
    t.2.frozen || (t.2.parkSt != 0 && (t.2.parkWhy == 2 || t.2.parkWhy == 3)) ||
      (s.groupAt (groupOfTile t.1)).pending) ||
    !s.noneAway level dom

/-- Whether a strand has arrived at a level, by `sync` or by `exit` (R198): one that waits at an outer scope stands
arrived at the inner levels for all their supersteps. A follower is no party. -/
def Strand.arrived (st : Strand) (level : Nat) : Bool :=
  st.folw || st.exiting || st.reached.getLsbD level

/-- Whether a strand of a tile has arrived by `sync` since the level's last completion (R198). -/
def Tile.bySync (t : Tile) (level : Nat) : Bool :=
  t.strands.any fun p => !p.2.folw && !p.2.exiting && p.2.synced.getLsbD level

/-- Whether every strand of a tile has arrived at a level (R198). -/
def Tile.arrived (t : Tile) (level : Nat) : Bool := t.strands.all fun p => p.2.arrived level

/-- Whether some party of a domain has arrived by `sync` (R197, R198): an arrival by `exit` alone starts no timer
(DESIGN CHOICE, log 36). -/
def State.someParty (s : State) (level dom : Nat) : Bool :=
  let ts := s.domTiles level dom
  if level = 1 then ts.any fun p => p.2.bySync 1
  else ts.any fun p =>
    let us := ts.filter fun q => unitOf (level - 1) q.1 == unitOf (level - 1) p.1
    (us.all fun q => q.2.arrived level) && us.any fun q => q.2.bySync level

/-- Starts the timers of the domains of levels 1 to n around a tile that a party has reached
(R200). -/
def State.startTimers (s : State) (tile : Nat) (n : Nat) : State :=
  (List.range n).foldl (fun s l =>
    let dom := s.domOf (l + 1) tile
    if s.someParty (l + 1) dom then
      s.modDom (l + 1) dom fun d => { d with trun := d.trun || d.tmo != 0 }
    else s) s

/-- A strand arrives at the levels 1 to `a.scp` and suspends with KIND 4 (R203). -/
def State.arriveBarrier (s : State) (tile r : Nat) (a : Arrival) (pc : Word) : State :=
  let s := s.modStrandAt tile r fun st =>
    { st with arrival := some a, reached := st.reached ||| levelsTo a.scp,
              synced := st.synced ||| levelsTo a.scp }
  let s := s.startTimers tile a.scp
  s.suspendAt tile r 4 a.scp 0 ((s.tileAt tile).ssc.val 0 a.scp) pc

/-! ### Traps (R81, R286) -/

/-- The cause codes (R286). -/
def Cause.code : Cause → Nat
  | .undefinedInstr => 0x01 | .reservedField => 0x02 | .operandClass => 0x03 | .privilege => 0x04
  | .lineFormat => 0x05 | .fetchParity => 0x06 | .target => 0x07 | .breakpoint => 0x08
  | .software => 0x09 | .format => 0x0a | .claim => 0x0b | .blockExponent => 0x0d
  | .codeRange => 0x0e | .tableLost => 0x0f | .poison => 0x10 | .localRange => 0x11
  | .alignment => 0x12 | .queueDeadlock => 0x13 | .openPacket => 0x14 | .workIdentifier => 0x15
  | .pwlTable => 0x16 | .exchangeOperand => 0x17 | .collective => 0x18

/-- ECAUSE of a cause and a 16-bit code (R286). -/
def ecauseOf (cause code : Nat) : Word := BitVec.ofNat 64 (code % 65536 * 2 ^ 32 + cause % 256)

/-- Asks for a park of a tile, unless one for the same or a stronger reason is asked for or under way (R284);
a tile that is parked stays so for the stronger reason. -/
def Tile.askPark (t : Tile) (why : Nat) (byPark : Bool) : Tile :=
  if why ≤ max t.parkAsk t.parkWhy then t
  else if t.parkSt ≠ 0 then { t with parkWhy := why, parkBy := byPark }
  else { t with parkAsk := why, parkBy := byPark }

/-- The park that is asked for begins: from now on the tile's strands stop (R277). -/
def Tile.beginPark (t : Tile) : Tile :=
  if t.parkAsk = 0 then t else { t with parkWhy := max t.parkWhy t.parkAsk, parkAsk := 0 }

/-- Whether a group is parking: a park of one of its tiles has begun and has not ended (R283). -/
def State.parkingNow (s : State) (g : Nat) : Bool :=
  s.tiles.any fun p => groupOfTile p.1 == g && p.2.parkWhy != 0 && p.2.parkSt == 0

/-- The parks asked for in a group begin, unless two other groups of its die are parking (R283). -/
def State.startPark (s : State) (g : Nat) : State :=
  let busy := (List.range 8).filter fun i => g / 8 * 8 + i != g && s.parkingNow (g / 8 * 8 + i)
  if 2 ≤ busy.length then s
  else { s with tiles := s.tiles.mapVals fun i t => if groupOfTile i = g then t.beginPark else t }

/-- Begins every park that is asked for and can begin, the strongest reason first (R283). -/
def State.startParks (s : State) : State :=
  [4, 3, 2, 1].foldl (fun s why =>
    (s.tiles.filter fun p => p.2.parkAsk == why).foldl (fun s p => s.startPark (groupOfTile p.1)) s) s

/-- Stops a context (R276, R286): its STATE, and a STOP park for every tile it runs on; the strand that stopped
it issues nothing more. -/
def State.stopCtx (s : State) (asid st : Nat) (who : Option (Nat × Nat)) : State :=
  let s := s.modCtx asid fun c => { c with st := st, stop := st, stoppers := c.stoppers ++ who.toList }
  { s with tiles := s.tiles.mapVals fun _ t =>
      match t.kernel with
      | some k => if (s.kernAt k).asid = asid then t.askPark 4 false else t
      | none => t }.startParks

/-- The PC a trap reports: the `rep` in a repetition, else that of the issue unit (R84, R286). -/
def Strand.trapPc (st : Strand) : Word := st.upc

/-- The taking of a trap by a strand (R286): EPC, the frame and ECAUSE are written; with a trap
route and ECAUSE.CAUSE zero the strand goes on at the handler, else its context stops. An open
region closes first (R351), and an open packet that the open-packet trap names loses its words. -/
def State.takeTrap (s : State) (tile r : Nat) (c : Cause) (code : Nat) : State :=
  let k := s.kernOf tile
  let st := s.strandAt tile r
  let s0 := s.modTileAt tile fun t => { t with vwait := t.vwait.filter (· != r) }
  let s1 := s0.modStrandAt tile r fun st =>
    { st.closeRegion with
      epc := st.trapPc, epcw := false, ecause := ecauseOf c.code code,
      frameRpt := st.rpt, frameIdx := st.repidx, vreq := none, fence := none, tlbinv := none,
      rpt := false, target := none, hold := 0, stall := none, bkOff := false,
      pkt := if c = .openPacket then none else st.pkt,
      pktStop := if c = .openPacket then none else st.pktStop }
  if k.trt ∧ st.ecause.toNat % 256 = 0 then
    s1.modStrandAt tile r fun st => { st with pc := k.thpc }
  else
    let s2 := s1.modStrandAt tile r fun st => { st with pc := st.upc }
    (s2.stopCtx k.asid 3 (some (tile, r))).postEvent k.asid 2 0 st.wid st.trapPc
      (ecauseOf c.code code)

/-- Whether a strand's started exchange commands have all left the active table (R201). -/
def Tile.drained (t : Tile) (r : Nat) : Bool := t.xact.all fun a => a.cmd.ri != r

/-- LOC of a consumption (R357). -/
def consumeLoc (tile r : Nat) (pc : Word) : Nat :=
  tile * 2 ^ 30 + r % 64 * 2 ^ 14 + pc.toNat % 2 ^ 14

/-- The restart of an open region at its entry PC (R352, first consumption). -/
def Strand.restartRegion (st : Strand) (rg : Region) : Strand :=
  { st.emptyQueues with
    pc := rg.entry, rngs := rg.rngs, rpt := false, repidx := 0, target := none, bkOff := false,
    xq := [], vq := 0, tq := [], mreq := none, hold := 0, stall := none,
    pkt := if rg.pkt = 0 then none
      else st.pkt.map fun p => { p with words := p.words.take (8 * rg.pkt) } }

/-- The instruction is cancelled and the strand's commands not yet started are discarded; the restart
waits for the started ones to drain (R352). -/
def Strand.cancelRegion (st : Strand) (rg : Region) : Strand :=
  { st with
    pc := st.upc, target := none, xq := [], vq := 0, tq := [], mreq := none, hold := 0, stall := none,
    region := some rg }

/-- The restart of an open region, once the strand's started commands have drained (R352, R355): a
consumption is logged then. -/
def State.restart (s : State) (tile r : Nat) (rg : Region) : State :=
  let st := s.strandAt tile r
  let s1 := s.modStrandAt tile r fun st =>
    { st.restartRegion rg with region := some { rg with restart := none } }
  if rg.restart = some true then s1.logErr 3 1 (consumeLoc tile r st.trapPc) else s1

/-- The rollback of an open region (R352): at once where nothing is in flight. A request that waits in the claim
queue is a command not yet started. -/
def State.rollBack (s : State) (tile r : Nat) (rg : Region) : State :=
  let s := s.modTileAt tile fun t => { t with mwait := t.mwait.filter (· != r) }
  if (s.tileAt tile).drained r then s.restart tile r rg
  else s.modStrandAt tile r fun st => st.cancelRegion rg

/-- A consumption of poison (R350, R352): outside a region a trap; inside, the first restarts the
region once the started commands have drained, the second arrives at the tile barrier. -/
def State.consume (s : State) (tile r : Nat) : State :=
  let st := s.strandAt tile r
  match st.region with
  | none => s.takeTrap tile r .poison 0
  | some rg =>
    if rg.count = 0 then s.rollBack tile r { rg with count := 1, restart := some true }
    else
      (s.logErr 4 1 (consumeLoc tile r st.trapPc)).arriveBarrier tile r
        { scp := 1, val := false, code := 0x40 } st.abortPc

/-- The instruction waits at issue: nothing changes but the note of why (R185, R190). -/
def State.stallOn (s : State) (w : Stall) : State :=
  { s.modSt fun st => { st with stall := some w } with ended := .stalled }

/-- Whether a command acts on the claim queue (R147). -/
def TCmd.onClaim (c : TCmd) : Bool :=
  match c.instr with
  | .mclaim _ => true
  | .mrel _ => true
  | _ => false

/-- The registers that a command of the strand has still to write, with the counter a wait for them
counts in: D of a waiting or queued `mclaim` (R147), of a queued `swget` or `ctstat` (R234, R255). -/
def Strand.pendingRegs (st : Strand) : List (BitVec 8 × Option Nat) :=
  (st.mreq.toList.map fun d => (d, some 9)) ++
    (st.tq.filterMap fun c => match c.instr with
      | .mclaim f => some (f.d, some 9)
      | _ => none) ++
    st.xq.filterMap fun c => c.d.map fun d => (d, none)

/-- The wait for `g1` to `g5`, which a record keeps, to be written (R48, R176). -/
def Strand.recordWait (st : Strand) : Option (Option Nat) :=
  (st.pendingRegs.find? fun p => isG p.1 && decide (1 ≤ opIdx p.1 ∧ opIdx p.1 ≤ 5)).map (·.2)

/-- Whether the next consumption of a strand suspends it at the tile barrier (R352). -/
def Strand.consumed (st : Strand) : Bool := (st.region.map fun rg => decide (rg.count ≠ 0)).getD false

/-- What the issuing strand does on a trap of its instruction: a poison trap is a consumption. One that suspends
the strand waits for `g1` to `g5` to be written (R48). -/
def State.raise (s : State) (c : Cause) (code : Nat) : State :=
  if c = .poison ∧ s.st.consumed ∧ s.st.recordWait.isSome then
    s.stallOn { idle := s.st.recordWait.getD none }
  else
  let s1 := if c = .poison then s.consume s.cur s.curRec else s.takeTrap s.cur s.curRec c code
  { s1 with ended := .trapped, trapWas := some (c, code) }

/-- The return of `svc 0` and `tret` (R287): PC := EPC, the repeat comes back from the frame,
ECAUSE := 0 and the breakpoint at EPC is off for one issue. DESIGN CHOICE (log 50): where an `mtsr` has moved EPC off
the `rep`, STATUS.RPT and REPIDX come back all the same, and the next `rep` that issues goes on from that REPIDX. -/
def Strand.trapReturn (st : Strand) : Strand :=
  { st with target := some st.epc, rpt := st.frameRpt, repidx := st.frameIdx,
            frameRpt := false, frameIdx := 0, ecause := 0, bkOff := true, epcw := false }

end Sys2Proof.Machine
end

