-- ==== Sys2Proof/Machine/Resources.lean ====
section
/-! DEFINITION. The registers, queues and special registers that an instruction reads and writes (R48,
R69, R353, R358). -/

namespace Sys2Proof.Machine

/-- Whether a position is read as an operand specifier (R83). -/
def opIsSpec : OpK → Bool
  | .none => false
  | .ctl _ => false
  | _ => true

/-- The number of a special register that an instruction names (R59). -/
def specialNo (f : Fields) : Nat := f.imm.toNat % 4096

/-- Whether field D of an instruction is no destination (a source, an address, nothing). -/
def noDest (i : Instr) : Bool :=
  match i with
  | .st _ | .hst _ | .vst _ | .mst _ | .ast _ | .facc _ | .swset _ | .xget _ | .xput _ | .xcpy _ | .xmc _ | .xld _ | .xst _
  | .xopAdd _ | .xopFadd _ | .xopCas1 _ | .xopCas2 _ | .xopCas4 _ | .xopEnq _ | .xopChase _
  | .xsend _ | .ctarm _ => true
  | _ => false

/-- The registers an instruction writes through D (R354). -/
def destRegs (i : Instr) : List (BitVec 8) :=
  match i with
  | .movi d _ _ => [d]
  | i =>
    match shapeOf i with
    | none => []
    | some (sh, f) =>
      if noDest i then []
      else match sh.d with
        | .geven => [f.d, f.d + 1]
        | .veven => [f.d, f.d + 1]
        | .kpair => [f.d, f.d + 1]
        | .none => []
        | _ => [f.d]

/-- The general registers an instruction reads (R358): `spawn` copies `g1` to `g5` (R179), `pair` all (R353). -/
def readsG (i : Instr) (n : Nat) : Bool :=
  let hit (sp : BitVec 8) : Bool := isG sp && opIdx sp == n
  (i matches .spawn _) && decide (1 ≤ n ∧ n ≤ 5) || i matches .pair _ ||
  match shapeOf i with
  | none => false
  | some (sh, f) =>
    hit f.a && sh.a != .none || hit f.b && sh.b != .none || hit f.c && sh.c != .none && !(sh.c matches .ctl _) ||
      hit f.d && (noDest i || i matches .bfi _ || i matches .loop _ || i matches .amo .cas _)

/-- Whether an instruction reads or writes a general register (R48). -/
def touchesG (i : Instr) (d : BitVec 8) : Bool :=
  isG d && opIdx d != 0 && (readsG i (opIdx d) || (destRegs i).any fun x => x == d)

/-- A specifier as the resource it names: none for `g0`, the constant and a field with no file. -/
def resOf (sp : BitVec 8) : List Nat :=
  if sp = 0 ∨ isZero sp then [] else [sp.toNat]

/-- A special register as a resource. -/
def resSr (n : Nat) : Nat := 256 + n

/-- The specifiers an instruction reads: its sources, D where it is no destination, the predicate. -/
def specReads (i : Instr) : List (BitVec 8) :=
  match shapeOf i with
  | none => []
  | some (sh, f) =>
    (if opIsSpec sh.a then [f.a] else []) ++ (if opIsSpec sh.b then [f.b] else []) ++
      (if opIsSpec sh.c then [f.c] else []) ++
      (if sh.b == .veven then [f.b + 1] else []) ++
      (if noDest i && opIsSpec sh.d then [f.d] else []) ++
      (if sh.pred && (f.prd != 0 || f.neg) then [0x40 + f.prd.zeroExtend 8] else [])

/-- Whether an instruction rounds stochastically, reading and writing RNGS (R30). -/
def usesRngs (i : Instr) : Bool :=
  match shapeOf i, opcodeOf i with
  | some (sh, f), some (maj, _, _) => sh.rnds.getLsbD 4 && f.rnd == 4 && maj.toNat / 16 != 9
  | _, _ => false

/-- Every register of a strand, which `pair` copies (R69, R353): the files `g`, `v`, `k` and `h`, VL and
RNGS. -/
def allRegs : List Nat :=
  (List.range 31).map (1 + ·) ++ (List.range 32).map (0x20 + ·) ++ (List.range 7).map (0x41 + ·) ++
    (List.range 16).map (0xc0 + ·) ++ [resSr 4, resSr 5, resSr 6]

/-- The resources an instruction reads beside its specifiers (R69): what its description names. -/
def implicitReads (i : Instr) : List Nat :=
  (if usesRngs i then [resSr 4] else []) ++
  (match i with
   | .mfsr f => [resSr (specialNo f)]
   | .qadv f => [0xe0 + f.imm.toNat % 8]
   | .spawn _ => [1, 2, 3, 4, 5, resSr 2, resSr 3]
   | .wid _ => [resSr 2, resSr 3]
   | .region _ => [resSr 4]
   | .pair _ => allRegs
   | _ =>
     match opcodeOf i with
     | some (maj, _, _) =>
       if maj.toNat / 16 = 4 ∨ maj.toNat / 16 = 5 then [resSr 5]
       else if maj.toNat / 16 = 7 then [resSr 6] else []
     | none => [])

/-- The reference registers that an instruction heals in place (R323, R325). -/
def healedRegs (i : Instr) : List (BitVec 8) :=
  match i with
  | .hpin f | .hunpin f => [f.a]
  | .hcmp f => [f.a, f.b]
  | _ => []

/-- The resources an instruction writes beside D (R69). -/
def implicitWrites (i : Instr) : List Nat :=
  (if usesRngs i then [resSr 4] else []) ++
  (match i with
   | .mtsr f => [resSr (specialNo f)]
   | .ldq f => [0xe0 + f.c.toNat % 4]
   | .stq f => [0xe4 + f.c.toNat % 2]
   | .qcfg f => [0xe0 + f.imm.toNat % 8]
   | .qadv f => [0xe0 + f.imm.toNat % 8]
   | .xld f => if f.lq then [0xe0 + f.imm.toNat % 4] else []
   | .vclaim _ => [resSr 5]
   | .vyield _ => [resSr 5]
   | .mclaim _ => [resSr 6]
   | .mrel _ => [resSr 6]
   | .vcmp _ _ => [resSr 0]
   | .achk _ => [resSr 0]
   | .kmov _ => [resSr 0]
   | .xsend _ => [resSr 0]
   | .region _ => [resSr 0]
   | .regionClose _ => [resSr 0]
   | .pair _ => [resSr 0]
   | .unpair _ => [resSr 0]
   | i => (healedRegs i).flatMap resOf)

/-- The registers, by resource, that an instruction reads as its operands, D among them where it is read
too (R48). -/
def operandReads (i : Instr) : List Nat :=
  (specReads i ++ (match i with
    | .tlook f | .tlookc f | .aflush f | .mchk f => [f.d]
    | _ => [])).flatMap resOf ++ (match i with
    | .pair _ => allRegs
    | _ => [])

/-- The registers that take results of an instruction (R354): those of D, and B and B + 1 of `achk` (R166). -/
def resultRegs (i : Instr) : List (BitVec 8) :=
  destRegs i ++ (match i with
    | .achk f => [f.b, f.b + 1]
    | _ => [])

/-- The registers, by resource, that an instruction writes as its operands (R48). -/
def operandWrites (i : Instr) : List Nat := (resultRegs i).flatMap resOf

/-- Whether an instruction is one of row 0x7 (R145). -/
def isTable (i : Instr) : Bool :=
  match opcodeOf i with
  | some (maj, _, _) => maj.toNat / 16 == 7
  | none => false

/-- Whether an instruction waits for a queued table command of its strand (R48): it reads a register that the
command is to write, writes one that the command is to read when it starts (`m`, `a` and `tb`; the others are
captured), or, as no table command itself, writes one that the command is to write. -/
def tableHazard (q i : Instr) : Bool :=
  ((operandReads i).any fun r => (operandWrites q).contains r) ||
  ((operandWrites i).any fun r =>
    (decide (3 ≤ r / 32 ∧ r / 32 ≤ 5) && (operandReads q).contains r) ||
      (!isTable i && (operandWrites q).contains r))

/-- Whether an instruction reads or writes STATUS as a special register (R59). -/
def touchesStatus (i : Instr) : Bool :=
  match i with
  | .mfsr f | .mtsr f => specialNo f == 0
  | _ => false

/-- Whether an instruction reads MCLM (R59). -/
def readsMclm (i : Instr) : Bool :=
  match i with
  | .mfsr f => f.imm.toNat == 6
  | _ => false

/-- The resources an instruction reads (R69). -/
def readsRes (i : Instr) : List Nat := (specReads i).flatMap resOf ++ implicitReads i

/-- The resources an instruction writes (R69): a pop changes its queue (R57). -/
def writesRes (i : Instr) : List Nat :=
  (destRegs i).flatMap resOf ++ ((specReads i).filter isLq).flatMap resOf ++ implicitWrites i

end Sys2Proof.Machine
end

