-- ==== Sys2Proof/Machine/Operands.lean ====
section
/-! DEFINITION. Every operand form: sources and the pops of load queues, destinations and the
pushes of store queues, predicates, effective addresses, the checks of local accesses, code targets
(R45, R47, R71, R74, R76, R90, R99, R102, R103, R106). -/

namespace Sys2Proof.Machine

/-- How an instruction ends without its effect: a trap with its code, or a wait at issue. -/
inductive Exit where
  | trap (c : Cause) (code : Nat)
  | stall (w : Stall)
  /-- its engine queue is full: 0 vector, 1 table, 2 exchange (R177) -/
  | full (e : Nat)
  /-- a wait at issue that leaves this state behind (R120) -/
  | hold (s : State) (w : Stall)
  /-- a trap on a memory error that the instruction has met: the error has been handled in this state (R347) -/
  | met (s : State) (c : Cause)
  deriving DecidableEq, Repr

/-- The meaning of an instruction's body. -/
abbrev Body (α : Type) := Except Exit α

/-- Raises a trap with code 0. -/
def trapE {α : Type} (c : Cause) : Body α := .error (.trap c 0)

/-- Waits at issue. -/
def stallE {α : Type} (idle : Option Nat) (unlift : Bool) : Body α :=
  .error (.stall { idle := idle, unlift := unlift })

/-- Raises a trap where the condition holds. -/
def guardT (bad : Bool) (c : Cause) : Body Unit := if bad then trapE c else .ok ()

/-- Raises a trap on local bytes that an instruction has read: the memory errors it met stay handled (R347, R358). -/
def guardMet (s : State) (ea n : Nat) (bad : Bool) (c : Cause) : Body Unit :=
  if bad then .error (.met (s.meetFlips s.cur ea n) c) else .ok ()

/-! ### Load queues (R57, R105) -/

/-- Whether a queue's oldest places are still in flight. -/
def QPlace.inFlight : QPlace → Bool
  | .held _ _ => false
  | _ => true

/-- The places of a load queue. -/
def Strand.lqOf (st : Strand) (n : Nat) : List QPlace := st.lq.val [] n

/-- The depth of a queue: 0 to 3 load queues, 4 and 5 store queues (R62). -/
def Strand.depth (st : Strand) (q : Nat) : Nat := st.dep.val 3 q + 1

/-- The idle counter of a pop that waits: IDLE6 where an `xld` held by a fault will fill the place, else
IDLE7 (R108, R190). -/
def State.popIdle (s : State) (pl : List QPlace) : Option Nat :=
  match pl with
  | .land c :: _ => if (s.tl.xact.any fun a => a.cmd.no == c && a.held.isSome) then some 6 else some 7
  | _ => some 7

/-- Pops the oldest entry of a load queue, or waits (R57, R108). -/
def State.popLq (s : State) (n : Nat) : Body ((Word × Bool) × State) :=
  match s.st.lqOf n with
  | .held v p :: rest => .ok ((v, p), s.modSt fun st => { st with lq := st.lq.put n rest })
  | pl => stallE (s.popIdle pl) pl.isEmpty

/-- Rd of a source that is a general register, a load queue or the constant (R45, R90). -/
def State.rdSrc (s : State) (sp : BitVec 8) : Body ((Word × Bool) × State) :=
  if isG sp then .ok ((s.st.rg (opIdx sp), s.st.rgp (opIdx sp)), s)
  else if isLq sp then s.popLq (opIdx sp)
  else .ok ((0, false), s)

/-- Rd of A (R90). -/
def State.rd1 (s : State) (a : BitVec 8) : Body ((Word × Bool) × State) := s.rdSrc a

/-- Rd of A and B, popping in that order (R90). -/
def State.rd2 (s : State) (a b : BitVec 8) : Body ((Word × Bool) × (Word × Bool) × State) := do
  let (x, s1) ← s.rdSrc a
  let (y, s2) ← s1.rdSrc b
  pure (x, y, s2)

/-- Rd of A, B and C, popping in that order (R90). -/
def State.rd3 (s : State) (a b c : BitVec 8) :
    Body ((Word × Bool) × (Word × Bool) × (Word × Bool) × State) := do
  let (x, s1) ← s.rdSrc a
  let (y, s2) ← s1.rdSrc b
  let (z, s3) ← s2.rdSrc c
  pure (x, y, z, s3)

/-! ### Local stores and store queues (R103, R106) -/

/-- Writes bytes of a strand's local store. A supervisor's store to the wait descriptor of a pool
record is discarded (R175). -/
def State.putLocal (s : State) (ea : Nat) (bs : List Byte) (pois : Bool) : State :=
  if poolBase ≤ ea ∧ 16 ≤ ea % 64 ∧ ea % 64 < 24 then s
  else s.stBytes s.cur ea bs pois

/-- Stores data: a poisoned datum without `.ppass` is the poison trap (R103). -/
def State.storeData (s : State) (ea : Nat) (bs : List Byte) (pois ppass : Bool) : Body State :=
  if pois && !ppass then trapE .poison else .ok (s.putLocal ea bs pois)

/-- Keeps what a drain of a paired slot folds (R354): its address and its data. -/
def Strand.noteDrain (st : Strand) (ea : Nat) (bs : List Byte) : Strand :=
  if st.partner.isSome then { st with stored := st.stored ++ natToBytes 8 ea ++ bs } else st

/-- Drains a value of a store queue to memory (R106): a poisoned one without `.ppass` is the poison trap (R103). A
follower's drain writes nothing (R354). -/
def State.drain (s : State) (ea : Nat) (bs : List Byte) (pois ppass : Bool) : Body State :=
  if pois && !ppass then trapE .poison
  else .ok ((if s.st.folw then s else s.putLocal ea bs pois).modSt fun st => st.noteDrain ea bs)

/-- The pending drains of a store queue. -/
def Strand.drainsOf (st : Strand) (q : Nat) : List Drain := st.drains.val [] q

/-- The entries of a store queue. -/
def Strand.sqOf (st : Strand) (q : Nat) : List (Word × Bool) := st.sq.val [] q

/-- Pushes into a store queue: to its oldest pending drain, else an entry, else wait (R57, R106). -/
def State.pushSq (s : State) (q : Nat) (x : Word) (p : Bool) : Body State :=
  match s.st.drainsOf q with
  | d :: rest => do
    let s1 ← s.drain d.ea (natToBytes d.bytes x.toNat) p d.ppass
    pure (s1.modSt fun st => { st with drains := st.drains.put q rest })
  | [] =>
    if s.st.depth (4 + q) ≤ (s.st.sqOf q).length then stallE (some 7) true
    else .ok (s.modSt fun st => { st with sq := st.sq.put q (st.sqOf q ++ [(x, p)]) })

/-- Writes a scalar destination: a general register, a push, or nothing (R47, R90). -/
def State.wrDst (s : State) (sp : BitVec 8) (x : Word) (p : Bool) : Body State :=
  if isG sp then .ok (s.modSt fun st => st.wg (opIdx sp) x p)
  else if isSq sp then s.pushSq (opIdx sp - 4) x p
  else .ok s

/-- Writes a destination that is a general register or the constant (R47). -/
def State.wrG (s : State) (sp : BitVec 8) (x : Word) (p : Bool) : State :=
  if isG sp then s.modSt fun st => st.wg (opIdx sp) x p else s

/-! ### Predicates (R46, R76) -/

/-- A mask register; `k0` reads all ones (R46). -/
def Strand.rk (st : Strand) (n : Nat) : BitVec 64 :=
  if n = 0 then BitVec.allOnes 64 else st.k.val 0 n

/-- Writes a mask register; a write to `k0` is discarded (R46). -/
def Strand.wk (st : Strand) (n : Nat) (x : BitVec 64) : Strand :=
  if n = 0 then st else { st with k := st.k.put n x }

/-- PRD xor NEG over all lanes (R76). -/
def predMask (f : Fields) (st : Strand) : BitVec 64 :=
  if f.neg then ~~~ st.rk f.prd.toNat else st.rk f.prd.toNat

/-- Whether a guarded instruction takes effect (R76): bit 0. -/
def predOn (f : Fields) (st : Strand) : Bool := (predMask f st).getLsbD 0

/-! ### Addresses (R74, R99, R102) -/

/-- SExt64 of an immediate (R45). -/
def sx (imm : BitVec 32) : Word := imm.signExtend 64

/-- EA := A + B × S + SExt64(IMM), modulo 2^64 (R74, R99). -/
def eaOf (a b : Word) (scale : Nat) (imm : BitVec 32) : Word :=
  a + b * BitVec.ofNat 64 scale + sx imm

/-- The width in bits and the signedness of a scalar FMT code (R75). -/
def fmtW (fmt : BitVec 4) : Nat :=
  match fmt.toNat with
  | 1 => 8 | 2 => 8 | 3 => 16 | 4 => 16 | 5 => 32 | 6 => 32 | _ => 64
def fmtSigned (fmt : BitVec 4) : Bool :=
  match fmt.toNat with
  | 2 => false | 4 => false | 6 => false | 7 => false | _ => true
/-- Bytes of a scalar width. -/
def fmtBytes (fmt : BitVec 4) : Nat := fmtW fmt / 8

/-- Whether a format gives the C form (R51). -/
def cForm (fmt : BitVec 4) : Bool := fmt == 8 || fmt == 9

/-- Bytes of an element in an `m` register or its image (R149). -/
def esOf (fmt : BitVec 4) : Nat :=
  match fmt.toNat with
  | 0 => 4 | 1 => 4 | 2 => 4 | 3 => 2 | 4 => 2 | 10 => 2 | _ => 1

/-- Rows of a register image (R149). -/
def rowsOf (fmt : BitVec 4) : Nat := if cForm fmt then 64 else 16

/-- The address plan of a move: EA, row stride, element bytes, rows. -/
structure MovePlan where
  ea : Nat
  rs : Nat
  es : Nat
  rows : Nat
  deriving DecidableEq, Repr

/-- The plan of a move with its layout word (R149). -/
def movePlan (f : Fields) (a b c : Word) : MovePlan :=
  let rstr := bitsN c.toNat 0 20
  { ea := (eaOf a b (esOf f.fmt) f.imm).toNat,
    rs := if rstr = 0 then 64 * esOf f.fmt else rstr,
    es := esOf f.fmt, rows := rowsOf f.fmt }

/-- The address of an element. -/
def MovePlan.at_ (p : MovePlan) (r c : Nat) : Nat := p.ea + r * p.rs + c * p.es

/-- The elements of the active columns, rows and columns ascending (R144). -/
def MovePlan.elems (p : MovePlan) (mask : BitVec 64) : List (Nat × Nat) :=
  (List.range p.rows).flatMap fun r =>
    ((List.range 64).filter mask.getLsbD).map fun c => (r, c)

/-- The plan of a table command that moves between its register and SRAM (R149). -/
def TCmd.plan? (c : TCmd) : Option MovePlan :=
  match c.instr with
  | .mld f | .mst f | .ald f | .ast f => some (movePlan f c.x.1 c.y.1 c.z.1)
  | _ => none

/-- Whether a local range meets bytes that a table command moves. -/
def TCmd.meets (c : TCmd) (ea n : Nat) : Bool :=
  match c.plan? with
  | none => false
  | some p => (p.elems c.mask).any fun e =>
      decide (p.at_ e.1 e.2 < ea + n) && decide (ea < p.at_ e.1 e.2 + p.es)

/-- The low w bits of a number read in a format and extended to 64 bits (R91). -/
def extendTo (fmt : BitVec 4) (x : Nat) : Word :=
  BitVec.ofInt 64 (intVal (fmtW fmt) (fmtSigned fmt) x)

/-- A local range that fails the range check (R102 steps 2 and 3, R196): the address of each of its units is
checked; an access is one unit, checked by its EA alone. -/
def State.rangeBad (s : State) (ea n : Nat) (unit : Nat := n) : Bool :=
  decide (2 ^ 20 ≤ ea) || decide (2 ^ 20 + unit ≤ ea + n) ||
  (!s.st.sup && decide (poolBase + unit ≤ ea + n)) || s.tl.anyGated ea n

/-- Whether a range meets a pending drain of the strand (R106). -/
def Strand.meetsDrain (st : Strand) (ea n : Nat) : Bool :=
  [0, 1].any fun q => (st.drainsOf q).any fun d =>
    decide (d.ea < ea + n) && decide (ea < d.ea + d.bytes)

/-- Whether a range meets a sync word that a queued `swset` or `swget` has still to reach (R234). -/
def Strand.meetsSw (st : Strand) (ea n : Nat) : Bool :=
  st.xq.any fun c => match c.kind, c.sw with
    | .swset _, some a => decide (a < ea + n) && decide (ea < a + 16)
    | .swget _, some a => decide (a < ea + n) && decide (ea < a + 16)
    | _, _ => false

/-- Whether a command is an operation of the memory agents. -/
def XKind.isXop (k : XKind) : Bool :=
  match k with
  | .xop _ => true
  | _ => false

/-- Whether requests of this kind read at their homes (R239, R243, R246). -/
def XKind.fetches (k : XKind) : Bool :=
  match k with
  | .get | .cpy | .mc | .ld | .ldlq | .xop _ => true
  | _ => false

/-- Whether a command of this kind reads a memory (R220): at its home, or its local source as its requests
leave. -/
def XKind.reads (k : XKind) : Bool :=
  match k with
  | .put | .st => true
  | k => k.fetches

/-- Whether a command of this kind writes at the homes of its destination (R217). -/
def XKind.writes (k : XKind) : Bool :=
  match k with
  | .put | .cpy | .mc | .st | .send => true
  | .xop n => n != 6
  | _ => false

/-- Whether a request has still to be performed at its home. -/
def XReq.coming (r : XReq) : Bool := r.phase == .injected || r.phase == .queued

/-- Whether nothing of a request is under way outside its engine. -/
def XReq.atRest (r : XReq) : Bool := r.phase == .done || r.phase == .buffered

/-- Whether a request has still to read at its home; a lost one reads again (R279). -/
def XReq.unread (r : XReq) (k : XKind) : Bool :=
  r.lost || (r.coming && r.data.isEmpty) || (k.isXop && r.phase == .atPort)

/-- Whether an active command has still to perform a read. -/
def XAct.reading (a : XAct) : Bool :=
  a.cmd.kind.reads &&
    (decide (a.nxt < a.cmd.len) || (a.cmd.kind.fetches && a.reqs.any (·.unread a.cmd.kind)))

/-- Whether a request has still to write at its home. -/
def XReq.unwritten (r : XReq) (k : XKind) : Bool :=
  r.lost || !(r.phase == .written || r.phase == .done || (k.isXop && r.phase == .performed))

/-- Whether an active command has still to perform a write at its destination (R217). -/
def XAct.unwritten (a : XAct) : Bool :=
  a.cmd.kind.writes && (decide (a.nxt < a.cmd.len) || a.reqs.any (·.unwritten a.cmd.kind))

/-- Whether a strand has a drain without its value before a place of its program order (R106). -/
def Strand.drainsBefore (st : Strand) (pos : Nat) : Bool :=
  [0, 1].any fun q => (st.drainsOf q).any fun d => decide (d.pos < pos)

/-- Whether a strand has a local access before a place of its program order that is not yet performed: a drain
without its value, a move in the table queue (R104, R106, R145). -/
def Strand.localLeft (st : Strand) (pos : Nat) : Bool :=
  st.drainsBefore pos || st.tq.any fun c => c.plan?.isSome && decide (c.pos < pos)

/-- Whether an acquiring command of a strand has still to perform its last read (R220). -/
def Tile.acquiring (t : Tile) (r : Nat) : Bool :=
  ((t.strands.val {} r).xq.any fun c => c.acq && c.kind.reads) ||
    t.xact.any fun a => a.cmd.ri == r && a.cmd.acq && a.reading

/-- Whether a strand has a pending drain that a strand spawned later observes and that meets a range (R179). -/
def State.eldersMeet (s : State) (ea n : Nat) : Bool :=
  s.st.elders.any fun e => [0, 1].any fun q => ((s.strandAt s.cur e.1).drainsOf q).any fun d =>
    decide (d.pos < e.2) && decide (d.ea < ea + n) && decide (ea < d.ea + d.bytes)

/-- Whether a range meets a pending drain that precedes the access (R106, R179). -/
def State.meetsDrain (s : State) (ea n : Nat) : Bool := s.st.meetsDrain ea n || s.eldersMeet ea n

/-- The waits of local accesses at ranges of bytes, the first row of R190 that one of them meets: a waking bank
(R196) where `banks` asks for it, a pending drain (R106), a move still in the table queue (R104, R145), a sync word
still to be reached (R234), and where `acq` asks for it an earlier acquire of the strand (R220). DESIGN CHOICE (log 11):
no row names the last two, so they count in no counter. -/
def State.waitsAt (s : State) (banks acq : Bool) (rs : List (Nat × Nat)) : Body Unit :=
  if banks && rs.any fun r => s.tl.anyWaking r.1 r.2 then stallE (some 10) false
  else if rs.any fun r => s.meetsDrain r.1 r.2 then stallE (some 7) true
  else if banks && rs.any fun r => s.st.tq.any fun c => c.meets r.1 r.2 then stallE (some 9) false
  else if rs.any fun r => s.st.meetsSw r.1 r.2 then stallE none false
  else if acq && s.tl.acquiring s.curRec then stallE none false
  else .ok ()

/-- The waits of a local access (R104, R106, R190, R196, R220, R234). -/
def State.localWait (s : State) (ea n : Nat) : Body Unit := s.waitsAt true true [(ea, n)]

/-- The checks of a local access of n bytes (R102); one that is longer than its alignment is checked byte by
byte. -/
def State.addrCheck (s : State) (ea : Word) (n align : Nat) (pois : Bool) : Body Unit := do
  guardT pois .poison
  guardT (s.rangeBad ea.toNat n (if n = align then n else 1)) .localRange
  guardT (ea.toNat % align != 0) .alignment

/-- The checks of a local access of n bytes (R102), then its waits. -/
def State.localCheck (s : State) (ea : Word) (n align : Nat) (pois : Bool) : Body Unit := do
  s.addrCheck ea n align pois
  s.localWait ea.toNat n

/-- The checks of a local access that stores data (R115): those of its address, the poison of the data, then
its waits. -/
def State.storeCheck (s : State) (ea : Word) (n : Nat) (pois dpois ppass : Bool) : Body Unit := do
  s.addrCheck ea n n pois
  guardT (dpois && !ppass) .poison
  s.localWait ea.toNat n

/-! ### Code targets (R66, R68, R71) -/

/-- The line word of a line in a tile's instruction store (R66). -/
def State.lineWord (s : State) (tile line : Nat) : BitVec 32 :=
  BitVec.ofNat 32 (rdNat s.mem (codeKey tile (64 * line)) 4)

/-- TPL, BKP and TGT of a line word (R66). -/
def lwTpl (w : BitVec 32) : Nat := bitsN w.toNat 20 4
def lwBkp (w : BitVec 32) (slot : Nat) : Bool := w.getLsbD (15 + slot)
def lwTgt (w : BitVec 32) (slot : Nat) : Bool := w.getLsbD (10 + slot)

/-- Whether slots (i, i + 1) are a pair of a template (R68). -/
def pairAt (tpl i : Nat) : Bool :=
  match tpl with
  | 1 => i == 0
  | 2 => i == 1
  | 3 => i == 2
  | 4 => i == 3
  | 5 => i == 0 || i == 2
  | 6 => i == 0 || i == 3
  | 7 => i == 1 || i == 3
  | _ => false

/-- Whether a slot is the higher slot of a pair. -/
def highOfPair (tpl i : Nat) : Bool := decide (0 < i) && pairAt tpl (i - 1)

/-- Whether a transfer to a PC is refused by R71. -/
def State.targetBad (s : State) (tile : Nat) (pc : Word) : Bool :=
  !pcForm pc ||
  (let w := s.lineWord tile (pcLine pc)
   !lwTgt w (pcSlot pc) || highOfPair (lwTpl w) (pcSlot pc))

/-- The S-format target: LINE displaced by IMM[31:3], SLOT from IMM[2:0]; a LINE that no PC can hold
gives a PC that R71 refuses (R74). -/
def State.sTarget (s : State) (imm : BitVec 32) : Word :=
  let line : Int := (pcLine s.st.upc : Int) + sextN 29 (imm.toNat / 8)
  if 0 ≤ line ∧ line < 2048 then mkPc line.toNat (imm.toNat % 8) else BitVec.allOnes 64

/-- Transfers control after the issue unit, checked by R71. -/
def State.transfer (s : State) (pc : Word) : Body State :=
  if s.targetBad s.cur pc then trapE .target
  else .ok (s.modSt fun st => { st with target := some pc })

/-! ### Vector registers -/

/-- A vector register. -/
def Strand.rv (st : Strand) (n : Nat) : VReg := st.v.val {} n

/-- Writes a vector register. -/
def Strand.wv (st : Strand) (n : Nat) (x : VReg) : Strand := { st with v := st.v.put n x }

/-- A reference register. -/
def Strand.rh (st : Strand) (n : Nat) : HReg := st.h.val {} n

/-- Writes a reference register. -/
def Strand.wh (st : Strand) (n : Nat) (x : HReg) : Strand := { st with h := st.h.put n x }

end Sys2Proof.Machine
end

