-- ==== Sys2Proof/Machine/Flags.lean ====
section
/-! DEFINITION. The conditions of compares, the status and queue words, and every special register
as it reads and as it is written (R59 to R62, R79, R95, R264, R275, R286, R355, R358). -/

namespace Sys2Proof.Machine

/-- Whether a condition holds between the low w bits of two words (R95). -/
def condHolds (c : Cond) (w : Nat) (x y : Nat) : Bool :=
  let a := x % 2 ^ w
  let b := y % 2 ^ w
  match c with
  | .eq => a == b
  | .ne => a != b
  | .lt => decide (sextN w a < sextN w b)
  | .le => decide (sextN w a ≤ sextN w b)
  | .gt => decide (sextN w b < sextN w a)
  | .ge => decide (sextN w b ≤ sextN w a)
  | .ltu => decide (a < b)
  | .leu => decide (a ≤ b)
  | .gtu => decide (b < a)
  | .geu => decide (b ≤ a)

/-- STATUS (R60). -/
def Strand.status (st : Strand) : Word :=
  BitVec.ofNat 64 (st.acode.toNat * 2 ^ 16 + st.slot.getD 0 % 8 * 2 ^ 13 + b2n st.psn * 128 +
    b2n st.region.isSome * 64 + b2n st.partner.isSome * 32 + b2n st.folw * 16 + b2n st.rpt * 8 +
    b2n st.pkt.isSome * 4 + b2n st.sup * 2)

/-- Entries a queue holds (R62): 0 to 3 load queues, 4 and 5 store queues. -/
def Strand.cnt (st : Strand) (q : Nat) : Nat :=
  if q < 4 then ((st.lqOf q).filter fun p => !p.inFlight).length else (st.sqOf (q - 4)).length

/-- QST (R62). -/
def Strand.qst (st : Strand) : Word :=
  BitVec.ofNat 64 ((List.range 6).foldl
    (fun acc q => acc + (st.cnt q * 16 + st.dep.val 3 q) * 2 ^ (9 * q)) 0)

/-- MCLM (R59). -/
def Strand.mclm (st : Strand) : Word :=
  match st.claim with
  | some c => BitVec.ofNat 64 (c * 2 + 1)
  | none => 0

/-- FPRINT (R355): CRC reads 0 while unpaired. -/
def Strand.fprint (st : Strand) : Word :=
  if st.partner.isSome then
    BitVec.ofNat 64 (b2n st.mis * 2 ^ 42 + st.retired % 1024 * 2 ^ 32 + st.crc.toNat)
  else BitVec.ofNat 64 (b2n st.mis * 2 ^ 42)

/-- A special register as `mfsr` reads it (R59). -/
def State.rdSpecial (s : State) (n : Nat) : Word :=
  let st := s.st
  let t := s.tl
  if n = 0 then st.status
  else if n = 1 then BitVec.ofNat 64 st.repidx
  else if n = 2 then st.widw
  else if n = 3 then st.wid
  else if n = 4 then st.rngs.zeroExtend 64
  else if n = 5 then BitVec.ofNat 64 st.vl
  else if n = 6 then st.mclm
  else if n = 7 then st.qst
  else if n = 8 then st.epc
  else if n = 9 then st.ecause
  else if 0x10 ≤ n ∧ n ≤ 0x15 then (t.ssc.val 0 (n - 0x10)).zeroExtend 64
  else if n = 0x20 then t.parkt
  else if n = 0x21 then t.errinj
  else if n = 0x22 then st.fprint
  else if 0x30 ≤ n ∧ n ≤ 0x3b then t.idle.val 0 (n - 0x30)
  else 0

/-- Whether a tenant `mtsr` may write a special register (R59). -/
def tenantWrites (n : Nat) : Bool := n == 0 || n == 4 || n == 8

/-- The reserved bits of a special register (R11, R59 to R62, R275, R286, R355). -/
def specialReserved (n : Nat) : Word :=
  if n = 0 then 0xffffffffff001f01
  else if n = 1 then 0xffffffffffffffc0
  else if n = 2 then 0xfffffc0000000000
  else if n = 4 then 0xffffffff00000000
  else if n = 5 then 0xffffffffffffff80
  else if n = 6 then 0xfffffffffffffff8
  else if n = 7 then 0xffc0000000000000
  else if n = 9 then 0xffff0000ffffff00
  else if 0x10 ≤ n ∧ n ≤ 0x15 then 0xffffffff00000000
  else if n = 0x20 then 0xfffffffe00000000
  else if n = 0x22 then 0xfffff80000000000
  else 0

/-! ### Error injection (R264, R265, R358) -/

/-- The fields of ERRINJ. -/
def errTgt (x : Word) : Nat := bitsN x.toNat 60 4
def errArm (x : Word) : Bool := x.getLsbD 0

/-- Whether a written ERRINJ value carries a reserved value or bit (R264, R358). -/
def errinjBad (x : Word) : Bool :=
  match errTgt x with
  | 0 => bitsN x.toNat 2 58 != 0
  | 1 => decide (72 ≤ bitsN x.toNat 36 7) || bitsN x.toNat 2 33 != 0
  | 2 => bitsN x.toNat 2 43 != 0
  | 3 => bitsN x.toNat 54 6 != 0 || bitsN x.toNat 2 33 != 0
  | 4 => bitsN x.toNat 2 55 != 0
  | 5 => bitsN x.toNat 58 2 == 3 || bitsN x.toNat 2 56 != 0
  | _ => true

/-- ERRINJ after a write that leaves the action to come: the written fields, DONE cleared by a
written 1 (R10, R264). -/
def errinjStore (old x : Word) : Word :=
  setBits x 1 1 (b2n (old.getLsbD 1 && !x.getLsbD 1))

/-- ERRINJ with ARM 0 and DONE 1: the armed injection has been applied. -/
def errinjApplied (x : Word) : Word := setBits (setBits x 0 1 0) 1 1 1

/-- ERRINJ with ARM 0: the armed injection is abandoned or disarmed, DONE unchanged. -/
def errinjDropped (x : Word) : Word := setBits x 0 1 0

/-- The bits of a code word that an injection of form 1 inverts (R358). -/
def flipMask (bit : Nat) (dbl : Bool) : BitVec 72 :=
  (1#72 <<< bit) ||| (if dbl then 1#72 <<< ((bit + 1) % 72) else 0#72)

/-- Inverts bits of the code word of a granule (R358 form 1): a bit inverted twice is as it was. -/
def Tile.flip (t : Tile) (off : Nat) (m : BitVec 72) : Tile :=
  let old : BitVec 72 := ((t.flips.find? fun f => f.1 == off).map (·.2)).getD 0
  let rest := t.flips.filter fun f => f.1 != off
  { t with flips := if old ^^^ m = 0 then rest else rest ++ [(off, old ^^^ m)] }

/-- Writes ERRINJ (R358): form 1 applies at once; the others stay armed. -/
def State.putErrinj (s : State) (tile : Nat) (x : Word) : State :=
  let y := errinjStore (s.tileAt tile).errinj x
  if !errArm x then s.modTileAt tile fun t => { t with errinj := y }
  else
    match errTgt x with
    | 0 => s.modTileAt tile fun t => { t with errinj := errinjDropped y }
    | 1 => s.modTileAt tile fun t =>
        { t.flip (bitsN x.toNat 43 17 * 8) (flipMask (bitsN x.toNat 36 7) (x.getLsbD 35)) with
          errinj := errinjApplied y }
    | _ => s.modTileAt tile fun t => { t with errinj := y }

/-! ### Writes of special registers (R10, R11, R59) -/

/-- Whether the value of an `mtsr` breaks the register's map (R11, R59, R358). -/
def specialBad (n : Nat) (x : Word) : Bool :=
  x &&& specialReserved n != 0 || (n == 8 && !pcForm x) || (n == 0x21 && errinjBad x)

/-- The effect of an accepted `mtsr` (R59): `ro` fields keep their values (R10). -/
def State.wrSpecial (s : State) (n : Nat) (x : Word) : State :=
  if n = 0 then s.modSt fun st => { st with psn := st.psn && !x.getLsbD 7 }
  else if n = 4 then s.modSt fun st => { st with rngs := rngsFix (x.truncate 32) }
  else if n = 8 then s.modSt fun st => { st with epc := x, epcw := true }
  else if n = 9 then s.modSt fun st => { st with ecause := x }
  else if n = 0x20 then s.modTl fun t => { t with parkt := x, parkCnt := 0 }
  else if n = 0x21 then s.putErrinj s.cur x
  else if 0x30 ≤ n ∧ n ≤ 0x3b then
    s.modTl fun t => { t with idle := t.idle.put (n - 0x30) x }
  else s

end Sys2Proof.Machine
end

