-- ==== Sys2Proof/Machine/Issue.lean ====
section
/-! DEFINITION. What surrounds every strand instruction: its checks at decode, its end (retired,
trapped, waiting or suspended), the fall-through rule, register injection and pairing (R15, R65,
R76, R81, R177, R353 to R355, R358). -/

namespace Sys2Proof.Machine

/-- The trap of a decode error (R80, R81). -/
def causeOf : DecodeErr → Cause
  | .undefined => .undefinedInstr
  | .reservedField => .reservedField
  | .operandClass => .operandClass

/-! ### Ends of an instruction -/

/-- Retires the instruction: the PC takes the transfer, else the next slot. A strand that has left
its slot keeps the PC of its record. -/
def State.retire (s : State) : State :=
  if s.st.slot.isNone || s.st.leaving then { s with ended := .suspended }
  else
    { s.modSt fun st =>
        { st with pc := st.target.getD st.npc, target := none, hold := 0, stall := none } with
      ended := .done }

/-- The instruction has had its first effect and waits for the rest (R120, R211, R304, R355). -/
def State.holdOn (s : State) (w : Stall) : State :=
  { s.modSt fun st => { st with stall := some w } with ended := .held }

/-- Whether a full engine queue is a suspension point (R177): under the kernel's flag, outside repeats and
packets. The record that a suspension writes waits for `g1` to `g5` (R48). -/
def State.fullSuspends (s : State) : Bool :=
  s.kern.qsf && !s.st.rpt && s.st.pkt.isNone && s.st.recordWait.isNone

/-- An engine queue found full (R177): a suspension of the strand, or a wait in its slot. -/
def State.fullOn (s : State) (e : Nat) : State :=
  if s.fullSuspends then { s.suspendAt s.cur s.curRec 5 e 0 0 s.st.upc with ended := .suspended }
  else s.stallOn { idle := some 7 }

/-- Enters the vector queue (R186): the command's token, popped when the engine starts it. -/
def State.enterVq (s : State) : Body State :=
  if 2 ≤ s.st.vq then .error (.full 0) else .ok (s.modSt fun st => { st with vq := st.vq + 1 })

/-- Enters the table queue (R145). -/
def State.enterT (s : State) (c : TCmd) : Body State :=
  if 2 ≤ s.st.tq.length then .error (.full 1)
  else .ok (s.modSt fun st => { st with tq := st.tq ++ [{ c with pos := st.pos }], pos := st.pos + 1 })
/-- The word of a slot of a line in a tile's instruction store (R64). -/
def State.slotWord (s : State) (tile line slot : Nat) : BitVec 96 :=
  BitVec.ofNat 96 (rdNat s.mem (codeKey tile (64 * line + 4 + 12 * slot)) 12)

/-- Whether the issue unit covers two slots: a pair, or a `rep` with its target (R70, R83). -/
def Strand.twoSlots (st : Strand) : Bool := st.npc == pcNext (pcNext st.upc)

/-- Whether the unit is a repetition: the repeat is on and the PC names a `rep` (R84). -/
def State.inRepeat (s : State) : Bool :=
  s.st.rpt && (match decodeOpcode (s.slotWord s.cur (pcLine s.st.upc) (pcSlot s.st.upc)) with
    | some (.rep _) => true
    | _ => false)

/-- Whether an instruction that issues singly, or ends a repeat, would fall through the end of the store
(R65). A pair is checked as a whole when both halves are done. DESIGN CHOICE (log 30): of a repeat whose target is
slot 4 of line 2,047 only the last repetition would fall through, so it alone traps and the earlier ones stand. -/
def State.runsOff (s s' : State) : Bool :=
  !pcForm s.st.npc && s'.st.target.isNone && !s'.st.exiting && s'.st.kind != 0 &&
    (!s.st.twoSlots || s.inRepeat)

/-! ### Fingerprints and pairs (R353 to R355) -/

/-- One bit of the reflected CRC-32C (R354). -/
def crcBit (c : BitVec 32) : BitVec 32 :=
  if c.getLsbD 0 then (c >>> 1) ^^^ 0x82f63b78 else c >>> 1

/-- Folds a byte into a fingerprint. -/
def crcByte (c : BitVec 32) (b : Byte) : BitVec 32 :=
  crcBit (crcBit (crcBit (crcBit (crcBit (crcBit (crcBit (crcBit (c ^^^ b.zeroExtend 32))))))))

/-- Folds bytes. -/
def crcBytes (c : BitVec 32) (bs : List Byte) : BitVec 32 := bs.foldl crcByte c

/-- A fingerprint at its start. -/
def crcStart : BitVec 32 := 0xffffffff

/-- The instructions that a follower skips: their effects outside the slot only the leader makes (R354). A follower
runs `stq` for its queue, and its drains write nothing (`State.drain`). -/
def followerSkips (i : Instr) : Bool :=
  match i with
  | .st _ | .vst _ | .hst _ | .amo _ _ | .facc _ | .fcrd _ | .spawn _ | .sync _ _
  | .wait _ | .yield _ | .exit _ | .fence _ | .ssr _ | .svc _ | .svcReturn _ | .tret _ | .park _
  | .klaunch _ | .halt _ | .tlbinvPage _ | .tlbinvCtx _ | .tlbinvAll _ | .tlbprobe _ | .fltrd _
  | .fltrep _ | .migr _ | .hpin _ | .hunpin _ | .hcmp _ | .hobjAlloc _ | .hobjFree _ | .hobjInfo _
  | .hobjMove _ | .hobjCompact _ | .hobjFlip _ | .regionClose _ | .pair _ | .unpair _
  | .xget _ | .xput _ | .xcpy _ | .xmc _ | .xld _ | .xst _ | .xopAdd _ | .xopFadd _ | .xopCas1 _
  | .xopCas2 _ | .xopCas4 _ | .xopEnq _ | .xopChase _ | .xsend _ | .swset _ | .swget _ | .ctready _
  | .ctarm _ | .ctstat _ | .mclaim _ | .mrel _ | .mld _ | .mst _ | .tbuild _ | .tbuildc _ | .tlook _
  | .tlookc _ | .tdrop _ | .azero _ | .ald _ | .ast _ | .aflush _ | .aput _ | .mchk _ | .achk _
  | .vclaim _ | .vyield _ | .pwlset _ => true
  | .mfsr f | .mtsr f => decide (0x10 ≤ f.imm.toNat)
  | _ => false

/-- The events that end a pair after a compare (R355). -/
def endsPair (i : Instr) : Bool :=
  match i with
  | .wait _ | .sync _ _ | .yield _ | .exit _ | .park _ | .unpair _ => true
  | _ => false

/-- The bytes a retired result folds: the register's value and poison (R354). -/
def Strand.foldReg (st : Strand) (act : BitVec 64) (sp : BitVec 8) : List Byte :=
  let n := opIdx sp
  if isG sp then natToBytes 8 (st.rg n).toNat ++ natToBytes 1 (b2n (st.rgp n))
  else if isH sp then natToBytes 8 (st.rh n).val.toNat ++ natToBytes 1 (b2n (st.rh n).poi)
  else if isK sp then natToBytes 8 (st.rk n).toNat
  else if isV sp then
    let x := st.rv n
    let ls := (List.range 64).filter fun i => act.getLsbD i && decide (i < st.vl)
    ls.flatMap (fun i => natToBytes 4 (bitsN x.lanes.toNat (32 * i) 32)) ++
      ls.flatMap (fun i => natToBytes 1 (b2n (x.pois.getLsbD i)))
  else []

/-- Whether an instruction is guarded as a whole (R76): all but those that act on lanes or elements. -/
def guardedWhole (i : Instr) : Bool :=
  match i with
  | .vclaim _ | .vyield _ | .pwlset _ => true
  | i =>
    match opcodeOf i with
    | some (maj, _, _) => decide (maj.toNat / 16 < 4 ∨ 7 < maj.toNat / 16)
    | none => true

/-- Whether a guarded instruction is off: it folds nothing (R76, R354). -/
def offPred (i : Instr) (st : Strand) : Bool :=
  match shapeOf i with
  | some (sh, f) => sh.pred && guardedWhole i && !predOn f st
  | none => false

/-- The lanes that take effect, for the fold of a `v` result. -/
def activeLanes (i : Instr) (st : Strand) : BitVec 64 :=
  match shapeOf i with
  | some (_, f) => predMask f st
  | none => BitVec.allOnes 64

/-- What a `vst` folds (R354): its address and the data of its active lanes; with an index register the address of
each lane too. -/
def Strand.foldLanes (st : Strand) (f : Fields) : List Byte :=
  let ea := eaOf (st.rg (opIdx f.a)) (st.rg (opIdx f.b)) 4 f.imm
  let ls := (List.range 64).filter fun i => (predMask f st).getLsbD i && decide (i < st.vl)
  let lane (n i : Nat) : Nat := bitsN (st.rv n).lanes.toNat (32 * i) 32
  natToBytes 8 ea.toNat ++ ls.flatMap fun i =>
    (if f.c = 0 then [] else natToBytes 8 (ea + BitVec.ofNat 64 (lane (opIdx f.c) i)).toNat) ++
      natToBytes 4 (lane (opIdx f.d) i)

/-- What an instruction folds besides its results (R354): a store's address and data, an engine
command's source registers in the order D, A, B, C; read before the instruction. -/
def Strand.foldIn (st : Strand) (i : Instr) : List Byte :=
  match i with
  | .st f => natToBytes 8 (eaOf (st.rg (opIdx f.a)) (st.rg (opIdx f.b)) (fmtBytes f.fmt) f.imm).toNat
      ++ natToBytes (fmtBytes f.fmt) (st.rg (opIdx f.d)).toNat
  | .hst f => natToBytes 8 (eaOf (st.rg (opIdx f.a)) (st.rg (opIdx f.b)) 8 f.imm).toNat
      ++ natToBytes 8 (st.rh (opIdx f.d)).val.toNat
  | .vst f => st.foldLanes f
  | i =>
    if isClassE i && followerSkips i then
      match shapeOf i with
      | some (sh, f) =>
        ([(sh.d, f.d), (sh.a, f.a), (sh.b, f.b), (sh.c, f.c)].filter fun p =>
          p.1 != .none && isG p.2 && !((destRegs i).contains p.2 && p.1 == sh.d && p.2 == f.d)).flatMap fun p =>
            natToBytes 8 (st.rg (opIdx p.2)).toNat
      | none => []
    else []

/-- The destination that an instruction's command has still to write. -/
def Strand.awaited (st : Strand) (i : Instr) : Option (BitVec 8) :=
  match i with
  | .mchk f | .achk f => some f.d
  | i => (destRegs i).find? fun sp => isG sp && opIdx sp != 0 && st.pendingRegs.any fun p => p.1 == sp

/-- What a leader forwards of an instruction its follower skips (R354). -/
def Strand.forward (st : Strand) (i : Instr) : Fwd :=
  let ds := resultRegs i
  { g := (ds.filter isG).map fun sp => (opIdx sp, st.rg (opIdx sp), st.rgp (opIdx sp)),
    v := (ds.filter isV).map fun sp => (opIdx sp, st.rv (opIdx sp)),
    k := (ds.filter isK).map fun sp => (opIdx sp, st.rk (opIdx sp)),
    h := ((ds ++ healedRegs i).filter isH).map fun sp => (opIdx sp, st.rh (opIdx sp)),
    vl := st.vl, claim := st.claim, pkt := st.pkt,
    place := match i with
      | .xld f => if f.lq then (st.lqOf (f.imm.toNat % 4)).getLast?.map fun x => (f.imm.toNat % 4, x) else none
      | _ => none,
    await := st.awaited i }

/-- A follower takes what was forwarded. -/
def Strand.takeFwd (st : Strand) (i : Instr) (w : Fwd) : Strand :=
  let st := w.g.foldl (fun st x => st.wg x.1 x.2.1 x.2.2) st
  let st := w.v.foldl (fun st x => st.wv x.1 x.2) st
  let st := w.k.foldl (fun st x => st.wk x.1 x.2) st
  let st := w.h.foldl (fun st x => st.wh x.1 x.2) st
  let st := match w.place with
    | some (q, x) => { st with lq := st.lq.put q (st.lqOf q ++ [x]) }
    | none => st
  match i with
  | .vclaim _ | .vyield _ => { st with vl := w.vl }
  | .mclaim _ | .mrel _ => { st with claim := w.claim }
  | .xsend _ => { st with pkt := w.pkt }
  | _ => st

/-- Folds the bytes at the head of a list that are known, up to one that awaits a value. -/
def foldKnown (c : BitVec 32) : List (Option (BitVec 8) × List Byte) →
    BitVec 32 × List (Option (BitVec 8) × List Byte)
  | (none, bs) :: t => foldKnown (crcBytes c bs) t
  | l => (c, l)

/-- Folds a result in program order (R354): behind one that awaits its value it waits. -/
def Strand.fold (st : Strand) (aw : Option (BitVec 8)) (bs : List Byte) : Strand :=
  let x := foldKnown st.crc (st.foldQ ++ [(aw, bs)])
  { st with crc := x.1, foldQ := x.2 }

/-- Changes the first element of a list that a test accepts. -/
def mapFirst {α : Type} (p : α → Bool) (f : α → α) : List α → List α
  | [] => []
  | x :: t => if p x then f x :: t else x :: mapFirst p f t

/-- Results that a command writes late complete the fold that awaits them (R354). -/
def Strand.foldLate (st : Strand) (d : BitVec 8) (bs : List Byte) : Strand :=
  let y := foldKnown st.crc (mapFirst (fun e => e.1 == some d) (fun e => (none, e.2 ++ bs)) st.foldQ)
  { st with crc := y.1, foldQ := y.2 }

/-- What is forwarded to a follower takes the late results (R354). -/
def Strand.fillFwd (st : Strand) (d : BitVec 8) (w : Fwd) : Strand :=
  { st with fwd := mapFirst (fun w => w.await == some d) (fun _ => w) st.fwd }

/-- A command of an instruction has written its results late (R354): they complete the leader's fingerprint and what it
has forwarded. -/
def Tile.lateOf (t : Tile) (r : Nat) (i : Instr) (d : BitVec 8) : Tile :=
  let st := t.strands.val {} r
  match st.partner with
  | some q =>
    (t.modStrand r fun st => st.foldLate d
        ((resultRegs i).flatMap fun sp => st.foldReg (BitVec.allOnes 64) sp)).modStrand q fun x =>
      x.fillFwd d { st.forward i with await := none }
  | none => t

/-- A command writes its general register late (R48): in the strand, its fingerprint, and what a leader has forwarded
(R354). A destination that is no general register takes nothing. -/
def Tile.lateG (t : Tile) (r : Nat) (d : BitVec 8) (x : Word) (p : Bool) : Tile :=
  if !isG d then t
  else
    let t1 := t.modStrand r fun st => (st.wg (opIdx d) x p).foldLate d (natToBytes 8 x.toNat ++ natToBytes 1 (b2n p))
    match (t1.strands.val {} r).partner with
    | some q => t1.modStrand q fun st =>
        st.fillFwd d { g := [(opIdx d, x, p)], vl := st.vl, claim := (t1.strands.val {} r).claim }
    | none => t1

/-- The places that a command has in the load queues, of its strand and of its follower (R105, R354). -/
def Tile.mapPlaces (t : Tile) (r : Nat) (f : List QPlace → List QPlace) : Tile :=
  let go (st : Strand) : Strand := { st with lq := st.lq.mapVals fun _ q => f q }
  let t1 := t.modStrand r go
  match (t1.strands.val {} r).partner with
  | some q => t1.modStrand q fun st =>
      { go st with fwd := st.fwd.map fun w =>
          { w with place := w.place.bind fun x => (f [x.2]).head?.map fun y => (x.1, y) } }
  | none => t1

/-- Restarts a fingerprint after a compare that agrees. -/
def Strand.restartPrint (st : Strand) : Strand := { st with crc := crcStart, retired := 0, foldQ := [] }

/-- Folds the results of the instruction that the issuing strand has just done (R354); the armed
fingerprint injection inverts a bit of the follower's next fold (R358). -/
def State.foldResult (before s : State) (i : Instr) : State :=
  if offPred i before.st then s
  else
    let aw := if s.st.folw then none else s.st.awaited i
    let bytes := before.st.foldIn i ++ s.st.stored ++
      (if aw.isSome then [] else (resultRegs i).flatMap fun sp => s.st.foldReg (activeLanes i before.st) sp)
    let inj := s.st.folw && errTgt s.tl.errinj == 4 && errArm s.tl.errinj &&
      bitsN s.tl.errinj.toNat 57 3 == s.st.slot.getD 8
    let s1 := s.modSt fun st =>
      let st := { st with stored := [] }.fold aw bytes
      { st with crc := st.crc ^^^ (if inj then 1 else 0), retired := st.retired + 1, ptrap := none }
    if inj then s1.modTl fun t => { t with errinj := errinjApplied t.errinj } else s1

/-- Ends the pair of a leader (R355): the follower's slot is freed. -/
def State.endPair (s : State) (tile r : Nat) : State :=
  match (s.strandAt tile r).partner with
  | none => s
  | some p =>
    (s.modTileAt tile fun t => { t with strands := t.strands.del p }).modStrandAt tile r fun st =>
      { st with partner := none, folw := false, crc := 0, retired := 0, fwd := [], foldQ := [], stored := [],
                ptrap := none }

/-- What a follower keeps of its own when it takes the leader's registers (R353, R355). -/
def Strand.asFollower (l : Strand) (r slot : Nat) : Strand :=
  { l with slot := some slot, partner := some r, folw := true, crc := crcStart, retired := 0,
           fwd := [], foldQ := [], ptrap := none, arrival := none, xq := [], vq := 0, tq := [], mreq := none,
           region := l.region.map fun rg => { rg with restart := rg.restart.map fun _ => false },
           stall := none }

/-- Both slots of a pair roll back to the entry of their region, the follower's registers copied from the leader's
and both fingerprints started again (R352, R355). -/
def State.rollPair (s : State) (tile r p : Nat) (rg : Region) : State :=
  let slot := (s.strandAt tile p).slot.getD 0
  let s := (s.rollBack tile r rg).modStrandAt tile r Strand.restartPrint
  s.modTileAt tile fun t =>
    { t with strands := t.strands.put p ((t.strands.val {} r).asFollower r slot) }

/-- A mismatch of a pair (R355), found at a compare of the leader: both slots roll back to the entry
of a region that has had none, else the pair ends and the leader arrives with code 0x48. -/
def State.pairMismatch (s : State) (tile r : Nat) : State :=
  let st := s.strandAt tile r
  match st.partner with
  | none => s
  | some p =>
    let s := s.logErr 5 8 (locTile tile (pcLine st.upc))
    let s := s.modStrandAt tile r fun st => { st with mis := true, ptrap := none }
    match st.region with
    | some rg =>
      if rg.mism then
        ((s.endPair tile r).modStrandAt tile r fun st => { st with mis := true }).arriveBarrier
          tile r { scp := 1, val := false, code := 0x48 } st.abortPc
      else s.rollPair tile r p { rg with mism := true, restart := some false }
    | none =>
      ((s.endPair tile r).modStrandAt tile r fun st => { st with mis := true }).arriveBarrier
        tile r { scp := 1, val := false, code := 0x48 } st.abortPc

/-- The compare of a pair at a point both slots have reached (R354): agreement restarts both
fingerprints. -/
def State.pairCompareAt (s : State) (tile r : Nat) : State :=
  let st := s.strandAt tile r
  match st.partner with
  | none => s
  | some p =>
    let q := s.strandAt tile p
    if st.crc = q.crc ∧ st.retired = q.retired then
      (s.modStrandAt tile r Strand.restartPrint).modStrandAt tile p Strand.restartPrint
    else s.pairMismatch tile r

/-- Whether the compare of a pair would agree. -/
def State.pairAgrees (s : State) (tile r : Nat) : Bool :=
  let st := s.strandAt tile r
  match st.partner with
  | none => true
  | some p =>
    let q := s.strandAt tile p
    st.crc == q.crc && st.retired == q.retired

/-- Whether the follower of a leader has come as far as the leader. -/
def State.followerHere (s : State) (tile r : Nat) : Bool :=
  let st := s.strandAt tile r
  match st.partner with
  | none => true
  | some p =>
    let q := s.strandAt tile p
    q.retired == st.retired && q.fwd.isEmpty && st.foldQ.isEmpty

/-- The wait of a mismatch that would suspend the leader, for the registers that its record keeps (R48, R355). -/
def State.mismatchWait (s : State) (tile r : Nat) : Option (Option Nat) :=
  let st := s.strandAt tile r
  if (st.region.map fun rg => !rg.mism).getD false then none else st.recordWait

/-- A mismatch found by the issuing slot of a leader's pair. -/
def State.mismatchNow (s : State) (lead : Nat) : State :=
  match s.mismatchWait s.cur lead with
  | some w => s.stallOn { idle := w }
  | none => { s.pairMismatch s.cur lead with ended := .trapped }

/-- Both slots of a pair have reached a trap (R355): it is no mismatch, and after the compare the pair ends and the
leader takes it. DESIGN CHOICE (log 16): a first consumption in a region is no trap but a rollback (R352), so it rolls
both slots back after the compare and leaves them paired. -/
def State.trapBoth (s : State) (lead : Nat) (c : Cause) (code : Nat) : State :=
  let l := s.strandAt s.cur lead
  if !l.foldQ.isEmpty then s.stallOn {}
  else if !s.pairAgrees s.cur lead then s.mismatchNow lead
  else
    match l.partner, l.region.filter fun rg => c == .poison && rg.count == 0 with
    | some p, some rg =>
      { s.rollPair s.cur lead p { rg with count := 1, restart := some true } with ended := .trapped }
    | _, _ =>
      if c = .poison ∧ l.consumed ∧ l.recordWait.isSome then s.stallOn { idle := l.recordWait.getD none }
      else { s.endPair s.cur lead with curRec := lead }.raise c code

/-- A trap in a paired slot (R355): reported once both slots have reached it, and then by the
leader, unpaired; a slot that takes it alone is a mismatch. -/
def State.pairTrap (s : State) (c : Cause) (code : Nat) : State :=
  match s.st.partner with
  | none => s.raise c code
  | some p =>
    let q := s.strandAt s.cur p
    let lead := if s.st.folw then p else s.curRec
    { (if q.ptrap.isSome ∧ q.retired = s.st.retired then s.trapBoth lead c code
       else if s.st.retired < q.retired then s.mismatchNow lead
       else if s.st.ptrap.isSome then s.stallOn {}
       else (s.modSt fun st => { st with ptrap := some (c, code) }).holdOn {}) with
      trapWas := some (c, code) }

/-- A full engine queue in a paired slot (R177, R355): a follower and a strand that does not suspend wait; a leader
that suspends ends its pair after the compare. -/
def State.pairFull (s : State) (e : Nat) : State :=
  if s.st.folw || !s.fullSuspends then s.stallOn { idle := some 7 }
  else if !s.followerHere s.cur s.curRec then s.stallOn {}
  else if !s.pairAgrees s.cur s.curRec then s.mismatchNow s.curRec
  else (s.endPair s.cur s.curRec).fullOn e

/-- How an instruction of the issuing strand ends, from its body's result. -/
def State.finish (s : State) (r : Body State) : State :=
  match r with
  | .error (.trap c code) => if s.st.partner.isSome then s.pairTrap c code else s.raise c code
  | .error (.stall w) => s.stallOn w
  | .error (.met s' c) => if s.st.partner.isSome then s'.pairTrap c 0 else s'.raise c 0
  | .error (.full e) => if s.st.partner.isSome then s.pairFull e else s.fullOn e
  | .error (.hold s' w) =>
    if s.runsOff s' then
      if s.st.partner.isSome then s.pairTrap .target 0 else s.raise .target 0
    else s'.holdOn w
  | .ok s' =>
    if s.runsOff s' then
      if s.st.partner.isSome then s.pairTrap .target 0 else s.raise .target 0
    else s'.retire

/-- Whether an instruction makes a compare before it closes the open region (R351, R354). -/
def comparesOpen (st : Strand) (i : Instr) : Bool :=
  match i with
  | .regionClose _ => true
  | .region _ => st.region.isSome
  | _ => false

/-- An instruction that a slot of a pair performs (R354): its results fold as it retires. -/
def State.performs (s : State) (i : Instr) (body : State → Body State) : State :=
  match body s with
  | .ok s' => if s.runsOff s' then s.pairTrap .target 0 else (s'.foldResult s i).retire
  | r => s.finish r

/-- An instruction that a follower skips (R354): it takes what the leader forwarded, or meets the leader's trap. -/
def State.skips (s : State) (i : Instr) (p : Nat) : State :=
  let q := s.strandAt s.cur p
  match s.st.fwd with
  | w :: rest =>
    if w.await.isSome then s.stallOn {}
    else
      let s1 := s.modSt fun st =>
        let st := ({ st with fwd := rest } : Strand).takeFwd i w
        match i with
        | .regionClose _ => st.closeRegion
        | _ => st
      (s1.foldResult s i).retire
  | [] =>
    match q.ptrap with
    | some (c, code) => if q.retired = s.st.retired then s.trapBoth p c code else s.stallOn {}
    | none => if s.st.retired < q.retired then (s.foldResult s i).retire else s.stallOn {}

/-- An instruction of a follower (R354). DESIGN CHOICE (log 16): a follower issues an instruction only after its leader
has retired it or stands at its trap, so that it is never ahead at a compare. One that the leader did not perform,
since its predicate was off there, takes nothing. -/
def State.follow (s : State) (i : Instr) (p : Nat) (body : State → Body State) : State :=
  let q := s.strandAt s.cur p
  if q.retired ≤ s.st.retired ∧ q.ptrap.isNone then s.stallOn {}
  else if followerSkips i then s.skips i p
  else s.performs i body

/-- An instruction of a leader (R354, R355): a compare first where it makes one, which waits for the follower; then
the end of the pair, or the instruction with what it forwards. -/
def State.lead (s : State) (i : Instr) (p : Nat) (body : State → Body State) : State :=
  if (endsPair i || comparesOpen s.st i) && !s.followerHere s.cur s.curRec then s.stallOn {}
  else if (endsPair i || comparesOpen s.st i) && !s.pairAgrees s.cur s.curRec then s.mismatchNow s.curRec
  else
    match body s with
    | .ok s' =>
      if s.runsOff s' then s.pairTrap .target 0
      else if endsPair i && !(i matches .unpair _) then
        let s1 := s.endPair s.cur s.curRec
        s1.finish (body s1)
      else
        let s1 := if s'.st.partner.isSome then s.foldResult s' i else s'
        let s2 :=
          if followerSkips i && s1.st.partner.isSome then
            s1.modStrandAt s.cur p fun q => { q with fwd := q.fwd ++ [s1.st.forward i] }
          else s1
        s2.retire
    | r => s.finish r

/-- The end of an instruction of a paired slot (R354, R355): at a compare that is due it waits; an instruction whose
predicate is off makes no compare, ends no pair and folds nothing. -/
def State.finishPaired (s : State) (i : Instr) (p : Nat) (body : State → Body State) : State :=
  if 1024 ≤ s.st.retired then s.stallOn {}
  else if offPred i s.st then s.finish (body s)
  else if s.st.folw then s.follow i p body
  else s.lead i p body

/-! ### Register injection (R358 form 2) -/

/-- Applies an armed register injection just before an instruction that reads the register: a single
flip is corrected, a double one poisons the value read; the error is logged (R347, R357, R358). -/
def State.injectReg (s : State) (i : Instr) : State :=
  let e := s.tl.errinj
  let n := bitsN e.toNat 52 5
  if errTgt e = 2 ∧ errArm e ∧ some (bitsN e.toNat 57 3) = s.st.slot ∧ readsG i n then
    let s1 := s.modTl fun t => { t with errinj := errinjApplied t.errinj }
    if e.getLsbD 45 then
      let b := bitsN e.toNat 46 6
      let x : Word := s.st.rg n ^^^ (1#64 <<< b) ^^^ (1#64 <<< ((b + 1) % 64))
      (s1.modSt fun st => st.wg n x true).logErr 2 1 (locTile s.cur n)
    else s1.logErr 1 1 (locTile s.cur n)
  else s

/-! ### The issue of an instruction -/

/-- The wait of an instruction for a register, for STATUS or for MCLM, that an earlier command has still to write or to
read (R48). -/
def Strand.awaits (st : Strand) (i : Instr) : Option Stall :=
  match st.pendingRegs.find? fun p => touchesG i p.1 with
  | some p => some { idle := p.2 }
  | none =>
    if st.tq.any fun q => tableHazard q.instr i then some { idle := some 9 }
    else if touchesStatus i && st.tq.any (fun q => q.instr matches .achk _) then some { idle := some 9 }
    else if readsMclm i && (st.mreq.isSome || st.tq.any TCmd.onClaim) then some { idle := some 9 }
    else none

/-- Whether a value is in flight toward a load queue that an instruction pops (R105, R107, R108). -/
def Strand.flightTo (st : Strand) (i : Instr) : Bool :=
  let hit (sp : BitVec 8) : Bool := isLq sp && (st.lqOf (opIdx sp)).any QPlace.inFlight
  match i with
  | .qadv f => (st.lqOf (f.imm.toNat % 8)).any QPlace.inFlight
  | i =>
    match shapeOf i with
    | none => false
    | some (sh, f) =>
      hit f.a || hit f.b || hit f.c && !(sh.c matches .ctl _) || hit f.d && noDest i

/-- A wait is an unliftable hold only where no value is in flight toward a queue that the instruction pops
(R108). -/
def liftStall (flight : Bool) (r : Body State) : Body State :=
  match r with
  | .error (.stall w) => .error (.stall { w with unlift := w.unlift && !flight })
  | r => r

/-- Runs a strand instruction (R81): the decode checks, the privilege check, then its body. -/
def strandOp (i : Instr) (s : State) (body : State → Body State) :
    Host.Outcome State Fault Refusal :=
  if !s.running then .fault .noStrand
  else
    match decodeErr i with
    | some e => .next (s.finish (trapE (causeOf e)))
    | none =>
      if isPrivileged i && !s.st.sup then .next (s.finish (trapE .privilege))
      else
        match s.st.awaits i with
        | some w => .next (s.stallOn w)
        | none =>
          let s := s.injectReg i
          match s.st.partner with
          | none => .next (s.finish (liftStall (s.st.flightTo i) (body s)))
          | some p => .next (s.finishPaired i p fun s => liftStall (s.st.flightTo i) (body s))

/-- A guarded instruction: with its predicate off it changes nothing and raises none of its own
traps (R76). -/
def guarded (f : Fields) (body : State → Body State) (s : State) : Body State :=
  if predOn f s.st then body s else .ok s

/-- A guarded strand instruction with its fields. -/
def guardedOp (i : Instr) (f : Fields) (s : State) (body : State → Body State) :
    Host.Outcome State Fault Refusal :=
  strandOp i s (guarded f body)

end Sys2Proof.Machine
end

