-- ==== Sys2Proof/Machine/Scalar.lean ====
section
/-! DEFINITION. Scalar arithmetic, compares and moves (R90 to R99). -/

namespace Sys2Proof.Machine

/-! ### Results (R91, R93) -/

/-- A result narrowed to the instruction's width, by Sat or Wrap, and extended (R91, R93). -/
def narrow (f : Fields) (r : Int) : Word :=
  extendTo f.fmt (intBits (fmtW f.fmt) (fmtSigned f.fmt) f.sat r)

/-- The low w bits of a source read in the instruction's format (R91). -/
def inFmt (f : Fields) (x : Word) : Int := intVal (fmtW f.fmt) (fmtSigned f.fmt) x.toNat

/-- The low w bits of a source, unsigned (R93). -/
def uns (f : Fields) (x : Word) : Nat := x.toNat % 2 ^ fmtW f.fmt

/-- The shift amount: the second source modulo the width (R93). -/
def shAmt (f : Fields) (y : Word) : Nat := uns f y % 64 % fmtW f.fmt

/-- The body of a binary operation: D := the narrowed result of A and B + IMM; the poison of either
source (R74, R91, R93). -/
def binBody (f : Fields) (r : Word → Word → Int) (s : State) : Body State := do
  let (x, y, s1) ← s.rd2 f.a f.b
  s1.wrDst f.d (narrow f (r x.1 (y.1 + sx f.imm))) (x.2 || y.2)

/-- The body of a unary operation on A (R91). -/
def unBody (f : Fields) (r : Word → Word) (s : State) : Body State := do
  let (x, s1) ← s.rd1 f.a
  s1.wrDst f.d (r x.1) x.2

/-! ### Binary operations (R93): the exact result r before narrowing -/

/-- r of `add`: a + b (R93). -/
def resAdd (f : Fields) (x y : Word) : Int :=
  inFmt f x + inFmt f y

/-- r of `sub`: a − b (R93). -/
def resSub (f : Fields) (x y : Word) : Int :=
  inFmt f x - inFmt f y

/-- r of `mul`: a × b (R93). -/
def resMul (f : Fields) (x y : Word) : Int :=
  inFmt f x * inFmt f y

/-- r of `mulh`: the high half of the product (R93). -/
def resMulh (f : Fields) (x y : Word) : Int :=
  inFmt f x * inFmt f y / (2 ^ fmtW f.fmt : Nat)

/-- r of `div`: the quotient toward zero; all ones where b = 0 (R93). -/
def resDiv (f : Fields) (x y : Word) : Int :=
  if inFmt f y = 0 then (if fmtSigned f.fmt then -1 else (2 ^ fmtW f.fmt : Nat) - 1)
    else Int.tdiv (inFmt f x) (inFmt f y)

/-- r of `rem`: the remainder with the sign of the dividend; a where b = 0 (R93). -/
def resRem (f : Fields) (x y : Word) : Int :=
  if inFmt f y = 0 then inFmt f x else Int.tmod (inFmt f x) (inFmt f y)

/-- r of `and`: bitwise and (R93). -/
def resAnd (f : Fields) (x y : Word) : Int :=
  (uns f x &&& uns f y : Nat)

/-- r of `or`: bitwise or (R93). -/
def resOr (f : Fields) (x y : Word) : Int :=
  (uns f x ||| uns f y : Nat)

/-- r of `xor`: bitwise exclusive or (R93). -/
def resXor (f : Fields) (x y : Word) : Int :=
  (uns f x ^^^ uns f y : Nat)

/-- r of `andn`: a and not b (R93). -/
def resAndn (f : Fields) (x y : Word) : Int :=
  (uns f x &&& (2 ^ fmtW f.fmt - 1 - uns f y) : Nat)

/-- r of `shl`: a × 2^sh (R93). -/
def resShl (f : Fields) (x y : Word) : Int :=
  inFmt f x * (2 ^ shAmt f y : Nat)

/-- r of `shr`: the unsigned a shifted right (R93). -/
def resShr (f : Fields) (x y : Word) : Int :=
  (uns f x / 2 ^ shAmt f y : Nat)

/-- r of `sar`: the signed a shifted right (R93). -/
def resSar (f : Fields) (x y : Word) : Int :=
  sextN (fmtW f.fmt) x.toNat / (2 ^ shAmt f y : Nat)

/-- r of `rol`: a rotated left (R93). -/
def resRol (f : Fields) (x y : Word) : Int :=
  ((uns f x * 2 ^ shAmt f y + uns f x / 2 ^ (fmtW f.fmt - shAmt f y)) % 2 ^ fmtW f.fmt : Nat)

/-- r of `min`: the lesser of a and b (R93). -/
def resMin (f : Fields) (x y : Word) : Int :=
  if inFmt f x ≤ inFmt f y then inFmt f x else inFmt f y

/-- r of `max`: the greater of a and b (R93). -/
def resMax (f : Fields) (x y : Word) : Int :=
  if inFmt f y ≤ inFmt f x then inFmt f x else inFmt f y

/-- ADD (R93): a + b. -/
def execAdd (f : Fields) (s : State) : Host.Outcome State Fault Refusal :=
  guardedOp (.add f) f s (binBody f (resAdd f))

/-- SUB (R93): a − b. -/
def execSub (f : Fields) (s : State) : Host.Outcome State Fault Refusal :=
  guardedOp (.sub f) f s (binBody f (resSub f))

/-- MUL (R93): a × b. -/
def execMul (f : Fields) (s : State) : Host.Outcome State Fault Refusal :=
  guardedOp (.mul f) f s (binBody f (resMul f))

/-- MULH (R93): the high half of the product. -/
def execMulh (f : Fields) (s : State) : Host.Outcome State Fault Refusal :=
  guardedOp (.mulh f) f s (binBody f (resMulh f))

/-- DIV (R93): the quotient toward zero; all ones where b = 0. -/
def execDiv (f : Fields) (s : State) : Host.Outcome State Fault Refusal :=
  guardedOp (.div f) f s (binBody f (resDiv f))

/-- REM (R93): the remainder with the sign of the dividend; a where b = 0. -/
def execRem (f : Fields) (s : State) : Host.Outcome State Fault Refusal :=
  guardedOp (.rem f) f s (binBody f (resRem f))

/-- AND (R93): bitwise and. -/
def execAnd (f : Fields) (s : State) : Host.Outcome State Fault Refusal :=
  guardedOp (.and f) f s (binBody f (resAnd f))

/-- OR (R93): bitwise or. -/
def execOr (f : Fields) (s : State) : Host.Outcome State Fault Refusal :=
  guardedOp (.or f) f s (binBody f (resOr f))

/-- XOR (R93): bitwise exclusive or. -/
def execXor (f : Fields) (s : State) : Host.Outcome State Fault Refusal :=
  guardedOp (.xor f) f s (binBody f (resXor f))

/-- ANDN (R93): a and not b. -/
def execAndn (f : Fields) (s : State) : Host.Outcome State Fault Refusal :=
  guardedOp (.andn f) f s (binBody f (resAndn f))

/-- SHL (R93): a × 2^sh. -/
def execShl (f : Fields) (s : State) : Host.Outcome State Fault Refusal :=
  guardedOp (.shl f) f s (binBody f (resShl f))

/-- SHR (R93): the unsigned a shifted right. -/
def execShr (f : Fields) (s : State) : Host.Outcome State Fault Refusal :=
  guardedOp (.shr f) f s (binBody f (resShr f))

/-- SAR (R93): the signed a shifted right. -/
def execSar (f : Fields) (s : State) : Host.Outcome State Fault Refusal :=
  guardedOp (.sar f) f s (binBody f (resSar f))

/-- ROL (R93): a rotated left. -/
def execRol (f : Fields) (s : State) : Host.Outcome State Fault Refusal :=
  guardedOp (.rol f) f s (binBody f (resRol f))

/-- MIN (R93): the lesser of a and b. -/
def execMin (f : Fields) (s : State) : Host.Outcome State Fault Refusal :=
  guardedOp (.min f) f s (binBody f (resMin f))

/-- MAX (R93): the greater of a and b. -/
def execMax (f : Fields) (s : State) : Host.Outcome State Fault Refusal :=
  guardedOp (.max f) f s (binBody f (resMax f))

/-! ### Counts, compares and moves (R94 to R96) -/

/-- Zero bits below bit n before the highest one bit is met. -/
def clzFrom (x : Nat) : Nat → Nat
  | 0 => 0
  | n + 1 => if x.testBit n then 0 else clzFrom x n + 1

/-- Zero bits from bit i upward before the lowest one bit is met, n bits at most. -/
def ctzFrom (x i : Nat) : Nat → Nat
  | 0 => 0
  | n + 1 => if x.testBit i then 0 else ctzFrom x (i + 1) n + 1

/-- One bits among the lowest n. -/
def popFrom (x : Nat) : Nat → Nat
  | 0 => 0
  | n + 1 => b2n (x.testBit n) + popFrom x n

/-- CLZ (R94): zero bits above the highest one bit of the low w bits. -/
def execClz (f : Fields) (s : State) : Host.Outcome State Fault Refusal :=
  guardedOp (.clz f) f s
    (unBody f fun x => BitVec.ofNat 64 (clzFrom (uns f x) (fmtW f.fmt)))

/-- CTZ (R94): zero bits below the lowest one bit. -/
def execCtz (f : Fields) (s : State) : Host.Outcome State Fault Refusal :=
  guardedOp (.ctz f) f s
    (unBody f fun x => BitVec.ofNat 64 (ctzFrom (uns f x) 0 (fmtW f.fmt)))

/-- POPC (R94): one bits of the low w bits. -/
def execPopc (f : Fields) (s : State) : Host.Outcome State Fault Refusal :=
  guardedOp (.popc f) f s
    (unBody f fun x => BitVec.ofNat 64 (popFrom (uns f x) (fmtW f.fmt)))

/-- SET (R95): D := 1 if the condition holds between A and B + IMM, else 0. -/
def execSet (c : Cond) (f : Fields) (s : State) : Host.Outcome State Fault Refusal :=
  guardedOp (.set c f) f s fun s => do
    let (x, y, s1) ← s.rd2 f.a f.b
    s1.wrDst f.d (b2w (condHolds c (fmtW f.fmt) x.1.toNat (y.1 + sx f.imm).toNat)) (x.2 || y.2)

/-- SEL (R96): B if A is nonzero, else C; poison of A and of the source taken. -/
def execSel (f : Fields) (s : State) : Host.Outcome State Fault Refusal :=
  guardedOp (.sel f) f s fun s => do
    let (x, y, z, s1) ← s.rd3 f.a f.b f.c
    if x.1 ≠ 0 then s1.wrDst f.d y.1 (x.2 || y.2) else s1.wrDst f.d z.1 (x.2 || z.2)

/-- MOV (R96). -/
def execMov (f : Fields) (s : State) : Host.Outcome State Fault Refusal :=
  guardedOp (.mov f) f s (unBody f id)

/-- MOVI (R96): D := IMM64, unpoisoned; no predicate. -/
def execMovi (d a : BitVec 8) (imm : BitVec 64) (s : State) : Host.Outcome State Fault Refusal :=
  strandOp (.movi d a imm) s fun s => s.wrDst d imm false

/-- SEXT (R97): the low w bits sign-extended. -/
def execSext (f : Fields) (s : State) : Host.Outcome State Fault Refusal :=
  guardedOp (.sext f) f s
    (unBody f fun x => BitVec.ofInt 64 (sextN (fmtW f.fmt) x.toNat))

/-- ZEXT (R97): the low w bits zero-extended. -/
def execZext (f : Fields) (s : State) : Host.Outcome State Fault Refusal :=
  guardedOp (.zext f) f s (unBody f fun x => BitVec.ofNat 64 (uns f x))

/-- POS and the length of a bit field (R98). -/
def bfPos (f : Fields) : Nat := f.imm.toNat % 64
def bfLen (f : Fields) : Nat := f.imm.toNat / 256 % 64 + 1

/-- BFX (R98): a bit field of A, sign-extended under FMT 0, zero-extended under FMT 7. -/
def execBfx (f : Fields) (s : State) : Host.Outcome State Fault Refusal :=
  guardedOp (.bfx f) f s
    (unBody f fun x =>
      let v := bitsN x.toNat (bfPos f) (bfLen f)
      if f.fmt = 0 then BitVec.ofInt 64 (sextN (bfLen f) v) else BitVec.ofNat 64 v)

/-- BFI (R98): a bit field of D replaced by the low bits of A. -/
def execBfi (f : Fields) (s : State) : Host.Outcome State Fault Refusal :=
  guardedOp (.bfi f) f s fun s => do
    let (x, s1) ← s.rd1 f.a
    let old := s1.st.rg (opIdx f.d)
    pure (s1.wrG f.d (setBits old (bfPos f) (bfLen f) x.1.toNat) (s1.st.rgp (opIdx f.d) || x.2))

/-- LEA (R99): D := EA, without any check. -/
def execLea (f : Fields) (s : State) : Host.Outcome State Fault Refusal :=
  guardedOp (.lea f) f s fun s => do
    let (x, y, s1) ← s.rd2 f.a f.b
    s1.wrDst f.d (eaOf x.1 y.1 (fmtBytes f.fmt) f.imm) (x.2 || y.2)

end Sys2Proof.Machine
end

