-- ==== Sys2Proof/Machine/Local.lean ====
section
/-! DEFINITION. Local loads and stores and the decoupled queues (R100 to R108). -/

namespace Sys2Proof.Machine

/-- Reads n local bytes of the issuing strand's tile: any flipped code words are met first
(R103, R358), then the number and whether some byte is marked poisoned. -/
def State.loadLocal (s : State) (ea n : Nat) : (Nat × Bool) × State :=
  let s1 := s.meetFlips s.cur ea n
  ((s1.ldNum s1.cur ea n, s1.ldPois s1.cur ea n), s1)

/-- LD (R100, R103). -/
def execLd (f : Fields) (s : State) : Host.Outcome State Fault Refusal :=
  guardedOp (.ld f) f s fun s => do
    let (x, y, s1) ← s.rd2 f.a f.b
    let ea := eaOf x.1 y.1 (fmtBytes f.fmt) f.imm
    s1.localCheck ea (fmtBytes f.fmt) (fmtBytes f.fmt) (x.2 || y.2)
    let (v, s2) := s1.loadLocal ea.toNat (fmtBytes f.fmt)
    s2.wrDst f.d (extendTo f.fmt v.1) v.2

/-- ST (R100, R103, R115): D is read after A and B, once the address has passed its checks. -/
def execSt (f : Fields) (s : State) : Host.Outcome State Fault Refusal :=
  guardedOp (.st f) f s fun s => do
    let (x, y, s1) ← s.rd2 f.a f.b
    let ea := eaOf x.1 y.1 (fmtBytes f.fmt) f.imm
    s1.addrCheck ea (fmtBytes f.fmt) (fmtBytes f.fmt) (x.2 || y.2)
    let (d, s2) ← s1.rd1 f.d
    guardT (d.2 && !f.c.getLsbD 7) .poison
    s2.localWait ea.toNat (fmtBytes f.fmt)
    s2.storeData ea.toNat (natToBytes (fmtBytes f.fmt) d.1.toNat) d.2 (f.c.getLsbD 7)

/-- Takes a place in a load queue, or waits while held and reserved places equal the depth
(R105). -/
def State.reserveLq (s : State) (q : Nat) (p : QPlace) : Body State :=
  if s.st.depth q ≤ (s.st.lqOf q).length then stallE (some 7) false
  else .ok (s.modSt fun st => { st with lq := st.lq.put q (st.lqOf q ++ [p]) })

/-- LDQ (R105): the read is made at its place in program order; LDQ_PUSH makes it poppable. -/
def execLdq (f : Fields) (s : State) : Host.Outcome State Fault Refusal :=
  guardedOp (.ldq f) f s fun s => do
    let (x, y, s1) ← s.rd2 f.a f.b
    let ea := eaOf x.1 y.1 (fmtBytes f.fmt) f.imm
    s1.localCheck ea (fmtBytes f.fmt) (fmtBytes f.fmt) (x.2 || y.2)
    let (v, s2) := s1.loadLocal ea.toNat (fmtBytes f.fmt)
    s2.reserveLq (f.c.toNat % 4) (.load (extendTo f.fmt v.1) v.2)

/-- STQ (R106): drains the oldest entry, or becomes a pending drain. -/
def execStq (f : Fields) (s : State) : Host.Outcome State Fault Refusal :=
  guardedOp (.stq f) f s fun s => do
    let (x, y, s1) ← s.rd2 f.a f.b
    let n := fmtBytes f.fmt
    let q := f.c.toNat % 2
    let ea := eaOf x.1 y.1 n f.imm
    match s1.st.sqOf q with
    | e :: rest => do
      s1.storeCheck ea n (x.2 || y.2) e.2 (f.c.getLsbD 7)
      let s2 ← s1.drain ea.toNat (natToBytes n e.1.toNat) e.2 (f.c.getLsbD 7)
      pure (s2.modSt fun st => { st with sq := st.sq.put q rest })
    | [] => do
      s1.localCheck ea n n (x.2 || y.2)
      if s1.st.depth (4 + q) ≤ (s1.st.drainsOf q).length then stallE (some 7) true
      else
        pure (s1.modSt fun st => { st with
          drains := st.drains.put q
            (st.drainsOf q ++ [{ ea := ea.toNat, bytes := n, ppass := f.c.getLsbD 7, pos := st.pos }]),
          pos := st.pos + 1 })

/-- Queue number and count − 1 of `qcfg` and `qadv` (R107). -/
def qNum (f : Fields) : Nat := f.imm.toNat % 8
def qCnt (f : Fields) : Nat := f.imm.toNat / 256 % 16

/-- QCFG (R107): the queue loses its entries, values in flight and pending drains; its depth is
set. -/
def execQcfg (f : Fields) (s : State) : Host.Outcome State Fault Refusal :=
  guardedOp (.qcfg f) f s fun s =>
    .ok (s.modSt fun st =>
      { st with
        lq := if qNum f < 4 then st.lq.put (qNum f) [] else st.lq,
        sq := if qNum f < 4 then st.sq else st.sq.put (qNum f - 4) [],
        drains := if qNum f < 4 then st.drains else st.drains.put (qNum f - 4) [],
        dep := st.dep.put (qNum f) (qCnt f) })

/-- Pops n entries of a load queue, each waiting as a pop does (R107). -/
def State.popMany (s : State) (q : Nat) : Nat → Body State
  | 0 => .ok s
  | n + 1 => do
    let (_, s1) ← s.popLq q
    s1.popMany q n

/-- QADV (R107). -/
def execQadv (f : Fields) (s : State) : Host.Outcome State Fault Refusal :=
  guardedOp (.qadv f) f s fun s =>
    if qNum f < 4 then s.popMany (qNum f) (qCnt f + 1)
    else .ok (s.modSt fun st =>
      { st with sq := st.sq.put (qNum f - 4) ((st.sqOf (qNum f - 4)).drop (qCnt f + 1)) })

end Sys2Proof.Machine
end

