-- ==== Sys2Proof/Machine/Control.lean ====
section
/-! DEFINITION. Control transfer, the repeat prefix, NOP and the software traps (R83, R109 to
R113). -/

namespace Sys2Proof.Machine

/-- BR (R109): a poisoned operand traps; a taken branch transfers. -/
def execBr (c : Cond) (f : Fields) (s : State) : Host.Outcome State Fault Refusal :=
  guardedOp (.br c f) f s fun s => do
    let (x, y, s1) ← s.rd2 f.a f.b
    guardT (x.2 || y.2) .poison
    if condHolds c (fmtW f.fmt) x.1.toNat y.1.toNat then s1.transfer (s1.sTarget f.imm) else pure s1

/-- JMP (R110). -/
def execJmp (f : Fields) (s : State) : Host.Outcome State Fault Refusal :=
  guardedOp (.jmp f) f s fun s => s.transfer (s.sTarget f.imm)

/-- A transfer to the PC in a register (R110). -/
def jumpReg (f : Fields) (s : State) : Body State := do
  guardT (s.st.rgp (opIdx f.a)) .poison
  s.transfer (s.st.rg (opIdx f.a))

/-- JMPR (R110). -/
def execJmpr (f : Fields) (s : State) : Host.Outcome State Fault Refusal :=
  guardedOp (.jmpr f) f s (jumpReg f)

/-- CALL (R110): the link is the first slot after the issue unit, unpoisoned. DESIGN CHOICE (log 30): for a call in
slot 4 of line 2,047, after which no slot exists, the link is 0x4000. -/
def execCall (f : Fields) (s : State) : Host.Outcome State Fault Refusal :=
  guardedOp (.call f) f s fun s => do
    let s1 ← s.transfer (s.sTarget f.imm)
    pure (s1.wrG f.d s.st.npc false)

/-- RET (R110): as `jmpr`. -/
def execRet (f : Fields) (s : State) : Host.Outcome State Fault Refusal :=
  guardedOp (.ret f) f s (jumpReg f)

/-- LOOP (R111): the counter falls by one; a nonzero result transfers. -/
def execLoop (f : Fields) (s : State) : Host.Outcome State Fault Refusal :=
  guardedOp (.loop f) f s fun s => do
    guardT (s.st.rgp (opIdx f.d)) .poison
    let n := s.st.rg (opIdx f.d) - 1
    if n ≠ 0 then
      let s1 ← s.transfer (s.sTarget f.imm)
      pure (s1.wrG f.d n false)
    else pure (s.wrG f.d n false)

/-- The instructions that no pair and no repeat may hold (R69, R83). -/
def barred (i : Instr) : Bool :=
  match i with
  | .rep _ | .exit _ | .wait _ | .yield _ | .sync _ _ | .park _ | .halt _ | .svc _ | .svcReturn _
  | .trap _ | .brk _ | .tret _ => true
  | _ => false

/-- Whether an instruction may not be the target of a repeat (R83). -/
def repBarred (i : Instr) : Bool :=
  barred i ||
  (match i with
   | .movi .. | .br _ _ | .jmp _ | .call _ | .loop _ | .spawn _ | .jmpr _ | .ret _ => true
   | _ => false)

/-- Whether a field is read as an operand specifier: an optional `v` that is absent is an unused field (R83,
R133). -/
def fieldIsSpec (kd : OpK) (x : BitVec 8) : Bool :=
  match kd with
  | .vopt => x != 0
  | kd => opIsSpec kd

/-- Whether a repeat steps a field that its target does not read as a specifier (R83). -/
def repStepBad (r : RepFields) (sh : Shape) (f : Fields) : Bool :=
  (r.sd != 0 && !fieldIsSpec sh.d f.d) || (r.sa != 0 && !fieldIsSpec sh.a f.a) ||
  (r.sb != 0 && !fieldIsSpec sh.b f.b) || (r.sc != 0 && !fieldIsSpec sh.c f.c)

/-- Whether a `rep` may not repeat the word after it (R83). A word that is no instruction raises its
own trap at the first repetition. -/
def repTargetBad (r : RepFields) (w : BitVec 96) : Bool :=
  match decodeOpcode w with
  | none => false
  | some i =>
    repBarred i ||
    (match shapeOf i with
     | some (sh, f) => repStepBad r sh f
     | none => false)

/-- Whether a `rep` raises the line-format trap (R83): in slot 4, before the lower slot of a pair, or before a slot
that it may not repeat. -/
def State.repBad (s : State) (r : RepFields) : Bool :=
  let line := pcLine s.st.upc
  let slot := pcSlot s.st.upc
  slot == 4 || pairAt (lwTpl (s.lineWord s.cur line)) (slot + 1) ||
    repTargetBad r (s.slotWord s.cur line (slot + 1))

/-- REP (R83): a repeat starts at repetition 0 and the PC stays at the `rep`; the step runs the
repetitions. A target that a pair of the template holds is refused as well. -/
def execRep (r : RepFields) (s : State) : Host.Outcome State Fault Refusal :=
  strandOp (.rep r) s fun s =>
    if s.repBad r then trapE .lineFormat
    else .ok (s.modSt fun st => { st with rpt := true, repidx := 0, target := some st.upc })

/-- Field F of repetition j: the index stepped, the file kept; none where the index leaves 0 to 31
(R83). -/
def repField (f0 step : BitVec 8) (j : Nat) : Option (BitVec 8) :=
  let idx : Int := (opIdx f0 : Int) + (j : Int) * step.toInt
  if 0 ≤ idx ∧ idx ≤ 31 then some (BitVec.ofNat 8 (opFile f0 * 32 + idx.toNat)) else none

/-- The word of repetition j of a target (R83): none is the operand-class trap. -/
def repWord (r : RepFields) (w : BitVec 96) (j : Nat) : Option (BitVec 96) :=
  let f := wordFields w
  match repField f.d r.sd j, repField f.a r.sa j, repField f.b r.sb j, repField f.c r.sc j with
  | some d, some a, some b, some c =>
    let pick (step new old : BitVec 8) : BitVec 8 := if step = 0 then old else new
    some (packFields (wordMaj w) (wordMin w)
      { f with d := pick r.sd d f.d, a := pick r.sa a f.a, b := pick r.sb b f.b,
               c := pick r.sc c f.c, imm := f.imm + BitVec.ofNat 32 j * r.si })
  | _, _, _, _ => none

/-- NOP (R112). -/
def execNop (f : Fields) (s : State) : Host.Outcome State Fault Refusal :=
  guardedOp (.nop f) f s fun s => .ok s

/-- BRK (R113): raises the breakpoint trap with its code. -/
def execBrk (f : Fields) (s : State) : Host.Outcome State Fault Refusal :=
  guardedOp (.brk f) f s fun _ => .error (.trap .breakpoint (f.imm.toNat % 65536))

/-- TRAP (R113): raises the software trap with its code. -/
def execTrap (f : Fields) (s : State) : Host.Outcome State Fault Refusal :=
  guardedOp (.trap f) f s fun _ => .error (.trap .software (f.imm.toNat % 65536))

end Sys2Proof.Machine
end

