-- ==== Sys2Proof/Machine/Vector.lean ====
section
/-! DEFINITION. The vector instructions (R116 to R140, R142). -/

namespace Sys2Proof.Machine

/-! ### Sources, lanes and elements (R116 to R119) -/

/-- A `v` source: a register, or the constant with no field of its own (R118). -/
structure VSrc where
  x : VReg := {}
  const : Bool := true
  deriving DecidableEq, Repr

/-- Reads a `v` source. -/
def Strand.vsrc (st : Strand) (sp : BitVec 8) : VSrc :=
  if isV sp then { x := st.rv (opIdx sp), const := false } else {}

/-- The claim trap of an instruction that acts on lanes (R49, R119). -/
def State.needLanes (s : State) : Body Unit := guardT (s.st.vl == 0) .claim

/-- The check of a source against a tag that the instruction names (R44, R119). -/
def needTag (f : Fields) (tag : BitVec 4) (v : VSrc) : Body Unit :=
  guardT (!f.ef && !v.const && v.x.tag != tag) .format

/-- The check of a source against FMT; FMT 0 accepts every tag (R44). -/
def needFmt (f : Fields) (v : VSrc) : Body Unit := if f.fmt = 0 then .ok () else needTag f f.fmt v

/-- The active lanes (R116): i < VL and the predicate bit set. -/
def actOf (f : Fields) (st : Strand) : BitVec 64 :=
  predMask f st &&& BitVec.ofNat 64 (2 ^ st.vl - 1)

/-- Element e of a register, as bits (R116). -/
def VReg.elem (x : VReg) (ew e : Nat) : Nat := bitsN x.lanes.toNat (ew * e) ew

/-- Lane i of a register. -/
def VReg.lane (x : VReg) (i : Nat) : Nat := x.elem 32 i

/-- Elements packed from the lowest upward. -/
def packElems (ew : Nat) (xs : List Nat) : Nat := xs.foldr (fun x acc => acc * 2 ^ ew + x % 2 ^ ew) 0

/-- The bits of the lanes of a mask. -/
def laneBits (act : BitVec 64) : BitVec 2048 :=
  BitVec.ofNat 2048 (packElems 32 ((List.range 64).map fun i =>
    if act.getLsbD i then 2 ^ 32 - 1 else 0))

/-- A register with its active lanes replaced, and its tag and field set whole (R49, R116). -/
def VReg.update (old : VReg) (img : Nat) (pois act : BitVec 64) (tag : BitVec 4) (blk : BitVec 8) :
    VReg :=
  { lanes := (BitVec.ofNat 2048 img &&& laneBits act) ||| (old.lanes &&& ~~~ laneBits act),
    pois := (pois &&& act) ||| (old.pois &&& ~~~ act), tag := tag, blk := blk }

/-- Writes the active lanes of a `v` destination. -/
def State.wrV (s : State) (d : BitVec 8) (img : Nat) (pois act : BitVec 64) (tag : BitVec 4)
    (blk : BitVec 8) : State :=
  s.modSt fun st => st.wv (opIdx d) ((st.rv (opIdx d)).update img pois act tag blk)

/-- One element's result: bits, whether it poisons its lane, and RNGS after it. -/
abbrev Elem := Nat → BitVec 32 → (Nat × Bool) × BitVec 32

/-- Runs an element function over n elements in ascending order (R30, R119). -/
def runElems (op : Elem) (e : Nat) : Nat → BitVec 32 → List (Nat × Bool) × BitVec 32
  | 0, g => ([], g)
  | n + 1, g =>
    let r := op e g
    let t := runElems op (e + 1) n r.2
    (r.1 :: t.1, t.2)

/-- The lanes that some result of theirs poisons, with k results to a lane. -/
def poisonLanes (k : Nat) (rs : List (Nat × Bool)) : BitVec 64 :=
  BitVec.ofNat 64 (packElems 1 ((List.range 64).map fun i =>
    b2n (((rs.drop (k * i)).take k).any (·.2))))

/-- A vector or mask command enters the vector queue (R186). A strand without lanes is no claimant
of R187: its commands complete at issue (log 12). -/
def State.enterV (s : State) : Body State := if s.st.vl = 0 then .ok s else s.enterVq

/-- Runs a lane-wise instruction: every element within VL in order, the active lanes written, then
the command enters its queue. -/
def State.laneWise (s : State) (f : Fields) (op : Elem) (pois : BitVec 64) (blk : BitVec 8) :
    Body State :=
  let r := runElems op 0 (f.epl * s.st.vl) s.st.rngs
  let s1 := s.modSt fun st => { st with rngs := r.2 }
  (s1.wrV f.d (packElems f.ew (r.1.map (·.1))) (pois ||| poisonLanes f.epl r.1) (actOf f s.st)
    f.fmt blk).enterV

/-- A vector instruction under its lane mask. -/
def vecOp (i : Instr) (s : State) (body : State → Body State) : Host.Outcome State Fault Refusal :=
  strandOp i s body

/-! ### Arithmetic (R122, R123) -/

/-- The floating format of a tag. -/
def fltOf (tag : Nat) : FFmt :=
  match tag with
  | 3 => bf16 | 4 => fp16 | 5 => e4m3 | 6 => e5m2 | _ => fp32

/-- Whether an integer width code is signed (R117). -/
def iwSigned (iw : Nat) : Bool := iw == 0 || iw == 2

/-- What a lane-wise arithmetic operation computes: on integers, on floats (with its rounding) and
on LN6 codes. -/
structure Arith where
  int : Int → Int → Int → Int
  flt : Fields → FFmt → Nat → Nat → Nat → BitVec 32 → Nat × BitVec 32
  ln : Nat → Nat → Nat

/-- One element of an arithmetic operation (R122, R123). -/
def Arith.elem (o : Arith) (f : Fields) (a b c : Nat) (g : BitVec 32) : (Nat × Bool) × BitVec 32 :=
  if f.fmt = 1 then
    let v := fun x => intVal f.ew (iwSigned f.iw) x
    ((intBits f.ew (iwSigned f.iw) f.sat (o.int (v a) (v b) (v c)), false), g)
  else if f.fmt = 7 then ((o.ln (a % 64) (b % 64), false), g)
  else
    let r := o.flt f (fltOf f.fmt.toNat) a b c g
    ((r.1, false), r.2)

/-- Rounds an exact result by RND and SAT (R122). -/
def vround (f : Fields) (ff : FFmt) (x : FVal) (g : BitVec 32) : Nat × BitVec 32 :=
  roundF x ff (rmOf f.rnd) f.sat g

/-- An exact sum under RND. -/
def vsum (f : Fields) (x y : FVal) : FVal := x.add (rmOf f.rnd == .rdn) y

/-- The lesser or greater of two floats, −0 below +0, a NaN canonical (R122). -/
def fltMin (ff : FFmt) (a b : Nat) : Nat :=
  let x := ff.val a
  let y := ff.val b
  if x.isNan || y.isNan then ff.nan
  else if x.lt y then a else if y.lt x then b else if x.sign then a else b
def fltMax (ff : FFmt) (a b : Nat) : Nat :=
  let x := ff.val a
  let y := ff.val b
  if x.isNan || y.isNan then ff.nan
  else if x.lt y then b else if y.lt x then a else if x.sign then b else a

/-- A float's sign cleared or inverted, a NaN canonical (R122). -/
def fltAbs (ff : FFmt) (a : Nat) : Nat :=
  if (ff.val a).isNan then ff.nan else a % 2 ^ (ff.eb + ff.mb)
def fltNeg (ff : FFmt) (a : Nat) : Nat :=
  if (ff.val a).isNan then ff.nan
  else ff.signed (!(ff.val a).sign) (a % 2 ^ (ff.eb + ff.mb))

def arAdd : Arith :=
  { int := fun a b _ => a + b
    flt := fun f ff a b _ g => vround f ff (vsum f (ff.val a) (ff.val b)) g
    ln := fun a _ => a }
def arSub : Arith :=
  { int := fun a b _ => a - b
    flt := fun f ff a b _ g => vround f ff (vsum f (ff.val a) (ff.val b).neg) g
    ln := fun a _ => a }
def arMul : Arith :=
  { int := fun a b _ => a * b
    flt := fun f ff a b _ g => vround f ff ((ff.val a).mul (ff.val b)) g
    ln := lnMul }
def arFma : Arith :=
  { int := fun a b c => a * b + c
    flt := fun f ff a b c g => vround f ff (vsum f ((ff.val a).mul (ff.val b)) (ff.val c)) g
    ln := fun a _ => a }
def arMin : Arith :=
  { int := fun a b _ => if a ≤ b then a else b
    flt := fun _ ff a b _ g => (fltMin ff a b, g)
    ln := fun a _ => a }
def arMax : Arith :=
  { int := fun a b _ => if b ≤ a then a else b
    flt := fun _ ff a b _ g => (fltMax ff a b, g)
    ln := fun a _ => a }
/-- `vabs` (R122, R123): an LN6 zero or NaR stays. -/
def arAbs : Arith :=
  { int := fun a _ _ => (a.natAbs : Int)
    flt := fun _ ff a _ _ g => (fltAbs ff a, g)
    ln := fun a _ => if a % 32 = 0 then a else a % 32 }
/-- `vneg` (R122, R123): an LN6 zero or NaR stays. -/
def arNeg : Arith :=
  { int := fun a _ _ => -a
    flt := fun _ ff a _ _ g => (fltNeg ff a, g)
    ln := fun a _ => if a % 32 = 0 then a else if a < 32 then a + 32 else a - 32 }

/-- The body of an arithmetic instruction on one, two or three sources (R119, R122). -/
def arithBody (o : Arith) (n : Nat) (blk : VSrc → VSrc → Option (BitVec 8)) (f : Fields)
    (s : State) : Body State := do
  s.needLanes
  let a := s.st.vsrc f.a
  let b := if 2 ≤ n then s.st.vsrc f.b else {}
  let c := if 3 ≤ n then s.st.vsrc f.c else {}
  needFmt f a
  needFmt f b
  needFmt f c
  match blk a b with
  | none => trapE .blockExponent
  | some e =>
    s.laneWise f
      (fun i g => o.elem f (a.x.elem f.ew i) (b.x.elem f.ew i) (c.x.elem f.ew i) g)
      (a.x.pois ||| b.x.pois ||| c.x.pois) e

/-- The field of every result that no rule gives another (R119). -/
def blkNone (_ _ : VSrc) : Option (BitVec 8) := some blkUnset

/-- The field of an LN6 product, and of an LN6 sign change (R123). -/
def blkMul (f : Fields) (a b : VSrc) : Option (BitVec 8) :=
  if f.fmt = 7 then blkSum a.x.blk b.x.blk else some blkUnset
def blkCopy (f : Fields) (a _ : VSrc) : Option (BitVec 8) :=
  if f.fmt = 7 then some a.x.blk else some blkUnset

/-- VADD (R122). -/
def execVadd (f : Fields) (s : State) : Host.Outcome State Fault Refusal :=
  vecOp (.vadd f) s (arithBody arAdd 2 blkNone f)

/-- VSUB (R122). -/
def execVsub (f : Fields) (s : State) : Host.Outcome State Fault Refusal :=
  vecOp (.vsub f) s (arithBody arSub 2 blkNone f)

/-- VMUL (R122, R123). -/
def execVmul (f : Fields) (s : State) : Host.Outcome State Fault Refusal :=
  vecOp (.vmul f) s (arithBody arMul 2 (blkMul f) f)

/-- VFMA (R122): rounds once. -/
def execVfma (f : Fields) (s : State) : Host.Outcome State Fault Refusal :=
  vecOp (.vfma f) s (arithBody arFma 3 blkNone f)

/-- VMIN (R122). -/
def execVmin (f : Fields) (s : State) : Host.Outcome State Fault Refusal :=
  vecOp (.vmin f) s (arithBody arMin 2 blkNone f)

/-- VMAX (R122). -/
def execVmax (f : Fields) (s : State) : Host.Outcome State Fault Refusal :=
  vecOp (.vmax f) s (arithBody arMax 2 blkNone f)

/-- VABS (R122, R123). -/
def execVabs (f : Fields) (s : State) : Host.Outcome State Fault Refusal :=
  vecOp (.vabs f) s (arithBody arAbs 1 (blkCopy f) f)

/-- VNEG (R122, R123). -/
def execVneg (f : Fields) (s : State) : Host.Outcome State Fault Refusal :=
  vecOp (.vneg f) s (arithBody arNeg 1 (blkCopy f) f)

/-! ### Bitwise operations and shifts (R124) -/

/-- A result of one element that draws no random number. -/
def pureElem (x : Nat) (g : BitVec 32) : (Nat × Bool) × BitVec 32 := ((x, false), g)

/-- The body of a bitwise operation or shift: both sources carry tag 1 (R124). -/
def bitBody (op : Nat → Nat → Nat) (f : Fields) (s : State) : Body State := do
  s.needLanes
  let a := s.st.vsrc f.a
  let b := s.st.vsrc f.b
  needFmt f a
  needFmt f b
  s.laneWise f (fun i g => pureElem (op (a.x.elem f.ew i) (b.x.elem f.ew i)) g)
    (a.x.pois ||| b.x.pois) blkUnset

/-- The shift amount of an element (R124). -/
def vshAmt (f : Fields) (b : Nat) : Nat :=
  ((intVal f.ew (iwSigned f.iw) b + (bitsN f.imm.toNat 8 6 : Nat)) % (f.ew : Int)).toNat

/-- VAND (R124). -/
def execVand (f : Fields) (s : State) : Host.Outcome State Fault Refusal :=
  vecOp (.vand f) s (bitBody (fun a b => a &&& b) f)

/-- VOR (R124). -/
def execVor (f : Fields) (s : State) : Host.Outcome State Fault Refusal :=
  vecOp (.vor f) s (bitBody (fun a b => a ||| b) f)

/-- VXOR (R124). -/
def execVxor (f : Fields) (s : State) : Host.Outcome State Fault Refusal :=
  vecOp (.vxor f) s (bitBody (fun a b => a ^^^ b) f)

/-- VSHL (R124): Sat under `.sat`. -/
def execVshl (f : Fields) (s : State) : Host.Outcome State Fault Refusal :=
  vecOp (.vshl f) s (bitBody (fun a b =>
    intBits f.ew (iwSigned f.iw) f.sat
      (intVal f.ew (iwSigned f.iw) a * (2 ^ vshAmt f b : Nat))) f)

/-- VSHR (R124). -/
def execVshr (f : Fields) (s : State) : Host.Outcome State Fault Refusal :=
  vecOp (.vshr f) s (bitBody (fun a b => a / 2 ^ vshAmt f b) f)

/-- VSAR (R124). -/
def execVsar (f : Fields) (s : State) : Host.Outcome State Fault Refusal :=
  vecOp (.vsar f) s (bitBody (fun a b =>
    wrapN f.ew (sextN f.ew a / (2 ^ vshAmt f b : Nat))) f)

/-! ### Compare, select, poison tests (R125 to R127) -/

/-- A condition of `vcmp` between two elements (R125). -/
def vcondHolds (c : VCond) (f : Fields) (a b : Nat) : Bool :=
  if f.fmt = 1 then
    let x := intVal f.ew (iwSigned f.iw) a
    let y := intVal f.ew (iwSigned f.iw) b
    match c with
    | .eq => a == b
    | .ne => a != b
    | .lt => decide (x < y)
    | .le => decide (x ≤ y)
    | .gt => decide (y < x)
    | .ge => decide (y ≤ x)
    | .un => false
    | .ord => false
  else
    let x := (fltOf f.fmt.toNat).val a
    let y := (fltOf f.fmt.toNat).val b
    match c with
    | .eq => x.eqv y
    | .ne => !x.eqv y
    | .lt => x.lt y
    | .le => x.lt y || x.eqv y
    | .gt => y.lt x
    | .ge => y.lt x || x.eqv y
    | .un => x.isNan || y.isNan
    | .ord => !x.isNan && !y.isNan

/-- A 64-bit mask of the indices that satisfy a test. -/
def maskOf (p : Nat → Bool) : BitVec 64 :=
  BitVec.ofNat 64 (packElems 1 ((List.range 64).map fun i => b2n (p i)))

/-- Writes the bits of a mask register that a mask selects; sets STATUS.PSN where asked (R56). -/
def State.wrK (s : State) (d : BitVec 8) (new sel : BitVec 64) (psn : Bool) : State :=
  s.modSt fun st =>
    { st.wk (opIdx d) ((new &&& sel) ||| (st.rk (opIdx d) &&& ~~~ sel)) with
      psn := st.psn || psn }

/-- VCMP (R125): element EL of each active lane. -/
def execVcmp (c : VCond) (f : Fields) (s : State) : Host.Outcome State Fault Refusal :=
  vecOp (.vcmp c f) s fun s => do
    s.needLanes
    let a := s.st.vsrc f.a
    let b := s.st.vsrc f.b
    needFmt f a
    needFmt f b
    let act := actOf f s.st
    let pz := (a.x.pois ||| b.x.pois) &&& act
    let m := maskOf fun i =>
      vcondHolds c f (a.x.elem f.ew (f.epl * i + f.part)) (b.x.elem f.ew (f.epl * i + f.part))
    (s.wrK f.d (m &&& ~~~ pz) act (pz != 0)).enterV

/-- VSEL (R126): equal block fields, the constant matching any. -/
def execVsel (f : Fields) (s : State) : Host.Outcome State Fault Refusal :=
  vecOp (.vsel f) s fun s => do
    s.needLanes
    let a := s.st.vsrc f.a
    let b := s.st.vsrc f.b
    needFmt f a
    needFmt f b
    guardT (!a.const && !b.const && a.x.blk != b.x.blk) .format
    let k := s.st.rk (opIdx f.c)
    let bits := (a.x.lanes &&& laneBits k) ||| (b.x.lanes &&& ~~~ laneBits k)
    let pz := (a.x.pois &&& k) ||| (b.x.pois &&& ~~~ k)
    (s.wrV f.d bits.toNat pz (actOf f s.st) f.fmt (if a.const then b.x.blk else a.x.blk)).enterV

/-- VPOIS (R127): no tag check and no claim trap; CLR clears what it reports. -/
def execVpois (f : Fields) (s : State) : Host.Outcome State Fault Refusal :=
  vecOp (.vpois f) s fun s =>
    let a := s.st.vsrc f.a
    let act := actOf f s.st
    let s1 := s.wrK f.d a.x.pois act false
    let s2 :=
      if f.imm.getLsbD 0 && !a.const then
        s1.modSt fun st => st.wv (opIdx f.a)
          { st.rv (opIdx f.a) with pois := (st.rv (opIdx f.a)).pois &&& ~~~ act }
      else s1
    s2.enterV

/-! ### Conversion (R128, R129) -/

/-- The real value of a source element of `vcvt` (R129). -/
def cvtSrc (f : Fields) (blk : BitVec 8) (x : Nat) : FVal :=
  match f.sf with
  | 1 => FVal.ofInt (intVal (32 / eplOf 1 f.siw) (iwSigned f.siw) x)
  | 7 => lnVal (x % 64) (blkInt blk)
  | 8 => FVal.ofInt x
  | 9 => FVal.ofInt x
  | 10 => (FVal.ofInt (sextN 16 x)).scale (blkInt blk)
  | 11 => (FVal.ofInt (sextN 8 x)).scale (blkInt blk)
  | n => (fltOf n).val x

/-- Whether the source of `vcvt` is an integer or a code (R129). -/
def cvtFromInt (f : Fields) : Bool := f.sf == 1 || f.sf == 8 || f.sf == 9

/-- An aligned `s8` element (R129): the rounded mantissa limited to ±127, a NaN a poisoned 0. -/
def toS8 (x : FVal) (md : Rm) (g : BitVec 32) : (Nat × Bool) × BitVec 32 :=
  let r := floatToInt x 8 true md g
  let v := sextN 8 r.1
  ((wrapN 8 (max (-127) v), x.isNan), r.2)

/-- The number that a value of an integer source stands for. -/
def fvalInt (x : FVal) : Int :=
  match x with
  | .fin s n d => FVal.sNum s (n / d)
  | _ => 0

/-- One converted element (R129). DEDUCED (log 20): SF = FMT = 1 copies the bits only where the two integer widths
agree; between different widths the value is converted by SAT, as the rule's integer row says. A copy with equal
exponents, a move and a store keep all 8 bits of an LN6 byte, bits [7:6] too, where R21 has them written as zero
(DESIGN CHOICE, log 20). -/
def cvtElem (f : Fields) (blkA blkC : BitVec 8) (x : Nat) (g : BitVec 32) :
    (Nat × Bool) × BitVec 32 :=
  let md := rmOf f.rnd
  let v := cvtSrc f blkA x
  let g1 := if md = .sr then lfsrNext g else g
  if f.sf = f.fmt.toNat ∧ (f.sf = 1 → f.siw = f.iw) ∧
      ((f.sf = 7 ∨ f.sf = 10 ∨ f.sf = 11) → blkInt blkA = blkInt blkC) then ((x, false), g1)
  else
    match f.fmt.toNat with
    | 1 =>
      if cvtFromInt f then ((intBits f.ew (iwSigned f.iw) f.sat (fvalInt v), false), g)
      else
        let r := floatToInt v f.ew (iwSigned f.iw) md g
        ((r.1, false), r.2)
    | 7 =>
      let r := linToLn v (blkInt blkC) md g
      ((r.1, false), r.2)
    | 10 =>
      let r := alignTo v (blkInt blkC)
      ((wrapN 16 r.1, r.2), g)
    | 11 => toS8 (v.scale (-blkInt blkC)) md g
    | n =>
      let r := roundF v (fltOf n) md f.sat g
      ((r.1, false), r.2)

/-- The image of a register in which each lane's part P takes `per` results (R128). -/
def partImage (old : VReg) (lo ew per : Nat) (rs : List Nat) : Nat :=
  packElems 32 ((List.range 64).map fun i =>
    let new := packElems ew ((rs.drop (per * i)).take per)
    (setBits (BitVec.ofNat 32 (old.lane i)) lo (ew * per) new).toNat)

/-- A conversion with parts (R128): ns elements of a lane to nd. The command then enters its
queue. -/
def State.partWise (s : State) (f : Fields) (ns nd : Nat) (src : VReg)
    (op : Nat → BitVec 32 → Nat → (Nat × Bool) × BitVec 32) (pois : BitVec 64) (tag : BitVec 4)
    (blk : BitVec 8) : Body State :=
  let per := min ns nd
  let from_ := if nd < ns then f.part * nd else 0
  let lo := if nd < ns then 0 else f.part * ns * (32 / nd)
  let old := s.st.rv (opIdx f.d)
  let r := runElems
    (fun e g => op (src.elem (32 / ns) (ns * (e / per) + from_ + e % per)) g
      (ns * (e / per) + from_ + e % per)) 0 (per * s.st.vl) s.st.rngs
  let s1 := s.modSt fun st => { st with rngs := r.2 }
  let pz := pois ||| poisonLanes per r.1 ||| (if nd < ns then 0 else old.pois)
  (s1.wrV f.d (partImage old lo (32 / nd) per (r.1.map (·.1))) pz (actOf f s.st) tag blk).enterV

/-- VCVT (R128, R129). -/
def execVcvt (f : Fields) (s : State) : Host.Outcome State Fault Refusal :=
  vecOp (.vcvt f) s fun s => do
    s.needLanes
    let a := s.st.vsrc f.a
    needTag f (BitVec.ofNat 4 f.sf) a
    let toBlk := f.fmt == 7 || f.fmt == 10 || f.fmt == 11
    let (c, s1) ← if toBlk then s.rdSrc f.c else pure ((0, false), s)
    let blkC : BitVec 8 := c.1.truncate 8
    guardT (toBlk && blkC == blkUnset) .blockExponent
    s1.partWise f (eplOf (BitVec.ofNat 4 f.sf) f.siw) f.epl a.x
      (fun x g _ => cvtElem f a.x.blk blkC x g)
      (a.x.pois ||| (if c.2 then BitVec.allOnes 64 else 0)) f.fmt (if toBlk then blkC else blkUnset)

/-! ### Reductions and scans (R130, R131) -/

/-- Integer operators at full width. -/
def redInt (op : RedOp) (w : Nat) (x y : Int) : Int :=
  match op with
  | .add => x + y
  | .min => if x ≤ y then x else y
  | .max => if y ≤ x then x else y
  | .and => (wrapN w x &&& wrapN w y : Nat)
  | .or => (wrapN w x ||| wrapN w y : Nat)
  | .xor => (wrapN w x ^^^ wrapN w y : Nat)

/-- The identity of an integer operator (R130). -/
def redIdInt (op : RedOp) (w : Nat) (sg : Bool) : Int :=
  match op with
  | .add => 0
  | .min => intMax w sg
  | .max => intMin w sg
  | .and => (2 ^ w : Nat) - 1
  | .or => 0
  | .xor => 0

/-- Float operators on FP32 codes (R130): the sum rounds by RND. -/
def redFlt (op : RedOp) (f : Fields) (x y : Nat) : Nat :=
  match op with
  | .min => fltMin fp32 x y
  | .max => fltMax fp32 x y
  | _ => (roundF (vsum f (fp32.val x) (fp32.val y)) fp32 (rmOf f.rnd) false 1).1

/-- The identity of a float operator as an FP32 code. -/
def redIdFlt (op : RedOp) : Nat :=
  match op with
  | .min => fp32.top false
  | .max => fp32.top true
  | _ => 0

/-- Whether an operator is bitwise. -/
def redBitwise (op : RedOp) : Bool :=
  match op with
  | .and | .or | .xor => true
  | _ => false

/-- One level of the pairwise tree. -/
def pairUp {α : Type} (op : α → α → α) : List α → List α
  | x :: y :: t => op x y :: pairUp op t
  | l => l

/-- The tree of R130 over k levels. -/
def treeFold {α : Type} (op : α → α → α) (xs : List α) : Nat → List α
  | 0 => xs
  | k + 1 => treeFold op (pairUp op xs) k

/-- The steps of R131: element e takes element e − d into account. -/
def scanSteps {α : Type} (op : α → α → α) (d : Nat) (xs : List α) : Nat → List α
  | 0 => xs
  | k + 1 => scanSteps op (2 * d) (xs.take d ++ List.zipWith op xs (xs.drop d)) k

/-- Number of tree levels over 64 × EPL elements. -/
def levelsOf (epl : Nat) : Nat := 6 + (if epl = 4 then 2 else epl - 1)

/-- The elements of A as integers, identity where the lane is off. -/
def redIntSrc (op : RedOp) (f : Fields) (x : VReg) (act : BitVec 64) : List Int :=
  (List.range (64 * f.epl)).map fun e =>
    if act.getLsbD (e / f.epl) then
      (if redBitwise op then ((x.elem f.ew e : Nat) : Int)
        else intVal f.ew (iwSigned f.iw) (x.elem f.ew e))
    else redIdInt op f.ew (iwSigned f.iw)

/-- The elements of A widened to FP32, identity where the lane is off. -/
def redFltSrc (op : RedOp) (f : Fields) (x : VReg) (act : BitVec 64) : List Nat :=
  (List.range (64 * f.epl)).map fun e =>
    if act.getLsbD (e / f.epl) then
      roundNe ((fltOf f.fmt.toNat).val (x.elem f.ew e)) fp32 false
    else redIdFlt op

/-- An integer result narrowed once (R91, R130); the root of a bitwise operator is its pattern. -/
def redNarrow (op : RedOp) (f : Fields) (r : Int) : Nat :=
  intBits f.ew (iwSigned f.iw) f.sat
    (if redBitwise op then intVal f.ew (iwSigned f.iw) r.toNat else r)

/-- VRED (R130). -/
def execVred (op : RedOp) (f : Fields) (s : State) : Host.Outcome State Fault Refusal :=
  vecOp (.vred op f) s fun s => do
    s.needLanes
    let a := s.st.vsrc f.a
    needFmt f a
    guardT (redBitwise op && f.fmt != 1) .format
    let act := actOf f s.st
    let r : Word :=
      if f.fmt = 1 then
        BitVec.ofInt 64 (intVal f.ew (iwSigned f.iw) (redNarrow op f
          ((treeFold (redInt op f.ew) (redIntSrc op f a.x act) (levelsOf f.epl)).headD 0)))
      else BitVec.ofNat 64
        ((treeFold (redFlt op f) (redFltSrc op f a.x act) (levelsOf f.epl)).headD 0)
    (s.wrG f.d r ((a.x.pois &&& act) != 0)).enterV

/-- The poison of a scan: that of active lanes 0 to i (R131). -/
def prefixPois (x : BitVec 64) : BitVec 64 :=
  maskOf fun i => (x &&& BitVec.ofNat 64 (2 ^ (i + 1) - 1)) != 0

/-- VSCAN (R131). -/
def execVscan (op : RedOp) (f : Fields) (s : State) : Host.Outcome State Fault Refusal :=
  vecOp (.vscan op f) s fun s => do
    s.needLanes
    let a := s.st.vsrc f.a
    needFmt f a
    guardT (redBitwise op && f.fmt != 1) .format
    let act := actOf f s.st
    let xs : List Nat :=
      if f.fmt = 1 then
        (scanSteps (redInt op f.ew) 1 (redIntSrc op f a.x act) (levelsOf f.epl)).map (redNarrow op f)
      else scanSteps (redFlt op f) 1 (redFltSrc op f a.x act) (levelsOf f.epl)
    (s.wrV f.d (packElems f.ew xs) (prefixPois (a.x.pois &&& act)) act f.fmt blkUnset).enterV

/-! ### Moves (R132) -/

/-- VPERM (R132): B carries tag 1. DEDUCED (log 20): a lane whose B[31] is 1 reads no lane of A, so its poison is that
of B alone. -/
def execVperm (f : Fields) (s : State) : Host.Outcome State Fault Refusal :=
  vecOp (.vperm f) s fun s => do
    s.needLanes
    let a := s.st.vsrc f.a
    let b := s.st.vsrc f.b
    needFmt f a
    needTag f 1 b
    let off := fun i => decide (2 ^ 31 ≤ b.x.lane i)
    let img := packElems 32 ((List.range 64).map fun i =>
      if off i then 0 else a.x.lane (b.x.lane i % 64))
    let pz := maskOf fun i =>
      b.x.pois.getLsbD i || (!off i && a.x.pois.getLsbD (b.x.lane i % 64))
    (s.wrV f.d img pz (actOf f s.st) f.fmt a.x.blk).enterV

/-- VBCAST (R132). -/
def execVbcast (f : Fields) (s : State) : Host.Outcome State Fault Refusal :=
  vecOp (.vbcast f) s fun s => do
    s.needLanes
    let (x, s1) ← s.rdSrc f.a
    (s1.wrV f.d (packElems 32 (List.replicate 64 x.1.toNat))
      (if x.2 then BitVec.allOnes 64 else 0) (actOf f s.st) f.fmt blkUnset).enterV

/-- The lane that `vext` and `vins` name (R132). -/
def laneIdx (f : Fields) (b : Word) : Nat := (b.toNat + bitsN f.imm.toNat 8 6) % 64

/-- VEXT (R132): only where the lane is active. -/
def execVext (f : Fields) (s : State) : Host.Outcome State Fault Refusal :=
  vecOp (.vext f) s fun s => do
    s.needLanes
    let a := s.st.vsrc f.a
    needFmt f a
    let (y, s1) ← s.rdSrc f.b
    let x := laneIdx f y.1
    if (actOf f s.st).getLsbD x then
      let v : Word := if f.fmt = 1 ∧ f.iw = 0 then BitVec.ofInt 64 (sextN 32 (a.x.lane x))
        else BitVec.ofNat 64 (a.x.lane x)
      (s1.wrG f.d v (a.x.pois.getLsbD x || y.2)).enterV
    else s1.enterV

/-- VINS (R132): D is a source too; one active lane takes A. -/
def execVins (f : Fields) (s : State) : Host.Outcome State Fault Refusal :=
  vecOp (.vins f) s fun s => do
    s.needLanes
    let d := s.st.vsrc f.d
    needFmt f d
    let (x, y, s1) ← s.rd2 f.a f.b
    let l := laneIdx f y.1
    (s1.wrV f.d (packElems 32 (List.replicate 64 x.1.toNat))
      (if x.2 || y.2 then BitVec.allOnes 64 else 0) (actOf f s.st &&& (1#64 <<< l))
      (if (actOf f s.st).getLsbD l then f.fmt else d.x.tag) d.x.blk).enterV

/-! ### Local vector loads and stores (R133, R134) -/

/-- The addresses of the active lanes, ascending: lane and address (R133). -/
def laneAddrs (f : Fields) (st : Strand) (base : Word) : List (Nat × Word) :=
  let c := st.vsrc f.c
  ((List.range 64).filter fun i => (actOf f st).getLsbD i).map fun i =>
    (i, base + (if f.c = 0 then BitVec.ofNat 64 (4 * i) else BitVec.ofNat 64 (c.x.lane i)))

/-- The checks of every active lane (R102, R133): poison, then range, then alignment. -/
def State.laneChecks (s : State) (f : Fields) (pois : Bool) (as : List (Nat × Word)) :
    Body Unit := do
  let c := s.st.vsrc f.c
  guardT (as.any fun a => pois || (f.c != 0 && c.x.pois.getLsbD a.1)) .poison
  guardT (as.any fun a => s.rangeBad a.2.toNat 4) .localRange
  guardT (as.any fun a => a.2.toNat % 4 != 0) .alignment

/-- The waits of the lanes' accesses, taken together (R190). -/
def State.laneWaits (s : State) (as : List (Nat × Word)) : Body Unit :=
  s.waitsAt true true (as.map fun a => (a.2.toNat, 4))

/-- Loads the lanes in order: lane, value, poison. -/
def State.laneLoads (s : State) : List (Nat × Word) → List (Nat × Nat × Bool) × State
  | [] => ([], s)
  | a :: t =>
    let (v, s1) := s.loadLocal a.2.toNat 4
    let (vs, s2) := s1.laneLoads t
    ((a.1, v.1, v.2) :: vs, s2)

/-- VLD (R133, R134). -/
def execVld (f : Fields) (s : State) : Host.Outcome State Fault Refusal :=
  vecOp (.vld f) s fun s => do
    s.needLanes
    if f.c ≠ 0 then needTag f 1 (s.st.vsrc f.c)
    let (x, y, s1) ← s.rd2 f.a f.b
    let as := laneAddrs f s.st (eaOf x.1 y.1 4 f.imm)
    s1.laneChecks f (x.2 || y.2) as
    s1.laneWaits as
    let (vs, s2) := s1.laneLoads as
    let find := fun i => (vs.find? fun v => v.1 == i).map (·.2)
    let img := packElems 32 ((List.range 64).map fun i => ((find i).getD (0, false)).1)
    let pz := maskOf fun i => ((find i).getD (0, false)).2
    (s2.wrV f.d img pz (actOf f s.st) f.fmt blkUnset).enterV

/-- VST (R133, R134): lanes in ascending order. -/
def execVst (f : Fields) (s : State) : Host.Outcome State Fault Refusal :=
  vecOp (.vst f) s fun s => do
    s.needLanes
    if f.c ≠ 0 then needTag f 1 (s.st.vsrc f.c)
    let d := s.st.vsrc f.d
    needFmt f d
    let (x, y, s1) ← s.rd2 f.a f.b
    let as := laneAddrs f s.st (eaOf x.1 y.1 4 f.imm)
    s1.laneChecks f (x.2 || y.2) as
    guardT (!f.sat && (as.any fun a => d.x.pois.getLsbD a.1)) .poison
    s1.laneWaits as
    (as.foldl (fun s a =>
      s.putLocal a.2.toNat (natToBytes 4 (d.x.lane a.1)) (d.x.pois.getLsbD a.1)) s1).enterV

/-! ### Lane claims (R120, R121) -/

/-- Lane groups of a tile that no strand holds (R49, R120). -/
def Tile.freeGroups (t : Tile) : Nat :=
  8 - (t.strands.foldl (fun n p => if p.2.folw then n else n + p.2.vl / 8) 0)

/-- The claim request that waits at the head of the queue: its record, MIN and MAX (R120). -/
def Tile.claimHead (t : Tile) : Option (Nat × Nat × Nat) :=
  match t.vwait with
  | [] => none
  | r :: _ =>
    match (t.strands.val {} r).vreq with
    | some (lo, hi, _) => some (r, lo, hi)
    | none => none

/-- Whether the head of the claim queue can be granted (R120). -/
def Tile.claimReady (t : Tile) : Bool :=
  match t.claimHead with
  | some (_, lo, _) => decide (lo ≤ t.freeGroups)
  | none => false

/-- Grants the head of the claim queue (R120): its request is marked granted, and its `vclaim`
completes when it issues again. -/
def Tile.grantHead (t : Tile) : Tile :=
  match t.claimHead with
  | some (r, lo, hi) =>
    if lo ≤ t.freeGroups then
      ({ t with vwait := t.vwait.drop 1 } : Tile).modStrand r fun st =>
        { st with vl := 8 * min hi t.freeGroups, vreq := st.vreq.map fun q => (0, 0, q.2.2),
                  vc := 0 }
    else t
  | none => t

/-- VCLAIM (R120): the grant is released and the request enters the queue at issue; where the head
of the queue cannot be served the strand waits in its slot. -/
def execVclaim (f : Fields) (s : State) : Host.Outcome State Fault Refusal :=
  guardedOp (.vclaim f) f s fun s =>
    let done (s : State) : Body State :=
      .ok ((s.modSt fun st => { st with vreq := none }).wrG f.d (BitVec.ofNat 64 s.st.vl) false)
    match s.st.vreq with
    | some (0, _, _) => done s
    | some _ => stallE (some 8) false
    | none =>
      if s.st.vq ≠ 0 then stallE (some 8) false
      else
        let lo := bitsN f.imm.toNat 4 3 + 1
        let hi := bitsN f.imm.toNat 0 3 + 1
        let s1 := (s.modSt fun st => { st with vl := 0, vreq := some (lo, hi, f.d) }).modTl
          fun t => { t with vwait := t.vwait ++ [s.curRec] }
        let s2 := if s1.tl.vwait.length = 1 then s1.modTl Tile.grantHead else s1
        match s2.st.vreq with
        | some (0, _, _) => done s2
        | _ => .error (.hold s1 { idle := some 8 })

/-- VYIELD (R121): once every earlier vector command has completed. -/
def execVyield (f : Fields) (s : State) : Host.Outcome State Fault Refusal :=
  guardedOp (.vyield f) f s fun s =>
    if s.st.vq ≠ 0 then stallE (some 8) false
    else .ok (s.modSt fun st => { st with vl := 0 })

/-! ### Block exponents and quantization (R135, R136) -/

/-- The values of the elements of the active lanes. -/
def activeVals (f : Fields) (x : VReg) (act : BitVec 64) : List FVal :=
  ((List.range (64 * f.epl)).filter fun e => act.getLsbD (e / f.epl)).map fun e =>
    (fltOf f.fmt.toNat).val (x.elem f.ew e)

/-- VBLK (R135): the exponent BlkChoose picks for the active lanes. -/
def execVblk (f : Fields) (s : State) : Host.Outcome State Fault Refusal :=
  vecOp (.vblk f) s fun s => do
    s.needLanes
    let a := s.st.vsrc f.a
    needFmt f a
    let act := actOf f s.st
    (s.wrG f.d (BitVec.ofInt 64 (blkChoose (activeVals f a.x act)))
      ((a.x.pois &&& act) != 0)).enterV

/-- VBLK_SET (R135): attaches a block field. -/
def execVblkSet (f : Fields) (s : State) : Host.Outcome State Fault Refusal :=
  vecOp (.vblkSet f) s fun s => do
    s.needLanes
    let a := s.st.vsrc f.a
    needFmt f a
    let (y, s1) ← s.rdSrc f.b
    (s1.wrV f.d a.x.lanes.toNat (if y.2 then BitVec.allOnes 64 else a.x.pois) (actOf f s.st) f.fmt
      (y.1.truncate 8)).enterV

/-- A plane code (R136): the code, and whether it poisons its lane. -/
def planeCode (x sc : FVal) (zp k : Nat) (md : Rm) (g : BitVec 32) : (Nat × Bool) × BitVec 32 :=
  let top := 2 ^ k - 1
  let g1 := if md = .sr then lfsrNext g else g
  match x, sc with
  | .nan, _ => ((0, true), g1)
  | _, .nan => ((0, true), g1)
  | _, .inf _ => ((0, true), g1)
  | x, .fin t sn sd =>
    if t ∨ sn = 0 then ((0, true), g1)
    else
      match x with
      | .nan => ((0, true), g1)
      | .inf neg => ((if neg then 0 else top, false), g1)
      | .fin neg n d =>
        let r := roundMag md neg (n * sd) (d * sn) g
        (((min (top : Int) (max 0 (FVal.sNum neg r.1 + (zp : Int)))).toNat, false), r.2)

/-- VQ_PC (R136). -/
def execVqPc (f : Fields) (s : State) : Host.Outcome State Fault Refusal :=
  vecOp (.vqPc f) s fun s => do
    s.needLanes
    let a := s.st.vsrc f.a
    let b := s.st.vsrc f.b
    needFmt f a
    needFmt f b
    let (c, s1) ← s.rdSrc f.c
    let zp := bitsN c.1.toNat 0 8
    let k := bitsN c.1.toNat 8 3 + 1
    let v := fun x => (fltOf f.fmt.toNat).val x
    let ew := 32 / eplOf f.fmt 0
    s1.partWise f (eplOf f.fmt 0) 4 a.x
      (fun x g e => planeCode (v x) (v (b.x.elem ew e)) zp k (rmOf f.rnd) g)
      (a.x.pois ||| b.x.pois ||| (if c.2 then BitVec.allOnes 64 else 0)) 8 (BitVec.ofNat 8 (k - 1))

/-- |x − y|. -/
def distance (x y : FVal) : FVal := (x.add false y.neg).abs

/-- The usable entries of a codebook: index and value, NaR skipped (R136). -/
def usable (book : List Nat) (blk : Int) : List (Nat × FVal) :=
  ((List.range book.length).zip book).filterMap fun p =>
    if p.2 % 64 = 0x20 then none else some (p.1, lnVal (p.2 % 64) blk)

/-- The first entry that no other beats. -/
def bestBy (better : FVal → FVal → Bool) : List (Nat × FVal) → Option (Nat × FVal)
  | [] => none
  | e :: t =>
    match bestBy better t with
    | none => some e
    | some r => if better r.2 e.2 then some r else some e

/-- The index of a value in a codebook (R136). -/
def bookIndex (es : List (Nat × FVal)) (x : FVal) : Nat × Bool :=
  let r := match x with
    | .nan => none
    | .inf false => bestBy (fun p q => q.lt p) es
    | .inf true => bestBy (fun p q => p.lt q) es
    | x => bestBy (fun p q => (distance x p).lt (distance x q)) es
  match r with
  | some e => (e.1, false)
  | none => (0, true)

/-- VQ_CB (R136): the codebook lies in lanes 0 to 3 of B. -/
def execVqCb (f : Fields) (s : State) : Host.Outcome State Fault Refusal :=
  vecOp (.vqCb f) s fun s => do
    s.needLanes
    let a := s.st.vsrc f.a
    let b := s.st.vsrc f.b
    needFmt f a
    needTag f 7 b
    let (c, s1) ← s.rdSrc f.c
    let n := bitsN c.1.toNat 0 4 + 1
    let es := usable ((List.range n).map fun j => b.x.elem 8 j) (blkInt b.x.blk)
    let bookPois := (List.range ((n + 3) / 4)).any fun i => b.x.pois.getLsbD i
    s1.partWise f (eplOf f.fmt 0) 4 a.x
      (fun x g _ => (bookIndex es ((fltOf f.fmt.toNat).val x), g))
      (a.x.pois ||| (if c.2 || bookPois then BitVec.allOnes 64 else 0)) 9
      (BitVec.ofNat 8 (n - 1))

/-! ### The piecewise-polynomial unit (R137 to R140) -/

/-- A word of a PWL segment: 0 is bp, 1 to 4 are c0 to c3. -/
def Tile.seg (t : Tile) (sg w : Nat) : Nat := (t.pwl.val 0 (5 * sg + w)).toNat

/-- The words of a table in local memory. -/
def State.pwlWords (s : State) (ea n : Nat) : List (BitVec 32) :=
  (List.range (5 * n)).map fun j => BitVec.ofNat 32 (s.ldNum s.cur (ea + 4 * j) 4)

/-- Whether breakpoints are no table: a NaN, or one below the one before (R138). -/
def bpBad : List FVal → Bool
  | [] => false
  | [x] => x.isNan
  | x :: y :: t => x.isNan || y.lt x || bpBad (y :: t)

/-- The table of a word list. -/
def pwlMap (ws : List (BitVec 32)) : SMap (BitVec 32) := (List.range ws.length).zip ws

/-- PWLSET (R138). -/
def execPwlset (f : Fields) (s : State) : Host.Outcome State Fault Refusal :=
  guardedOp (.pwlset f) f s fun s => do
    let n := bitsN f.imm.toNat 0 6 + 1
    let (x, s1) ← s.rdSrc f.a
    s1.localCheck x.1 (20 * n) 4 x.2
    let s2 := s1.meetFlips s1.cur x.1.toNat (20 * n)
    let ws := s2.pwlWords x.1.toNat n
    let bps := (List.range n).map fun j => fp32.val (ws.getD (5 * j) 0).toNat
    guardMet s x.1.toNat (20 * n) (bpBad bps) .pwlTable
    guardMet s x.1.toNat (20 * n) (s2.ldPois s2.cur x.1.toNat (20 * n)) .poison
    (s2.modTl fun t => { t with pwl := pwlMap ws, pwln := n }).enterV

/-- The segment of a value (R139): the largest with bp ≤ x, or 0. -/
def Tile.segOf (t : Tile) (x : FVal) : Nat → Nat
  | 0 => 0
  | n + 1 => if x.lt (fp32.val (t.seg n 0)) then t.segOf x n else n

/-- One FMA of R139, rounded to nearest even. -/
def fma32 (a b c : Nat) : Nat :=
  roundNe (((fp32.val a).mul (fp32.val b)).add false (fp32.val c)) fp32 false

/-- The polynomial of R139. -/
def Tile.pwlEval (t : Tile) (x : Nat) : Nat :=
  let v := fp32.val x
  if v.isNan then fp32.nan
  else
    let j := t.segOf v t.pwln
    let d := roundNe (v.add false (fp32.val (t.seg j 0)).neg) fp32 false
    let t1 := fma32 (t.seg j 4) d (t.seg j 3)
    let t2 := fma32 t1 d (t.seg j 2)
    fma32 t2 d (t.seg j 1)

/-- VPWL (R139, R140). -/
def execVpwl (f : Fields) (s : State) : Host.Outcome State Fault Refusal :=
  vecOp (.vpwl f) s fun s => do
    s.needLanes
    let a := s.st.vsrc f.a
    needFmt f a
    guardT (s.tl.pwln == 0) .pwlTable
    s.laneWise f (fun i g => pureElem (s.tl.pwlEval (a.x.elem f.ew i)) g) a.x.pois blkUnset

end Sys2Proof.Machine
end

