-- ==== Sys2Proof/Machine/Mask.lean ====
section
/-! DEFINITION. The mask instructions (R141). -/

namespace Sys2Proof.Machine

/-- A binary or unary mask operation under P: the other bits keep (R141). -/
def maskBody (op : BitVec 64 → BitVec 64 → BitVec 64) (f : Fields) (s : State) : Body State :=
  (s.wrK f.d (op (s.st.rk (opIdx f.a)) (s.st.rk (opIdx f.b))) (predMask f s.st) false).enterV

/-- KAND (R141). -/
def execKand (f : Fields) (s : State) : Host.Outcome State Fault Refusal :=
  strandOp (.kand f) s (maskBody (fun a b => a &&& b) f)

/-- KOR (R141). -/
def execKor (f : Fields) (s : State) : Host.Outcome State Fault Refusal :=
  strandOp (.kor f) s (maskBody (fun a b => a ||| b) f)

/-- KXOR (R141). -/
def execKxor (f : Fields) (s : State) : Host.Outcome State Fault Refusal :=
  strandOp (.kxor f) s (maskBody (fun a b => a ^^^ b) f)

/-- KNOT (R141). -/
def execKnot (f : Fields) (s : State) : Host.Outcome State Fault Refusal :=
  strandOp (.knot f) s (maskBody (fun a _ => ~~~ a) f)

/-- KPOP (R141): the ones of A under P. -/
def execKpop (f : Fields) (s : State) : Host.Outcome State Fault Refusal :=
  strandOp (.kpop f) s fun s =>
    (s.wrG f.d (BitVec.ofNat 64 (popFrom (s.st.rk (opIdx f.a) &&& predMask f s.st).toNat 64))
      false).enterV

/-- KFIRST (R141): the lowest one of A under P, or 64. -/
def execKfirst (f : Fields) (s : State) : Host.Outcome State Fault Refusal :=
  strandOp (.kfirst f) s fun s =>
    (s.wrG f.d (BitVec.ofNat 64 (ctzFrom (s.st.rk (opIdx f.a) &&& predMask f s.st).toNat 0 64))
      false).enterV

/-- KMOV (R141): a `g` destination is written whole; a poisoned `g` source writes zeros and sets
STATUS.PSN. -/
def execKmov (f : Fields) (s : State) : Host.Outcome State Fault Refusal :=
  strandOp (.kmov f) s fun s => do
    let p := predMask f s.st
    if isK f.a then
      let x := s.st.rk (opIdx f.a)
      if isK f.d then (s.wrK f.d x p false).enterV else (s.wrG f.d (x &&& p) false).enterV
    else
      let (x, s1) ← s.rdSrc f.a
      (s1.wrK f.d (if x.2 then 0 else x.1) p x.2).enterV

end Sys2Proof.Machine
end

