-- ==== Sys2Proof/Machine/Table.lean ====
section
/-! DEFINITION. The table engine's instructions: claims, register moves, table builds, lookups,
results and checksums (R50 to R54, R143 to R170). -/

namespace Sys2Proof.Machine

/-! ### Claim registers (R50, R51) -/

/-- First byte of an element in the register's storage (R51, R151). -/
def mByte (fmt : BitVec 4) (r c : Nat) : Nat :=
  if cForm fmt then 64 * r + c else 256 * r + esOf fmt * c

/-- Element (r, c) of an `m` register, its storage read in a format (R151). -/
def MReg.el (x : MReg) (fmt : BitVec 4) (r c : Nat) : Nat :=
  bitsN x.data.toNat (8 * mByte fmt r c) (8 * esOf fmt)

/-- Whether the element of its own tag that covers a byte of storage is poisoned (R151). -/
def MReg.bytePois (x : MReg) (b : Nat) : Bool :=
  if cForm x.tag then x.pois.getLsbD b
  else decide (b % 256 / esOf x.tag < 64) && x.pois.getLsbD (64 * (b / 256) + b % 256 / esOf x.tag)

/-- The poison of element (r, c) as read in a format (R151). -/
def MReg.elPois (x : MReg) (fmt : BitVec 4) (r c : Nat) : Bool :=
  (List.range (esOf fmt)).any fun j => x.bytePois (mByte fmt r c + j)

/-- A storage image in a format, row by row; what lies past column 63 is zero (R51). -/
def mImage (fmt : BitVec 4) (el : Nat → Nat → Nat) : BitVec 32768 :=
  BitVec.ofNat 32768 (packElems (if cForm fmt then 512 else 2048)
    ((List.range (rowsOf fmt)).map fun r =>
      packElems (8 * esOf fmt) ((List.range 64).map fun c => el r c)))

/-- Element bits of rows of 64, one bit each. -/
def bits64 (rows : Nat) (p : Nat → Nat → Bool) : Nat :=
  packElems 64 ((List.range rows).map fun r =>
    packElems 1 ((List.range 64).map fun c => b2n (p r c)))

/-- C(r, n) and stage(r, n) of an `a` register. -/
def AReg.cAt (x : AReg) (r n : Nat) : Nat := bitsN x.c.toNat (32 * (64 * r + n)) 32
def AReg.stAt (x : AReg) (r n : Nat) : Int := sextN 48 (bitsN x.stage.toNat (48 * (64 * r + n)) 48)
def AReg.poisAt (x : AReg) (r n : Nat) : Bool := x.pois.getLsbD (64 * r + n)

/-- The visible part, the stage and the poison of an `a` register from their elements. -/
def aImage (f : Nat → Nat → Nat) : BitVec 32768 :=
  BitVec.ofNat 32768 (packElems 2048 ((List.range 16).map fun r =>
    packElems 32 ((List.range 64).map fun n => f r n)))
def stImage (f : Nat → Nat → Int) : BitVec 49152 :=
  BitVec.ofNat 49152 (packElems 3072 ((List.range 16).map fun r =>
    packElems 48 ((List.range 64).map fun n => wrapN 48 (f r n))))
def apImage (f : Nat → Nat → Bool) : BitVec 1024 := BitVec.ofNat 1024 (bits64 16 f)

/-- Entry i of a table. -/
def TbReg.ent (x : TbReg) (i : Nat) : Int := sextN 20 (bitsN x.ents.toNat (20 * i) 20)

/-- Pool registers by claim slot and specifier (R50). -/
def mIdx (c : Nat) (sp : BitVec 8) : Nat := 8 * c + opIdx sp
def aIdx (c : Nat) (sp : BitVec 8) : Nat := 4 * c + opIdx sp
def tbIdx (c : Nat) (sp : BitVec 8) : Nat := 2 * c + opIdx sp
def Tile.rm (t : Tile) (j : Nat) : MReg := t.m.val {} j
def Tile.ra (t : Tile) (j : Nat) : AReg := t.a.val {} j
def Tile.rtb (t : Tile) (j : Nat) : TbReg := t.tb.val {} j
def State.putA (s : State) (j : Nat) (x : AReg) : State :=
  s.modTl fun t => { t with a := t.a.put j x }
def State.putTb (s : State) (j : Nat) (x : TbReg) : State :=
  s.modTl fun t => { t with tb := t.tb.put j x }

/-! ### Claims (R52, R147, R148) -/

/-- ERRINJ once a claim slot is released or granted: an armed flip of one of its accumulators is
abandoned (R265). -/
def errinjLeave (x : Word) (c : Nat) : Word :=
  if errTgt x == 3 && errArm x && bitsN x.toNat 52 2 == c then errinjDropped x else x

/-- The registers of a slot as a grant sets them (R52). -/
def Tile.clearSlot (t : Tile) (c : Nat) : Tile :=
  { t with
    errinj := errinjLeave t.errinj c
    m := (List.range 8).foldl (fun m j => m.put (8 * c + j) {}) t.m
    a := (List.range 4).foldl (fun a j => a.put (4 * c + j) {}) t.a
    tb := (List.range 2).foldl (fun b j => b.put (2 * c + j) {}) t.tb }

/-- The lowest claim slot that no strand holds (R147). -/
def Tile.freeSlot (t : Tile) : Option Nat :=
  (List.range 4).find? fun c => t.strands.all fun p => p.2.folw || p.2.claim != some c

/-- Whether the head of the claim queue can be granted (R147). -/
def Tile.mclaimReady (t : Tile) : Bool := !t.mwait.isEmpty && t.freeSlot.isSome

/-- Grants a free slot to the head of the claim queue (R147): its D is written, and it counts as a strand
that has not started a table command (R168). -/
def Tile.grantClaim (t : Tile) : Tile :=
  match t.mwait, t.freeSlot with
  | r :: rest, some c =>
    let d := (t.strands.val {} r).mreq.getD 0xff
    ((({ t with mwait := rest, tlast := t.tlast.filter (· != r) } : Tile).clearSlot c).modStrand r fun st =>
      { st with claim := some c, mreq := none }).lateG r d (BitVec.ofNat 64 c) false
  | _, _ => t

/-- Withdraws a waiting request (R148): its `mclaim` writes all ones. -/
def Tile.withdrawClaim (t : Tile) (r : Nat) : Tile :=
  let d := (t.strands.val {} r).mreq.getD 0xff
  (({ t with mwait := t.mwait.filter (· != r) } : Tile).modStrand r fun st => { st with mreq := none }).lateG r d
    (BitVec.allOnes 64) false

/-- Releases a strand's claim (R148): the slot's contents are discarded, and the slot passes to the head of
the claim queue. -/
def Tile.releaseClaim (t : Tile) (r : Nat) : Tile :=
  match (t.strands.val {} r).claim with
  | some c => ((t.clearSlot c).modStrand r fun st => { st with claim := none }).grantClaim
  | none => t

/-- A request enters the claim queue, and is granted at once where it can be (R147). -/
def Tile.askClaim (t : Tile) (r : Nat) (d : BitVec 8) : Tile :=
  let t1 := ({ t with mwait := t.mwait ++ [r] } : Tile).modStrand r fun st => { st with mreq := some d }
  if t.mwait.isEmpty then t1.grantClaim else t1

/-- `mrel` takes effect (R148): a request still waiting is withdrawn, else the claim is released. -/
def Tile.endClaim (t : Tile) (r : Nat) : Tile :=
  if (t.strands.val {} r).mreq.isSome then t.withdrawClaim r else t.releaseClaim r

/-- The claim commands at the head of a strand's queue take effect: every earlier command of the strand has
completed, and they never occupy the engine (R147, R148). -/
def Tile.settle (t : Tile) (r : Nat) : Nat → Tile
  | 0 => t
  | n + 1 =>
    match (t.strands.val {} r).tq with
    | [] => t
    | c :: rest =>
      let t1 := t.modStrand r fun st => { st with tq := rest }
      match c.instr with
      | .mclaim f => (t1.askClaim r f.d).settle r n
      | .mrel _ => (t1.endClaim r).settle r n
      | _ => t

/-- The claim that a strand holds by program order (R170): a slot, 4 for one that is not granted yet and reads
as a fresh grant (R52), or none. -/
def Strand.claimNow (st : Strand) : Option Nat :=
  st.tq.foldl (fun acc c => match c.instr with
    | .mclaim _ => some 4
    | .mrel _ => none
    | _ => acc) (if st.mreq.isSome then some 4 else st.claim)

/-- The claim slot of the issuing strand by program order; without one a table command traps (R50, R170). -/
def State.claimed (s : State) : Body Nat :=
  match s.st.claimNow with
  | some c => .ok c
  | none => trapE .claim

/-- A claim command enters the strand's queue and takes effect once it is its head (R145, R147, R148). -/
def State.enterClaim (s : State) (i : Instr) : Body State := do
  let s1 ← s.enterT { instr := i }
  pure (s1.modTl fun t => t.settle s.curRec 3)

/-- MCLAIM (R147). -/
def execMclaim (f : Fields) (s : State) : Host.Outcome State Fault Refusal :=
  strandOp (.mclaim f) s fun s => do
    guardT s.st.claimNow.isSome .claim
    s.enterClaim (.mclaim f)

/-- MREL (R148). -/
def execMrel (f : Fields) (s : State) : Host.Outcome State Fault Refusal :=
  strandOp (.mrel f) s fun s => do
    guardT s.st.claimNow.isNone .claim
    s.enterClaim (.mrel f)

/-! ### Moving tiles (R149 to R151) -/

/-- The checks of a move (R149): the ranges byte by byte of the active columns. DEDUCED (log 18): poison of A, B and C
and the alignment of EA and RS are of no byte, and are checked with no column active too. -/
def State.moveCheck (s : State) (p : MovePlan) (es : List (Nat × Nat)) (pois : Bool) :
    Body Unit := do
  guardT pois .poison
  guardT (es.any fun e => s.rangeBad (p.at_ e.1 e.2) p.es 1) .localRange
  guardT (p.ea % p.es != 0 || p.rs % p.es != 0) .alignment

/-- The waits of a move at issue, for what program order puts before it: an acquire (R220), a drain (R106), a
sync word (R234). Its banks it waits for at the head of its queue (R168). -/
def State.moveWaits (s : State) (p : MovePlan) (es : List (Nat × Nat)) : Body Unit :=
  s.waitsAt false (!es.isEmpty) (es.map fun e => (p.at_ e.1 e.2, p.es))

/-- Loads the active elements: row, column, value, poison. -/
def State.moveLoads (s : State) (p : MovePlan) :
    List (Nat × Nat) → List ((Nat × Nat) × Nat × Bool) × State
  | [] => ([], s)
  | e :: t =>
    let (v, s1) := s.loadLocal (p.at_ e.1 e.2) p.es
    let (vs, s2) := s1.moveLoads p t
    ((e, v.1, v.2) :: vs, s2)

/-- The loaded value of an element, if it was active. -/
def loaded (vs : List ((Nat × Nat) × Nat × Bool)) (r c : Nat) : Option (Nat × Bool) :=
  (vs.find? fun v => v.1 == (r, c)).map (·.2)

/-- GEN of an `m` register steps; a wrap marks the tables built from it (R53, R54). -/
def Tile.bumpGen (t : Tile) (j : Nat) : Tile :=
  let g := (t.rm j).gen + 1
  { t with
    m := t.m.put j { t.rm j with gen := g }
    tb := if g = 0 then t.tb.mapVals fun _ b =>
        if b.tag != 0 && b.src == j then { b with changed := true } else b
      else t.tb }

/-- The block field that `mld` gives (R150). -/
def mldBlk (fmt : BitVec 4) (layout : Word) : BitVec 8 :=
  if fmt = 7 ∨ fmt = 8 ∨ fmt = 9 ∨ fmt = 10 ∨ fmt = 11 then BitVec.ofNat 8 (bitsN layout.toNat 32 8)
  else blkUnset

/-- A layout whose BF is no descriptor of the codes loaded (R150). -/
def mldBfBad (fmt : BitVec 4) (layout : Word) : Bool :=
  (fmt == 8 && bitsN layout.toNat 35 5 != 0) || (fmt == 9 && bitsN layout.toNat 36 4 != 0)

/-- What a started `mld` does (R150). -/
def State.runMld (s : State) (cl : Nat) (f : Fields) (c : TCmd) : State :=
  let p := movePlan f c.x.1 c.y.1 c.z.1
  let (vs, s2) := s.moveLoads p (p.elems c.mask)
  let j := mIdx cl f.d
  let old := s2.tl.rm j
  let el := fun r c => match loaded vs r c with
    | some v => v.1
    | none => old.el f.fmt r c
  let pz := fun r c => match loaded vs r c with
    | some v => v.2
    | none => old.pois.getLsbD (64 * r + c)
  let new : MReg := { old with
    data := mImage f.fmt el, pois := BitVec.ofNat 4096 (bits64 p.rows pz),
    tag := f.fmt, blk := mldBlk f.fmt c.z.1 }
  s2.modTl fun t => ({ t with m := t.m.put j new } : Tile).bumpGen j

/-- What a started `ald` does (R150): the stage, eA and SOVF stay. -/
def State.runAld (s : State) (cl : Nat) (f : Fields) (c : TCmd) : State :=
  let p := movePlan f c.x.1 c.y.1 c.z.1
  let (vs, s2) := s.moveLoads p (p.elems c.mask)
  let j := aIdx cl f.d
  let old := s2.tl.ra j
  s2.putA j { old with
    c := aImage fun r n => match loaded vs r n with
      | some v => v.1
      | none => old.cAt r n
    pois := apImage fun r n => match loaded vs r n with
      | some v => v.2
      | none => old.poisAt r n }

/-- Runs of bytes that follow one another, from elements in the order they are written. -/
def joinRuns (n : Nat) : List (Nat × Nat × Bool) → List (Nat × List PByte)
  | [] => []
  | e :: t =>
    let bs : List PByte := (natToBytes n e.2.1).map fun b => (b, e.2.2)
    match joinRuns n t with
    | (a, cs) :: rest => if a = e.1 + n then (e.1, bs ++ cs) :: rest else (e.1, bs) :: (a, cs) :: rest
    | [] => [(e.1, bs)]

/-- Whether a byte belongs to the wait descriptor of a record of the pool (R175). -/
def descByte (a : Nat) : Bool := decide (poolBase ≤ a) && decide (16 ≤ a % 64) && decide (a % 64 < 24)

/-- The parts of a run of bytes that lie outside the wait descriptors, each with its address. -/
def offDesc (a : Nat) : List PByte → List (Nat × List PByte)
  | [] => []
  | b :: t =>
    if descByte a then offDesc (a + 1) t
    else match offDesc (a + 1) t with
      | (x, cs) :: rest => if x = a + 1 then (a, b :: cs) :: rest else (a, [b]) :: (x, cs) :: rest
      | [] => [(a, [b])]

/-- Writes local bytes with their own poison; the wait descriptors of the pool stand (R175). -/
def State.putRun (s : State) (ea : Nat) (bs : List PByte) : State :=
  if ea + bs.length ≤ poolBase then s.stP s.cur ea bs
  else (offDesc ea bs).foldl (fun s r => s.stP s.cur r.1 r.2) s

/-- Stores a list of elements in order: address, value, poison; runs of them write their granules whole (R103,
R348). -/
def State.storeElems (s : State) (n : Nat) (es : List (Nat × Nat × Bool)) : State :=
  (joinRuns n es).foldl (fun s r => s.putRun r.1 r.2) s

/-- What a started `mst` does (R151). -/
def State.runMst (s : State) (cl : Nat) (f : Fields) (c : TCmd) : State :=
  let p := movePlan f c.x.1 c.y.1 c.z.1
  let m := s.tl.rm (mIdx cl f.d)
  s.storeElems p.es ((p.elems c.mask).map fun e =>
    (p.at_ e.1 e.2, m.el f.fmt e.1 e.2, m.elPois f.fmt e.1 e.2))

/-- What a started `ast` does (R151). -/
def State.runAst (s : State) (cl : Nat) (f : Fields) (c : TCmd) : State :=
  let p := movePlan f c.x.1 c.y.1 c.z.1
  let a := s.tl.ra (aIdx cl f.d)
  s.storeElems p.es ((p.elems c.mask).map fun e => (p.at_ e.1 e.2, a.cAt e.1 e.2, a.poisAt e.1 e.2))

/-- MLD (R149, R150). -/
def execMld (f : Fields) (s : State) : Host.Outcome State Fault Refusal :=
  strandOp (.mld f) s fun s => do
    let _ ← s.claimed
    let (x, y, z, s1) ← s.rd3 f.a f.b f.c
    let p := movePlan f x.1 y.1 z.1
    let mask := predMask f s.st
    s1.moveCheck p (p.elems mask) (x.2 || y.2 || z.2)
    guardT (mldBfBad f.fmt z.1) .format
    s1.moveWaits p (p.elems mask)
    s1.enterT { instr := .mld f, x := x, y := y, z := z, mask := mask }

/-- MST (R149, R151). -/
def execMst (f : Fields) (s : State) : Host.Outcome State Fault Refusal :=
  strandOp (.mst f) s fun s => do
    let cl ← s.claimed
    let m := s.tl.rm (mIdx cl f.d)
    guardT (!f.ef && m.tag != f.fmt) .format
    let (x, y, z, s1) ← s.rd3 f.a f.b f.c
    let p := movePlan f x.1 y.1 z.1
    let mask := predMask f s.st
    s1.moveCheck p (p.elems mask) (x.2 || y.2 || z.2)
    guardT (!f.sat && ((p.elems mask).any fun e => m.elPois f.fmt e.1 e.2)) .poison
    s1.moveWaits p (p.elems mask)
    s1.enterT { instr := .mst f, x := x, y := y, z := z, mask := mask }

/-- ALD (R149, R150). -/
def execAld (f : Fields) (s : State) : Host.Outcome State Fault Refusal :=
  strandOp (.ald f) s fun s => do
    let _ ← s.claimed
    let (x, y, z, s1) ← s.rd3 f.a f.b f.c
    let p := movePlan f x.1 y.1 z.1
    let mask := predMask f s.st
    s1.moveCheck p (p.elems mask) (x.2 || y.2 || z.2)
    s1.moveWaits p (p.elems mask)
    s1.enterT { instr := .ald f, x := x, y := y, z := z, mask := mask }

/-- AST (R149, R151). -/
def execAst (f : Fields) (s : State) : Host.Outcome State Fault Refusal :=
  strandOp (.ast f) s fun s => do
    let cl ← s.claimed
    let a := s.tl.ra (aIdx cl f.d)
    let (x, y, z, s1) ← s.rd3 f.a f.b f.c
    let p := movePlan f x.1 y.1 z.1
    let mask := predMask f s.st
    s1.moveCheck p (p.elems mask) (x.2 || y.2 || z.2)
    guardT (!f.sat && ((p.elems mask).any fun e => a.poisAt e.1 e.2)) .poison
    s1.moveWaits p (p.elems mask)
    s1.enterT { instr := .ast f, x := x, y := y, z := z, mask := mask }

/-! ### Building tables (R152 to R155) -/

/-- Mant (R152): the mantissa and whether it poisons its row. -/
def mantOf (fmt : BitVec 4) (e : Int) (x : Nat) : Int × Bool :=
  if fmt = 10 then (max (-32767) (sextN 16 x), false)
  else if fmt = 11 then (sextN 8 x, false)
  else alignTo ((fltOf fmt.toNat).val x) e

/-- The mantissa of A(r, k). -/
def MReg.mant (x : MReg) (fmt : BitVec 4) (e : Int) (r k : Nat) : Int :=
  (mantOf fmt e (x.el fmt r k)).1

/-- The poison a row takes from its elements in columns [lo, lo + n) (R153, R154). -/
def MReg.rowPois (x : MReg) (fmt : BitVec 4) (e : Int) (r lo n : Nat) : Bool :=
  (List.range n).any fun j =>
    x.elPois fmt r (lo + j) || (mantOf fmt e (x.el fmt r (lo + j))).2

/-- Entry T[r][g][s] of a plane table (R153). -/
def planeEnt (x : MReg) (fmt : BitVec 4) (e : Int) (i : Nat) : Int :=
  let r := i / 256
  let g := i / 16 % 16
  (List.range 4).foldl (fun acc b =>
    if (i % 16).testBit b then acc + x.mant fmt e r (4 * g + b) else acc) 0

/-- Entry T[r][j][c] of a codebook table (R154): n codes, those after them empty. -/
def bookEnt (x : MReg) (fmt : BitVec 4) (e : Int) (q : Nat) (book : List Byte) (n i : Nat) : Int :=
  let r := i / 256
  let j := i / 16 % 16
  let c := i % 16
  let cb := (book.getD c 0).toNat % 64
  let l := cb % 32
  let m := x.mant fmt e r (16 * q + j)
  if n ≤ c ∨ l = 0 then 0
  else
    let v := rneN (m.natAbs * lnF l * 2 ^ (l / 4)) (2 ^ 19)
    if (decide (m < 0)) != decide (32 ≤ cb) then -(v : Int) else (v : Int)

/-- The entries of a table. -/
def entImage (f : Nat → Int) : BitVec 81920 :=
  BitVec.ofNat 81920 (packElems 20 ((List.range 4096).map fun i => wrapN 20 (f i)))

/-- The row poison of a table: its bits for rows 0 to 15. -/
def rowImage (p : Nat → Bool) : BitVec 16 :=
  BitVec.ofNat 16 (packElems 1 ((List.range 16).map fun r => b2n (p r)))

/-- The build exponent and the poison of its register (R152), checked as the operand C gives it. -/
def State.buildExp (s : State) (f : Fields) : Body ((Word × Bool) × State) :=
  if f.fmt = 10 ∨ f.fmt = 11 then .ok ((0, false), s)
  else do
    let (c, s1) ← s.rdSrc f.c
    guardT ((c.1.truncate 8 : BitVec 8) == blkUnset) .blockExponent
    pure (c, s1)

/-- The build exponent of a started build (R152). -/
def buildE (f : Fields) (m : MReg) (c : TCmd) : BitVec 8 :=
  if f.fmt = 10 ∨ f.fmt = 11 then (if m.blk = blkUnset then 0 else m.blk) else c.z.1.truncate 8

/-- The plane table of a source (R153). -/
def planeTb (f : Fields) (m : MReg) (src : Nat) (e : BitVec 8) (pc : Bool) : TbReg :=
  { ents := entImage (planeEnt m f.fmt e.toInt), drop := false, gen := m.gen, src := src,
    tag := 10, blk := e,
    pois := rowImage fun r => pc || m.rowPois f.fmt e.toInt r 0 64,
    changed := false, mode := false, q := 0, sfmt := f.fmt, eb := e, et := e, book := [] }

/-- The quarter and the size of the codebook that `tbuildc` names (R154). -/
def bookQ (f : Fields) : Nat := bitsN f.imm.toNat 4 2
def bookN (f : Fields) : Nat := bitsN f.imm.toNat 0 4 + 1

/-- The codebook record of the register B (R154, R155). -/
def bookOf (f : Fields) (v : VReg) : List Byte :=
  (List.range 16).map fun c => if c < bookN f then BitVec.ofNat 8 (v.elem 8 c % 64) else 0

/-- The codebook table of a source (R154). -/
def bookTb (f : Fields) (m : MReg) (v : VReg) (src : Nat) (e et : BitVec 8) (pc : Bool) : TbReg :=
  let book := bookOf f v
  let nar := (List.range (bookN f)).any fun c => book.getD c 0 == 0x20
  let bp := (List.range 4).any fun i => v.pois.getLsbD i
  { ents := entImage (bookEnt m f.fmt e.toInt (bookQ f) book (bookN f)), drop := false, gen := m.gen,
    src := src, tag := 9, blk := BitVec.ofNat 8 (bookN f - 1),
    pois := rowImage fun r => pc || nar || bp || m.rowPois f.fmt e.toInt r (16 * bookQ f) 16,
    changed := false, mode := true, q := bookQ f, sfmt := f.fmt, eb := e, et := et, book := book }

/-- What a started `tbuild` does (R153). -/
def State.runTbuild (s : State) (cl : Nat) (f : Fields) (c : TCmd) : State :=
  let src := mIdx cl f.a
  let m := s.tl.rm src
  s.putTb (tbIdx cl f.d) (planeTb f m src (buildE f m c) c.z.2)

/-- What a started `tbuildc` does (R154). -/
def State.runTbuildc (s : State) (cl : Nat) (f : Fields) (c : TCmd) : State :=
  let src := mIdx cl f.a
  let m := s.tl.rm src
  let e := buildE f m c
  s.putTb (tbIdx cl f.d) (bookTb f m c.v1 src e ((blkSum e c.v1.blk).getD 0) c.z.2)

/-- TBUILD (R153). -/
def execTbuild (f : Fields) (s : State) : Host.Outcome State Fault Refusal :=
  strandOp (.tbuild f) s fun s => do
    let cl ← s.claimed
    guardT (!f.ef && (s.tl.rm (mIdx cl f.a)).tag != f.fmt) .format
    let (z, s1) ← s.buildExp f
    s1.enterT { instr := .tbuild f, z := z }

/-- TBUILDC (R154). -/
def execTbuildc (f : Fields) (s : State) : Host.Outcome State Fault Refusal :=
  strandOp (.tbuildc f) s fun s => do
    let cl ← s.claimed
    let m := s.tl.rm (mIdx cl f.a)
    let b := s.st.vsrc f.b
    guardT (!f.ef && m.tag != f.fmt) .format
    guardT (!b.const && b.x.tag != 7) .format
    let (z, s1) ← s.buildExp f
    let cmd : TCmd := { instr := .tbuildc f, z := z, v1 := b.x }
    guardT (blkSum (buildE f m cmd) b.x.blk).isNone .blockExponent
    s1.enterT cmd

/-! ### Snapshots and lookups (R156 to R158, R162, R163) -/

/-- Whether a dropped table's source is still what it was built from (R163). -/
def Tile.sourceSame (t : Tile) (b : TbReg) : Bool := (t.rm b.src).gen == b.gen && !b.changed

/-- Whether a queued command is to change the source of a table: what the table is by program order is known
once that is done (R54, R163). -/
def Strand.sourceDue (st : Strand) (cl : Nat) (b : TbReg) : Bool :=
  st.tq.any fun c => match c.instr with
    | .mld f => mIdx cl f.d == b.src
    | _ => false

/-- Whether the source of a held table has changed by program order (R163, R164): it has, or a queued `mld` of the
claim's strand is to change it. -/
def Tile.sourceGone (t : Tile) (b : TbReg) : Bool :=
  !t.sourceSame b || t.strands.any fun p =>
    match p.2.claim with
    | some cl => p.2.sourceDue cl b
    | none => false

/-- A silent rebuild (R163): the entries of the original build. -/
def Tile.rebuilt (t : Tile) (b : TbReg) : TbReg :=
  let m := t.rm b.src
  { b with
    drop := false
    ents := entImage (if b.mode then
        bookEnt m b.sfmt b.eb.toInt b.q b.book (b.blk.toNat + 1)
      else planeEnt m b.sfmt b.eb.toInt) }

/-- What a command that uses a table decides at issue, by program order (R163): a dropped table whose source
has changed is lost. -/
def State.useTable (s : State) (cl : Nat) (b : TbReg) : Body Unit :=
  if !b.drop then .ok ()
  else if s.st.sourceDue cl b then stallE (some 9) false
  else guardT (!s.tl.sourceSame b) .tableLost

/-- The entries a started command uses: those of a table held, or rebuilt (R163). -/
def Tile.tableFor (t : Tile) (j : Nat) : TbReg :=
  let b := t.rtb j
  if b.drop then t.rebuilt b else b

/-- Whether a code of rows [lo, lo + n) in an active column exceeds a bound (R38, R157, R158). -/
def codeBad (m : MReg) (fmt : BitVec 4) (on : Nat → Bool) (lo n top : Nat) : Bool :=
  (List.range 64).any fun c => on c && ((List.range n).any fun k => decide (top < m.el fmt (lo + k) c))

/-- The poison of rows [lo, lo + n) of a column of codes. -/
def codePois (m : MReg) (fmt : BitVec 4) (lo n c : Nat) : Bool :=
  (List.range n).any fun k => m.elPois fmt (lo + k) c

/-- The sum of a list of integers. -/
def sumI (xs : List Int) : Int := xs.foldl (· + ·) 0

/-- The integer that `tlook` adds for row r and column n (R157). -/
def planeSum (b : TbReg) (m : MReg) (k zp r n : Nat) : Int :=
  let sub := fun p g => (List.range 4).foldl (fun acc j =>
    if (m.el 8 (4 * g + j) n).testBit p then acc + 2 ^ j else acc) 0
  sumI ((List.range k).flatMap fun p => (List.range 16).map fun g =>
      b.ent (256 * r + 16 * g + sub p g) * (2 ^ p : Nat)) -
    zp * sumI ((List.range 16).map fun g => b.ent (256 * r + 16 * g + 15))

/-- The integer that `tlookc` adds for row r and column n (R158). -/
def bookSum (b : TbReg) (m : MReg) (r n : Nat) : Int :=
  sumI ((List.range 16).map fun j =>
    b.ent (256 * r + 16 * j + m.el 9 (16 * b.q + j) n % 16))

/-- The bounds of a stage element (R39). -/
def stageMax : Int := (2 ^ 47 : Nat) - 1
def stageMin : Int := -((2 ^ 47 : Nat) : Int)

/-- An accumulator after a lookup that adds x(r, n) in the active columns (R157). -/
def AReg.addStage (a : AReg) (on : Nat → Bool) (et : BitVec 8) (x : Nat → Nat → Int)
    (p : Nat → Nat → Bool) : AReg :=
  let t := fun r n => a.stAt r n + x r n
  let out := fun r n => on n && (decide (stageMax < t r n) || decide (t r n < stageMin))
  { a with
    stage := stImage fun r n => if on n then max stageMin (min stageMax (t r n)) else a.stAt r n
    sexp := et
    sovf := a.sovf || (List.range 16).any fun r => (List.range 64).any fun n => out r n
    pois := apImage fun r n => a.poisAt r n || (on n && p r n) }

/-- The block-exponent trap of a lookup (R156). -/
def stageBad (a : AReg) (et : BitVec 8) : Bool := a.sexp != blkUnset && a.sexp != et

/-- What a started `tlook` does (R157). -/
def State.runTlook (s : State) (cl : Nat) (f : Fields) (c : TCmd) : State :=
  let j := tbIdx cl f.a
  let b := s.tl.tableFor j
  let m := s.tl.rm (mIdx cl f.b)
  (s.putTb j b).putA (aIdx cl f.d) ((s.tl.ra (aIdx cl f.d)).addStage c.mask.getLsbD b.et
    (planeSum b m (bitsN m.blk.toNat 0 3 + 1) (bitsN c.z.1.toNat 0 8))
    fun r n => b.pois.getLsbD r || c.z.2 || codePois m 8 0 64 n)

/-- What a started `tlookc` does (R158). -/
def State.runTlookc (s : State) (cl : Nat) (f : Fields) (c : TCmd) : State :=
  let j := tbIdx cl f.a
  let b := s.tl.tableFor j
  let m := s.tl.rm (mIdx cl f.b)
  (s.putTb j b).putA (aIdx cl f.d) ((s.tl.ra (aIdx cl f.d)).addStage c.mask.getLsbD b.et
    (bookSum b m) fun r n => b.pois.getLsbD r || codePois m 9 (16 * b.q) 16 n)

/-- TLOOK (R156, R157). -/
def execTlook (f : Fields) (s : State) : Host.Outcome State Fault Refusal :=
  strandOp (.tlook f) s fun s => do
    let cl ← s.claimed
    let b := s.tl.rtb (tbIdx cl f.a)
    let m := s.tl.rm (mIdx cl f.b)
    let mask := predMask f s.st
    guardT (b.tag != 10 || m.tag != 8) .format
    let (z, s1) ← s.rdSrc f.c
    guardT (codeBad m 8 mask.getLsbD 0 64 (2 ^ (bitsN m.blk.toNat 0 3 + 1) - 1)) .codeRange
    s.useTable cl b
    guardT (stageBad (s.tl.ra (aIdx cl f.d)) b.et) .blockExponent
    s1.enterT { instr := .tlook f, z := z, mask := mask }

/-- TLOOKC (R156, R158). -/
def execTlookc (f : Fields) (s : State) : Host.Outcome State Fault Refusal :=
  strandOp (.tlookc f) s fun s => do
    let cl ← s.claimed
    let b := s.tl.rtb (tbIdx cl f.a)
    let m := s.tl.rm (mIdx cl f.b)
    let mask := predMask f s.st
    guardT (b.tag != 9 || m.tag != 9) .format
    guardT (codeBad m 9 mask.getLsbD (16 * b.q) 16 (min (bitsN m.blk.toNat 0 4) b.blk.toNat)) .codeRange
    s.useTable cl b
    guardT (stageBad (s.tl.ra (aIdx cl f.d)) b.et) .blockExponent
    s.enterT { instr := .tlookc f, mask := mask }

/-- TDROP (R162). -/
def execTdrop (f : Fields) (s : State) : Host.Outcome State Fault Refusal :=
  strandOp (.tdrop f) s fun s => do
    let _ ← s.claimed
    s.enterT { instr := .tdrop f }

/-! ### Results (R159 to R161) -/

/-- AZERO (R159). -/
def execAzero (f : Fields) (s : State) : Host.Outcome State Fault Refusal :=
  strandOp (.azero f) s fun s => do
    let _ ← s.claimed
    s.enterT { instr := .azero f }

/-- C(r, n) after a flush (R160). -/
def flushEl (c : Nat) (st : Int) (eA : Int) (sB : Nat) : Nat :=
  let x := roundNe (FVal.ofInt st) fp32 false
  let y := scale2 (fp32.val x) eA false
  roundNe ((fp32.val c).add false ((fp32.val y).mul (bf16.val sB))) fp32 false

/-- Whether the armed flip applies to an accumulator (R265). -/
def flipArmed (x : Word) (j : Nat) : Bool := errTgt x == 3 && errArm x && bitsN x.toNat 50 4 == j

/-- The flip of one bit of an accumulator element that ERRINJ names (R264, R265). -/
def AReg.flipBit (a : AReg) (x : Word) : AReg :=
  { a with c := a.c ^^^
      (1#32768 <<< (32 * (64 * bitsN x.toNat 46 4 + bitsN x.toNat 40 6) + bitsN x.toNat 35 5)) }

/-- Writes a flushed accumulator; an armed flip of it applies (R265). -/
def State.putFlushed (s : State) (j : Nat) (a : AReg) : State :=
  if flipArmed s.tl.errinj j then
    (s.putA j (a.flipBit s.tl.errinj)).modTl fun t => { t with errinj := errinjApplied t.errinj }
  else s.putA j a

/-- What a started `aflush` does (R160, R265). -/
def State.runAflush (s : State) (cl : Nat) (f : Fields) (c : TCmd) : State :=
  let j := aIdx cl f.d
  let a := s.tl.ra j
  s.putFlushed j { a with
    c := aImage fun r n => flushEl (a.cAt r n) (a.stAt r n) (blkInt a.sexp) (c.v1.elem 16 n)
    stage := 0, sexp := blkUnset
    pois := apImage fun r n => a.poisAt r n || c.v1.pois.getLsbD (n / 2) }

/-- What a started `aput` does (R161). -/
def State.runAput (s : State) (cl : Nat) (f : Fields) (c : TCmd) : State :=
  let j := aIdx cl f.d
  let a := s.tl.ra j
  let i := 64 * bitsN c.y.1.toNat 6 4 + bitsN c.y.1.toNat 0 6
  s.putA j { a with
    c := setBits a.c (32 * i) 32 c.x.1.toNat, pois := setBits a.pois i 1 (b2n c.x.2) }

/-- AFLUSH (R160): A carries tag 3. -/
def execAflush (f : Fields) (s : State) : Host.Outcome State Fault Refusal :=
  strandOp (.aflush f) s fun s => do
    let _ ← s.claimed
    let v := s.st.vsrc f.a
    guardT (!f.ef && !v.const && v.x.tag != 3) .format
    s.enterT { instr := .aflush f, v1 := v.x }

/-- APUT (R161). -/
def execAput (f : Fields) (s : State) : Host.Outcome State Fault Refusal :=
  strandOp (.aput f) s fun s => do
    let _ ← s.claimed
    let (x, y, s1) ← s.rd2 f.a f.b
    guardT y.2 .poison
    s1.enterT { instr := .aput f, x := x, y := y }

/-! ### Checksums (R165, R166) -/

/-- A BF16 value in units of 2^(−133), and whether it is finite. -/
def bfUnits (x : Nat) : Int × Bool :=
  match (bf16.val x).scale 133 with
  | .fin s n d => (FVal.sNum s (n / d), true)
  | _ => (0, false)

/-- A checksum in units of 2^(−133), rounded at the table's exponent (R165). -/
def sumRound (x : Int) (et : BitVec 8) : Nat :=
  roundNe ((FVal.ofInt x).scale (et.toInt - 133)) fp32 false

/-- The single-activation mantissas of a plane table (R165). -/
def TbReg.mantAt (b : TbReg) (r k : Nat) : Int := b.ent (256 * r + 16 * (k / 4) + 2 ^ (k % 4))

/-- The predictions of `mchk` (R165): the column and the row sums, from the table b, the codes m, the zero
point and the scales. -/
def mchkRegs (b : TbReg) (m : MReg) (c : Word × Bool) (d : VReg) : VReg × VReg :=
  let zp : Int := (bitsN c.1.toNat 0 8 : Nat)
  let sB := fun n => bfUnits (d.elem 16 n)
  let w := fun k n => ((m.el 8 k n : Nat) : Int) - zp
  let cols := List.range 64
  let fin := cols.all fun n => (sB n).2
  let ra := fun k => sumI ((List.range 16).map fun r => b.mantAt r k)
  let pc := cols.map fun n =>
    if (sB n).2 then sumRound (sumI (cols.map fun k => ra k * w k n) * (sB n).1) b.et
    else fp32.nan
  let cw := cols.map fun k => sumI (cols.map fun n => w k n * (sB n).1)
  let pr := (List.range 16).map fun r =>
    if fin then sumRound (sumI (cols.map fun k => b.mantAt r k * cw.getD k 0)) b.et
    else fp32.nan
  let codes := cols.any fun n => codePois m 8 0 64 n
  let scales := (List.range 32).any fun i => d.pois.getLsbD i
  ({ lanes := BitVec.ofNat 2048 (packElems 32 pc), tag := 2, blk := blkUnset,
     pois := maskOf fun n => b.pois != 0 || c.2 || codePois m 8 0 64 n || d.pois.getLsbD (n / 2) },
   { lanes := BitVec.ofNat 2048 (packElems 32 pr), tag := 2, blk := blkUnset,
     pois := maskOf fun r => decide (r < 16) && (b.pois.getLsbD r || c.2 || codes || scales) })

/-- What a started `mchk` does (R165). -/
def State.runMchk (s : State) (cl : Nat) (f : Fields) (c : TCmd) : State :=
  let j := tbIdx cl f.a
  let b := s.tl.tableFor j
  let v := mchkRegs b (s.tl.rm (mIdx cl f.b)) c.z c.v1
  (s.putTb j b).modSt fun st => (st.wv (opIdx f.d) v.1).wv (opIdx f.d + 1) v.2

/-- One line of `achk` (R166): residue and flag from the exact sum, the prediction and the
tolerance. -/
def chkLine (sum p tol : FVal) : Nat × Bool :=
  let diff := sum.add false p.neg
  let one := FVal.fin false 1 1
  let big := if one.lt p.abs then p.abs else one
  let finite := fun x => match x with
    | FVal.fin _ _ _ => true
    | _ => false
  let bad := !finite sum || !finite p || tol.isNan || tol.lt (.fin false 0 1) ||
    (tol.mul big).lt diff.abs
  (roundNe diff fp32 false, bad)

/-- What `achk` finds (R166): the residues, the flags and whether one came from a poisoned value. A sum
starts from −0, which leaves the sign of a sum of zeros to its terms (R29). -/
def achkRegs (a : AReg) (b0 b1 : VReg) (c : Word × Bool) :
    (VReg × VReg) × (BitVec 64 × BitVec 64) × Bool :=
  let tol := fp32.val (c.1.toNat % 2 ^ 32)
  let val := fun r n => fp32.val (a.cAt r n)
  let sum := fun (xs : List FVal) => xs.foldl (FVal.add false) (.fin true 0 1)
  let col := (List.range 64).map fun n =>
    chkLine (sum ((List.range 16).map fun r => val r n)) (fp32.val (b0.lane n)) tol
  let row := (List.range 16).map fun r =>
    chkLine (sum ((List.range 64).map fun n => val r n)) (fp32.val (b1.lane r)) tol
  let cp := maskOf fun n =>
    b0.pois.getLsbD n || (List.range 16).any fun r => a.poisAt r n
  let rp := maskOf fun r =>
    decide (r < 16) && (b1.pois.getLsbD r || (List.range 64).any fun n => a.poisAt r n)
  let off : BitVec 64 := if c.2 then BitVec.allOnes 64 else 0
  (({ lanes := BitVec.ofNat 2048 (packElems 32 (col.map (·.1))), pois := cp, tag := 2, blk := blkUnset },
    { lanes := BitVec.ofNat 2048 (packElems 32 (row.map (·.1))), pois := rp, tag := 2, blk := blkUnset }),
   ((maskOf fun n => ((col.getD n (0, false)).2)) &&& ~~~ (cp ||| off),
    (maskOf fun r => ((row.getD r (0, false)).2)) &&& ~~~ (rp ||| off)),
   c.2 || cp != 0 || rp != 0)

/-- What a started `achk` does (R166): residues into B and B + 1, flags into D and D + 1. -/
def State.runAchk (s : State) (cl : Nat) (f : Fields) (c : TCmd) : State :=
  let v := achkRegs (s.tl.ra (aIdx cl f.a)) c.v1 c.v2 c.z
  s.modSt fun st =>
    { (((st.wv (opIdx f.b) v.1.1).wv (opIdx f.b + 1) v.1.2).wk (opIdx f.d) v.2.1.1).wk
        (opIdx f.d + 1) v.2.1.2 with psn := st.psn || v.2.2 }

/-! ### A started command (R168) -/

/-- What a command of the issuing strand does when the engine has started it, on the claim that is granted
(R50, R145). -/
def State.runT (s : State) (c : TCmd) : State :=
  match s.st.claim with
  | none => s
  | some cl =>
    match c.instr with
    | .mld f => s.runMld cl f c
    | .mst f => s.runMst cl f c
    | .ald f => s.runAld cl f c
    | .ast f => s.runAst cl f c
    | .tbuild f => s.runTbuild cl f c
    | .tbuildc f => s.runTbuildc cl f c
    | .tlook f => s.runTlook cl f c
    | .tlookc f => s.runTlookc cl f c
    | .tdrop f => s.putTb (tbIdx cl f.d) (s.tl.rtb (tbIdx cl f.d)).dropped
    | .azero f => s.putA (aIdx cl f.d) {}
    | .aflush f => s.runAflush cl f c
    | .aput f => s.runAput cl f c
    | .mchk f => (s.runMchk cl f c).modTl fun t => t.lateOf s.curRec c.instr f.d
    | .achk f => (s.runAchk cl f c).modTl fun t => t.lateOf s.curRec c.instr f.d
    | _ => s

/-- MCHK (R165): D holds the scales on entry, with tag 3. -/
def execMchk (f : Fields) (s : State) : Host.Outcome State Fault Refusal :=
  strandOp (.mchk f) s fun s => do
    let cl ← s.claimed
    let b := s.tl.rtb (tbIdx cl f.a)
    let m := s.tl.rm (mIdx cl f.b)
    let d := s.st.rv (opIdx f.d)
    guardT (b.tag != 10 || m.tag != 8 || d.tag != 3) .format
    let (z, s1) ← s.rdSrc f.c
    guardT (codeBad m 8 (fun _ => true) 0 64 (2 ^ (bitsN m.blk.toNat 0 3 + 1) - 1)) .codeRange
    s.useTable cl b
    s1.enterT { instr := .mchk f, z := z, v1 := d }

/-- ACHK (R166): B and B + 1 hold the predictions on entry, with tag 2. -/
def execAchk (f : Fields) (s : State) : Host.Outcome State Fault Refusal :=
  strandOp (.achk f) s fun s => do
    let _ ← s.claimed
    let b0 := s.st.rv (opIdx f.b)
    let b1 := s.st.rv (opIdx f.b + 1)
    guardT (!f.ef && (b0.tag != 2 || b1.tag != 2)) .format
    let (z, s1) ← s.rdSrc f.c
    s1.enterT { instr := .achk f, z := z, v1 := b0, v2 := b1 }

end Sys2Proof.Machine
end

