-- ==== Sys2Proof/Machine/Strands.lean ====
section
/-! DEFINITION. The strand instructions: spawn, exit, wait, yield, wid (R171 to R183, R191). -/

namespace Sys2Proof.Machine

/-! ### Work identifiers (R61, R171) -/

/-- The width of field i. -/
def fieldW (widw : Word) (i : Nat) : Nat := bitsN widw.toNat (7 * i) 7

/-- The lowest bit of field i. -/
def fieldLo (widw : Word) : Nat → Nat
  | 0 => 0
  | i + 1 => fieldLo widw i + fieldW widw i

/-- Field i of a work identifier. -/
def widField (widw wid : Word) (i : Nat) : Nat := bitsN wid.toNat (fieldLo widw i) (fieldW widw i)

/-- RNGS at the start of a strand (R31). -/
def rngsStart (wid : Word) : BitVec 32 := rngsFix (wid.truncate 32 ^^^ 0xace12b57)

/-! ### Suspension points (R57, R58, R121, R176) -/

/-- What every suspension-point instruction asks first: no open packet (R85), and `g1` to `g5` written
(R48). -/
def State.suspendReady (s : State) : Body Unit := do
  guardT s.st.pkt.isSome .openPacket
  match s.st.recordWait with
  | some w => stallE w false
  | none => .ok ()

/-- A suspension point passed in the slot (R181): the region closes, the queues empty, the grant is
released, the registers that R58 does not keep become undefined. -/
def State.passPoint (s : State) : State :=
  ((s.modSt Strand.closeRegion).undefineAt s.cur s.curRec).maybeDrop s.cur s.curRec

/-! ### The instructions -/

/-- The lowest free record of a tile (R179): records 0 to 63; a follower owns none. -/
def Tile.freeRecord (t : Tile) : Option Nat :=
  (List.range 64).find? fun i => (t.strands.val? i).isNone

/-- The strand that `spawn` creates (R179). -/
def Strand.child (p : Strand) (pc wid : Word) (pri : Nat) : Strand :=
  { kind := 1, pri := pri, pc := pc, wid := wid, widw := p.widw, sup := p.sup,
    g := (p.g.filter fun x => decide (1 ≤ x.1) && decide (x.1 ≤ 5)),
    gp := p.gp &&& 0x3e, rngs := rngsStart wid, abortPc := p.abortPc }

/-- A record that a new strand takes has no drain left that an older strand's `spawn` came after. -/
def Strand.outlives (st : Strand) (i : Nat) : Strand := { st with elders := st.elders.filter (·.1 != i) }

/-- SPAWN (R179): a full pool is no trap. -/
def execSpawn (f : Fields) (s : State) : Host.Outcome State Fault Refusal :=
  guardedOp (.spawn f) f s fun s => do
    let (x, y, s1) ← s.rd2 f.a f.b
    guardT (x.2 || y.2) .poison
    let pc := s1.sTarget f.imm
    guardT (s1.targetBad s1.cur pc) .target
    let w0 := fieldW s1.st.widw 0
    guardT (x.1.toNat / 2 ^ w0 != 0) .workIdentifier
    match s1.tl.freeRecord with
    | none => pure (s1.wrG f.d (BitVec.allOnes 64) false)
    | some i =>
      let wid := setBits s1.st.wid 0 w0 x.1.toNat
      let c := { s1.st.child pc wid (y.1.toNat % 8) with
                 since := s1.freeCtr, elders := s1.st.elders ++ [(s1.curRec, s1.st.pos)] }
      let s2 := s1.modTl fun t => { t with strands := (t.strands.mapVals fun _ st => st.outlives i).put i c, ready := t.ready ++ [i] }
      let s3 := (s2.writeRecord s2.cur i).draw
      pure (s3.wrG f.d (BitVec.ofNat 64 i) false)

/-- Whether a strand that has exited has no queued command left (R180). -/
def Tile.quiet (t : Tile) (r : Nat) : Bool :=
  let st := t.strands.val {} r
  st.tq.isEmpty && st.vq == 0 && st.xq.isEmpty && t.drained r

/-- Frees the record of an exited strand once every command it queued has completed (R180). -/
def State.reap (s : State) (tile r : Nat) : State :=
  let t := s.tileAt tile
  match t.strands.val? r with
  | none => s
  | some st =>
    if st.exiting && t.quiet r then
      let s1 := s.modTileAt tile fun t => { t with strands := t.strands.del r }
      s1.stNum tile (recAddr r + 16) 8 0 false
    else s

/-- A strand that exits (R148, R180): a request still waiting is withdrawn, and with it the table commands
behind it (log 10). -/
def Tile.exitClaim (t : Tile) (r : Nat) : Tile :=
  let st := t.strands.val {} r
  if st.mreq.isSome then (t.withdrawClaim r).modStrand r fun st => { st with tq := [] }
  else t.modStrand r fun st =>
    { st with tq := st.tq.takeWhile fun c => !(match c.instr with
      | .mclaim _ => true
      | _ => false) }

/-- The claim of an exited strand is released once its table commands have completed (R148, R180). -/
def Tile.exitQueue (t : Tile) (r : Nat) : Tile :=
  if (t.strands.val {} r).tq.isEmpty then t.releaseClaim r else t

/-- EXIT (R180): the strand leaves its slot; its record is freed once its commands are done. DESIGN CHOICE (log 51):
KIND in the record directory reads 0 from the `exit` on, though `spawn` takes the record only when it is free; the
record's bytes in SRAM become zero when it is freed. -/
def execExit (f : Fields) (s : State) : Host.Outcome State Fault Refusal :=
  guardedOp (.exit f) f s fun s => do
    guardT s.st.pkt.isSome .openPacket
    if s.st.vq ≠ 0 then stallE (some 8) false
    let s1 := s.modTl fun t => (t.exitClaim s.curRec).exitQueue s.curRec
    let s2 := s1.modSt fun st =>
      { st.emptyQueues.closeRegion with
        exiting := true, slot := none, kind := 0, vl := 0, vreq := none, target := none,
        stall := none, hold := 0 }
    pure ((s2.startTimers s2.cur 5).reap s2.cur s2.curRec)

/-- Whether the generation awaited is reached (R181). -/
def genReached (have_ want : BitVec 32) : Bool := decide ((have_ - want).toNat < 2 ^ 31)

/-- WAIT (R181). -/
def execWait (f : Fields) (s : State) : Host.Outcome State Fault Refusal :=
  guardedOp (.wait f) f s fun s => do
    let (x, y, s1) ← s.rd2 f.a f.b
    guardT (x.2 || y.2) .poison
    guardT (s1.rangeBad x.1.toNat 16) .localRange
    guardT (x.1.toNat % 16 != 0) .alignment
    s1.suspendReady
    s1.waitsAt true false [(x.1.toNat, 16)]
    let want : BitVec 32 := y.1.truncate 32
    let gen := s1.swGen s1.cur x.1.toNat
    if genReached gen want then
      if s1.st.vq ≠ 0 then stallE (some 8) false
      else pure (s1.passPoint.wrG f.d (gen.zeroExtend 64) false)
    else
      let s2 := s1.modSt fun st => { st with resume := [(f.d, 0, false)] }
      pure (s2.suspendAt s2.cur s2.curRec 3 0 (x.1.toNat / 16) want s2.st.npc)

/-- YIELD (R182). -/
def execYield (f : Fields) (s : State) : Host.Outcome State Fault Refusal :=
  guardedOp (.yield f) f s fun s => do
    s.suspendReady
    let back := if s.tl.ready.isEmpty then s.st.slot else none
    let s1 := s.modSt fun st =>
      { st with pri := if f.imm.getLsbD 3 then f.imm.toNat % 8 else st.pri, back := back }
    pure (s1.suspendAt s1.cur s1.curRec 1 0 0 0 s1.st.npc)

/-- WID (R183). -/
def execWid (f : Fields) (s : State) : Host.Outcome State Fault Refusal :=
  guardedOp (.wid f) f s fun s =>
    let sel := f.imm.toNat % 8
    .ok (s.wrG f.d (if sel = 7 then s.st.wid
      else BitVec.ofNat 64 (widField s.st.widw s.st.wid sel)) false)

end Sys2Proof.Machine
end

