-- ==== Sys2Proof/Machine/Sync.lean ====
section
/-! DEFINITION. Barrier arrival, barrier state, local atomics and fixed-point cells (R202, R203,
R210, R212, R213). -/

namespace Sys2Proof.Machine

/-- The PC a `sync` resumes at when its superstep aborts: its handler, else the slot after its issue
unit (R203). -/
def State.syncAbort (s : State) (f : Fields) : Word :=
  if f.c.getLsbD 6 then s.st.npc else s.sTarget f.imm

/-- SYNC (R203): arrives at the levels up to SCP and suspends. -/
def execSync (op : SyncOp) (f : Fields) (s : State) : Host.Outcome State Fault Refusal :=
  guardedOp (.sync op f) f s fun s => do
    guardT s.st.pkt.isSome .openPacket
    guardT (!f.c.getLsbD 6 && s.targetBad s.cur (s.sTarget f.imm)) .target
    s.suspendReady
    let (x, y, s1) ← s.rd2 f.a f.b
    let code : BitVec 8 := if y.2 then 0x40 else y.1.truncate 8
    let s2 := s1.modSt fun st => { st with abortPc := s1.syncAbort f }
    pure (s2.arriveBarrier s2.cur s2.curRec
      { scp := f.scp.toNat, op := op, fmt := f.fmt, f32 := f.c.getLsbD 7, x := x.1, px := x.2,
        code := code, d := f.d } s2.st.npc)

/-- The domain state word (R200). -/
def Domain.word (d : Domain) : Word :=
  BitVec.ofNat 64 (d.ssn.toNat * 2 ^ 32 + d.pend.toNat * 2 ^ 24 + b2n d.nab * 2 ^ 23 +
    b2n d.pol * 2 ^ 22 + b2n d.trun * 2 ^ 21 + d.tmo.toNat)

/-- The domain state word as it reads: TRUN is 0 while a stop of a party holds the timer (R200, R206). -/
def State.domWord (s : State) (level dom : Nat) : Word :=
  let d := s.domAt level dom
  { d with trun := d.trun && !s.preempted level dom }.word

/-- What `ssr` reads (R210). -/
def State.barrierState (s : State) (scp what : Nat) : Word :=
  if scp = 0 then 0
  else
    match what with
    | 0 => (s.tl.ssc.val 0 scp).zeroExtend 64
    | 1 => s.tl.arec.val 0 scp
    | _ => s.domWord scp (s.domOf scp s.cur)

/-- SSR (R210). -/
def execSsr (f : Fields) (s : State) : Host.Outcome State Fault Refusal :=
  guardedOp (.ssr f) f s fun s =>
    .ok (s.wrG f.d (s.barrierState f.scp.toNat (f.imm.toNat % 4)) false)

/-- What an atomic operation leaves at its address (R212): old, operand, expected value. -/
def amoNew (op : AmoOp) (w : Nat) (old v want : Nat) : Nat :=
  match op with
  | .add => (old + v) % 2 ^ w
  | .and => old &&& v
  | .or => old ||| v
  | .xor => old ^^^ v
  | .min => if sextN w old ≤ sextN w v then old else v
  | .max => if sextN w v ≤ sextN w old then old else v
  | .minu => if old ≤ v then old else v
  | .maxu => if v ≤ old then old else v
  | .swap => v
  | .cas => if old = want then v else old

/-- Whether an operation is the compare-and-swap. -/
def amoIsCas (op : AmoOp) : Bool :=
  match op with
  | .cas => true
  | _ => false

/-- AMO (R212): one atomic access. -/
def execAmo (op : AmoOp) (f : Fields) (s : State) : Host.Outcome State Fault Refusal :=
  guardedOp (.amo op f) f s fun s => do
    let n := fmtBytes f.fmt
    let w := fmtW f.fmt
    let (x, y, z, s1) ← s.rd3 f.a f.b f.c
    let ea := eaOf x.1 y.1 n f.imm
    guardT (x.2 || y.2) .poison
    guardT (s1.rangeBad ea.toNat n) .localRange
    guardT (ea.toNat % n != 0) .alignment
    let want := s1.st.rg (opIdx f.d)
    let wantPois := isG f.d && s1.st.rgp (opIdx f.d)
    guardT (z.2 || (amoIsCas op && wantPois)) .poison
    s1.localWait ea.toNat n
    let (v, s2) := s1.loadLocal ea.toNat n
    guardMet s ea.toNat n v.2 .poison
    let e := if isG f.d then want.toNat % 2 ^ w else 0
    let new := amoNew op w v.1 (z.1.toNat % 2 ^ w) e
    let s3 := if amoIsCas op && v.1 != e then s2
      else s2.putLocal ea.toNat (natToBytes n new) false
    pure (s3.wrG f.d (extendTo f.fmt v.1) false)

/-- The value and overflow flag of a fixed-point cell of 32 bytes (R40). -/
def cellOf (x : Nat) : BitVec 192 × Bool := (BitVec.ofNat 192 x, (x / 2 ^ 192).testBit 0)

/-- A cell with a new value and flag; its reserved bits stay (R40, R213). -/
def cellPut (x : Nat) (v : BitVec 192) (ovf : Bool) : Nat :=
  x / 2 ^ 193 * 2 ^ 193 + b2n ovf * 2 ^ 192 + v.toNat

/-- Writes the 32 bytes of a cell, a doubleword at a time. -/
def State.putCell (s : State) (ea x : Nat) : State :=
  (List.range 4).foldl (fun s i =>
    s.putLocal (ea + 8 * i) (natToBytes 8 (x / 2 ^ (64 * i) % 2 ^ 64)) false) s

/-- FACC (R213): adds an FP32 value into a cell. -/
def execFacc (f : Fields) (s : State) : Host.Outcome State Fault Refusal :=
  guardedOp (.facc f) f s fun s => do
    let (x, y, s1) ← s.rd2 f.a f.b
    let (d, s2) ← s1.rd1 f.d
    let ea := eaOf x.1 y.1 32 f.imm
    guardT (x.2 || y.2) .poison
    guardT (s2.rangeBad ea.toNat 32) .localRange
    guardT (ea.toNat % 32 != 0) .alignment
    guardT d.2 .poison
    s2.localWait ea.toNat 32
    let (v, s3) := s2.loadLocal ea.toNat 32
    guardMet s ea.toNat 32 v.2 .poison
    let r := fixAdd (cellOf v.1).1 (cellOf v.1).2 (d.1.toNat % 2 ^ 32)
    pure (s3.putCell ea.toNat (cellPut v.1 r.1 r.2))

/-- FCRD (R213): reads a cell; `.clr` zeroes and unmarks it. -/
def execFcrd (f : Fields) (s : State) : Host.Outcome State Fault Refusal :=
  guardedOp (.fcrd f) f s fun s => do
    let (x, y, s1) ← s.rd2 f.a f.b
    let ea := eaOf x.1 y.1 32 f.imm
    s1.localCheck ea 32 32 (x.2 || y.2)
    let (v, s2) := s1.loadLocal ea.toNat 32
    let s3 := if f.c.getLsbD 0 then s2.putCell ea.toNat (cellPut v.1 0 false) else s2
    pure (s3.wrG f.d (BitVec.ofNat 64 (fixRd (cellOf v.1).1 (cellOf v.1).2)) v.2)

end Sys2Proof.Machine
end

