-- ==== Sys2Proof/Machine/Exchange.lean ====
section
/-! DEFINITION. The exchange commands at issue: checks, capture of operands and the strand's
exchange queue (R234 to R237, R242 to R245, R247, R254, R255). -/

namespace Sys2Proof.Machine

/-! ### Capture and checks (R235, R237) -/

/-- Reads a field of an exchange command: an `h` register, or a source (R235). -/
def State.rdX (s : State) (sp : BitVec 8) : Body ((Word × Bool) × State) :=
  if isH sp then .ok (((s.st.rh (opIdx sp)).val, (s.st.rh (opIdx sp)).poi), s) else s.rdSrc sp

/-- A virtual address, or an offset in the object an `h` register names (R235). -/
def xAddr (sp : BitVec 8) (x c : Word) : XAddr :=
  if isH sp then .obj x (bitsN c.toNat 32 32) (opIdx sp) none else .virt x.toNat

/-- The captured heal-back address: HBA where the state word has UNH and HBV (R318). -/
def xCapture (st : Strand) (x : XAddr) : XAddr :=
  match x with
  | .obj ref off reg _ =>
    .obj ref off reg (if (st.rh reg).unh && (st.rh reg).hbv then some (st.rh reg).hba.toNat else none)
  | x => x

/-- A heap operand without a valid reference (R319). -/
def xDead (sp : BitVec 8) (x : Word) : Bool := isH sp && !x.getLsbD 63

/-- The address whose alignment is checked: the object offset for an `h` operand (R237). -/
def xAlignOf (sp : BitVec 8) (x c : Word) : Nat :=
  if isH sp then bitsN c.toNat 32 32 else x.toNat

/-- The issuer's sync word; D = 0x00 names none (R235). -/
def xSw (f : Fields) (d : Word) : Option Nat := if f.d = 0 then none else some d.toNat

/-- The remote sync word of IMM (R235). -/
def xRsw (f : Fields) : Option Nat :=
  if f.imm.getLsbD 0 then some (bitsN f.imm.toNat 4 16 * 16) else none

/-- What a command captures at issue and what its checks are made on. -/
structure XPlan where
  cmd : XCmd := {}
  /-- bits that break R235 -/
  bad : Bool := false
  /-- local ranges: address and length -/
  ranges : List (Nat × Nat) := []
  /-- addresses and their alignments -/
  aligns : List (Nat × Nat) := []
  deriving DecidableEq, Repr

/-- The superstep counts of levels 1 to 5 (R201). -/
def State.sscList (s : State) (tile : Nat) : List (BitVec 32) :=
  (List.range 5).map fun l => (s.tileAt tile).ssc.val 0 (l + 1)

/-- The word of an instruction as it stands in memory (R78). -/
def wordOf (i : Instr) : BitVec 96 := (encode i).getD 0

/-- Enters the strand's exchange queue (R186, R237). -/
def State.pushX (s : State) (c : XCmd) : Body State :=
  if 2 ≤ s.st.xq.length then .error (.full 2)
  else
    let c := { c with no := s.tl.xnext, ri := s.curRec, sscs := s.sscList s.cur, pos := s.st.pos }
    .ok ((s.modSt fun st => { st with xq := st.xq ++ [c], pos := st.pos + 1 }).modTl
      fun t => { t with xnext := t.xnext + 1 })

/-- The checks of R237 on a plan, then the queue. -/
def State.xChecked (s : State) (p : XPlan) (pois : Bool) : Body State := do
  guardT pois .poison
  guardT p.bad .exchangeOperand
  guardT (p.ranges.any fun r => s.rangeBad r.1 r.2 1) .localRange
  guardT (p.aligns.any fun a => a.1 % a.2 != 0) .alignment
  s.pushX p.cmd

/-- The range and alignment of a sync word that is named (R237). -/
def swRange (sw : Option Nat) : List (Nat × Nat) := sw.toList.map fun a => (a, 16)

/-- The issue of an exchange command of format X (R237): D, A, B and C are read, checked and
captured. -/
def State.xIssue (s : State) (i : Instr) (f : Fields)
    (plan : Word → Word → Word → Word → XPlan) : Body State := do
  guardT s.st.pkt.isSome .openPacket
  let d := s.st.rg (opIdx f.d)
  let (a, s1) ← s.rdX f.a
  let (b, s2) ← s1.rdX f.b
  let (c, s3) ← s2.rdX f.c
  let sw := xSw f d
  let p := plan d a.1 b.1 c.1
  let cmd := { p.cmd with
    word := wordOf i, ops := [d, a.1, b.1, c.1], scp := f.scp.toNat, acq := f.acq, rel := f.rel,
    gen := f.gen, sw := sw, dst := xCapture s.st p.cmd.dst, src := xCapture s.st p.cmd.src }
  s3.xChecked { p with cmd := cmd, bad := p.bad || xDead f.a a.1 || xDead f.b b.1, ranges := swRange sw ++ p.ranges, aligns := swRange sw ++ p.aligns }
    (s.st.rgp (opIdx f.d) || a.2 || b.2 || c.2)

/-- Bits [63:32] of a length register that break R235, or `.gen` with an `h` operand. -/
def lenBad (f : Fields) (c : Word) : Bool :=
  let h := isH f.a || isH f.b
  (!f.gen && !h && bitsN c.toNat 32 32 != 0) || (f.gen && h)

/-- Bits [31:0] of an offset register (R235). -/
def offBad (f : Fields) (c : Word) : Bool := (isH f.a || isH f.b) && bitsN c.toNat 0 32 != 0

/-! ### Block transfers (R242, R243) -/

/-- XGET (R242). -/
def execXget (f : Fields) (s : State) : Host.Outcome State Fault Refusal :=
  guardedOp (.xget f) f s fun s => s.xIssue (.xget f) f fun _ a b c =>
    let len := bitsN c.toNat 0 32
    { cmd := { kind := .get, dst := .loc a.toNat, src := xAddr f.b b c, len := len,
               arg := bitsN c.toNat 32 32 },
      bad := lenBad f c, ranges := [(a.toNat, len)] }

/-- XPUT (R242): with `.gen` the stamp word before the source is part of its range. -/
def execXput (f : Fields) (s : State) : Host.Outcome State Fault Refusal :=
  guardedOp (.xput f) f s fun s => s.xIssue (.xput f) f fun _ a b c =>
    let len := bitsN c.toNat 0 32
    { cmd := { kind := .put, dst := xAddr f.a a c, src := .loc b.toNat, len := len,
               arg := bitsN c.toNat 32 32, rsw := xRsw f },
      bad := lenBad f c,
      ranges := [if f.gen then ((b - 8).toNat, len + 8) else (b.toNat, len)] }

/-- XCPY (R242). -/
def execXcpy (f : Fields) (s : State) : Host.Outcome State Fault Refusal :=
  guardedOp (.xcpy f) f s fun s => s.xIssue (.xcpy f) f fun _ a b c =>
    { cmd := { kind := .cpy, dst := xAddr f.a a c, src := xAddr f.b b c, len := bitsN c.toNat 0 32,
               arg := bitsN c.toNat 32 32, rsw := xRsw f },
      bad := lenBad f c }

/-- XMC (R243). -/
def execXmc (f : Fields) (s : State) : Host.Outcome State Fault Refusal :=
  guardedOp (.xmc f) f s fun s => s.xIssue (.xmc f) f fun _ a b c =>
    let len := bitsN c.toNat 0 32
    { cmd := { kind := .mc, dst := .loc a.toNat, src := xAddr f.b b c, len := len,
               arg := bitsN f.imm.toNat 26 6, rsw := xRsw f },
      bad := lenBad f c, ranges := [(a.toNat, len)] }

/-! ### Scalar transfers and operations (R244, R247) -/

/-- Bytes of a size code (R235). -/
def sizeOf_ (f : Fields) : Nat := 8 * 2 ^ f.fmt.toNat

/-- XLD (R244): `.lq` reserves a place in the queue at issue. -/
def execXld (f : Fields) (s : State) : Host.Outcome State Fault Refusal :=
  guardedOp (.xld f) f s fun s => do
    let n := sizeOf_ f
    let s1 ← s.xIssue (.xld f) f fun _ a b c =>
      { cmd := { kind := if f.lq then .ldlq else .ld,
                 dst := if f.lq then .none else .loc a.toNat,
                 src := xAddr f.b b c, len := n, arg := f.imm.toNat % 4 },
        bad := offBad f c,
        ranges := if f.lq then [] else [(a.toNat, n)],
        aligns := (if f.lq then [] else [(a.toNat, n)]) ++ [(xAlignOf f.b b c, n)] }
    if f.lq then s1.reserveLq (f.imm.toNat % 4) (.land s.tl.xnext) else pure s1

/-- XST (R244). -/
def execXst (f : Fields) (s : State) : Host.Outcome State Fault Refusal :=
  guardedOp (.xst f) f s fun s => s.xIssue (.xst f) f fun _ a b c =>
    let n := sizeOf_ f
    { cmd := { kind := .st, dst := xAddr f.a a c, src := .loc b.toNat, len := n, rsw := xRsw f },
      bad := offBad f c, ranges := [(b.toNat, n)],
      aligns := [(xAlignOf f.a a c, n), (b.toNat, n)] }

/-- Bytes of the target of an operation (R247). -/
def xopSize (n : Nat) : Nat :=
  match n with
  | 1 => 32 | 3 => 16 | 4 => 32 | 5 => 32 | _ => 8

/-- An operation shipped to the home of its target (R246, R247). -/
def xopBody (i : Instr) (n : Nat) (f : Fields) (s : State) : Body State :=
  s.xIssue i f fun _ a b c =>
    { cmd := { kind := .xop n, dst := xAddr f.a a c, src := .loc b.toNat, len := xopSize n },
      bad := offBad f c, ranges := [(b.toNat, 128)],
      aligns := [(xAlignOf f.a a c, xopSize n), (b.toNat, 128)] }

/-- XOP_ADD (R247). -/
def execXopAdd (f : Fields) (s : State) : Host.Outcome State Fault Refusal :=
  guardedOp (.xopAdd f) f s (xopBody (.xopAdd f) 0 f)

/-- XOP_FADD (R247). -/
def execXopFadd (f : Fields) (s : State) : Host.Outcome State Fault Refusal :=
  guardedOp (.xopFadd f) f s (xopBody (.xopFadd f) 1 f)

/-- XOP_CAS1 (R247). -/
def execXopCas1 (f : Fields) (s : State) : Host.Outcome State Fault Refusal :=
  guardedOp (.xopCas1 f) f s (xopBody (.xopCas1 f) 2 f)

/-- XOP_CAS2 (R247). -/
def execXopCas2 (f : Fields) (s : State) : Host.Outcome State Fault Refusal :=
  guardedOp (.xopCas2 f) f s (xopBody (.xopCas2 f) 3 f)

/-- XOP_CAS4 (R247). -/
def execXopCas4 (f : Fields) (s : State) : Host.Outcome State Fault Refusal :=
  guardedOp (.xopCas4 f) f s (xopBody (.xopCas4 f) 4 f)

/-- XOP_ENQ (R247). -/
def execXopEnq (f : Fields) (s : State) : Host.Outcome State Fault Refusal :=
  guardedOp (.xopEnq f) f s (xopBody (.xopEnq f) 5 f)

/-- XOP_CHASE (R247). -/
def execXopChase (f : Fields) (s : State) : Host.Outcome State Fault Refusal :=
  guardedOp (.xopChase f) f s (xopBody (.xopChase f) 6 f)

/-! ### Packets (R245) -/

/-- Whether an `xsend` breaks a reserved field of its row, which STATUS.PKT selects (R245). -/
def sendReserved (f : Fields) (isOpen : Bool) : Bool :=
  if isOpen then f.scp != 0 || f.rnd != 0 || f.imm != 0
  else !(decide (1 ≤ f.scp.toNat) && decide (f.scp.toNat ≤ 5))

/-- The first word of a packet: its destination and sync words, with the checks of R245. -/
def State.openPacket (s : State) (f : Fields) : Body State := do
  let d := s.st.rg (opIdx f.d)
  let (a, s1) ← s.rdX f.a
  let (b, s2) ← s1.rdSrc f.b
  let sw := xSw f d
  guardT (s.st.rgp (opIdx f.d) || a.2) .poison
  guardT ((swRange sw).any fun r => s.rangeBad r.1 r.2) .localRange
  guardT ((swRange sw ++ [(a.1.toNat, 128)]).any fun x => x.1 % x.2 != 0) .alignment
  guardT (b.2 && !f.c.getLsbD 0) .poison
  let cmd : XCmd :=
    { kind := .send, word := wordOf (.xsend f), ops := [d, a.1, b.1, 0], scp := f.scp.toNat,
      acq := f.acq, rel := f.rel, sw := sw, rsw := xRsw f, dst := .virt a.1.toNat,
      words := (natToBytes 8 b.1.toNat).map fun x => (x, b.2) }
  pure (s2.modSt fun st => { st with pkt := some cmd })

/-- A further word of a packet: the seventeenth is the open-packet trap (R85, R245). -/
def State.addWord (s : State) (f : Fields) (p : XCmd) : Body State := do
  let (b, s1) ← s.rdSrc f.b
  guardT (decide (128 ≤ p.words.length)) .openPacket
  guardT (b.2 && !f.c.getLsbD 0) .poison
  pure (s1.modSt fun st => { st with
    pkt := some { p with words := p.words ++ (natToBytes 8 b.1.toNat).map fun x => (x, b.2) } })

/-- The `.end` word: the packet closes and enters the queue, waiting in the slot while that is full
(R245). -/
def State.closePacket (s : State) : Body State :=
  match s.st.pkt with
  | none => .ok s
  | some p =>
    if 2 ≤ s.st.xq.length then stallE (some 7) false
    else
      (s.modSt fun st => { st with pkt := none, pktStop := none }).pushX
        { p with len := p.words.length }

/-- XSEND (R245). -/
def execXsend (f : Fields) (s : State) : Host.Outcome State Fault Refusal :=
  let isOpen := s.st.pkt.isSome
  if s.running && sendReserved f isOpen then .next (s.finish (trapE .reservedField))
  else
    strandOp (.xsend f) s fun s => do
      guardT (isOpen && (f.d != 0 || f.a != 0)) .operandClass
      guarded f (fun s => do
        let s1 ← match s.st.pkt with
          | none => s.openPacket f
          | some p => s.addWord f p
        if f.endf then s1.closePacket else pure s1) s

/-! ### Sync words (R234) -/

/-- SWSET (R234): performed by the engine in the order of the queue. -/
def execSwset (f : Fields) (s : State) : Host.Outcome State Fault Refusal :=
  guardedOp (.swset f) f s fun s => do
    let d := (s.st.rg (opIdx f.d), s.st.rgp (opIdx f.d))
    let (x, y, s2) ← s.rd2 f.a f.b
    let ea := eaOf x.1 y.1 16 f.imm
    guardT (x.2 || y.2) .poison
    guardT (s2.rangeBad ea.toNat 16) .localRange
    guardT (ea.toNat % 16 != 0) .alignment
    guardT d.2 .poison
    s2.pushX { kind := .swset (f.c.getLsbD 0), word := wordOf (.swset f), sw := some ea.toNat,
               ops := [d.1, x.1, y.1, 0], arg := d.1.toNat }

/-- SWGET (R234): D is written when the engine performs it. -/
def execSwget (f : Fields) (s : State) : Host.Outcome State Fault Refusal :=
  guardedOp (.swget f) f s fun s => do
    let (x, y, s1) ← s.rd2 f.a f.b
    let ea := eaOf x.1 y.1 16 f.imm
    guardT (x.2 || y.2) .poison
    guardT (s1.rangeBad ea.toNat 16) .localRange
    guardT (ea.toNat % 16 != 0) .alignment
    s1.pushX { kind := .swget (f.c.getLsbD 0), word := wordOf (.swget f), sw := some ea.toNat,
               ops := [0, x.1, y.1, 0], d := some f.d }

/-! ### Collective commands (R254, R255) -/

/-- Whether an entry index names no entry of the issuing context (R255). -/
def State.entryBad (s : State) (a : Word) : Bool :=
  let e := s.tt.val {} a.toNat
  decide (2 ^ 13 ≤ a.toNat) || !e.v || e.asid != s.kern.asid

/-- The further entry checks of `ctready` (R368): the own slot, and the root of an OP 3 entry, are in
MMASK. -/
def State.readyBad (s : State) (a : Word) : Bool :=
  let e := s.tt.val {} a.toNat
  let m := s.kern.mmask
  s.entryBad a || !m.getLsbD (bitsN s.kern.mctl.toNat 56 8) || (e.op == 3 && !m.getLsbD e.root)

/-- An entry joins those of the issuing kernel (R263). -/
def State.noteEntry (s : State) (i : Nat) : State :=
  match s.tl.kernel with
  | none => s
  | some k => s.modKern k fun x =>
      { x with entries := if x.entries.contains i then x.entries else x.entries ++ [i] }

/-- CTREADY (R255): an exchange command of pod scope for the drain (R262). -/
def execCtready (f : Fields) (s : State) : Host.Outcome State Fault Refusal :=
  guardedOp (.ctready f) f s fun s => do
    guardT s.st.pkt.isSome .openPacket
    let (a, s1) ← s.rd1 f.a
    guardT a.2 .poison
    guardT (s1.readyBad a.1) .collective
    let s2 ← s1.pushX { kind := .ctready, word := wordOf (.ctready f), scp := 5, rel := true,
                        ops := [0, a.1, 0, 0], arg := a.1.toNat }
    .ok (s2.noteEntry a.1.toNat)

/-- CTARM (R255). -/
def execCtarm (f : Fields) (s : State) : Host.Outcome State Fault Refusal :=
  guardedOp (.ctarm f) f s fun s => do
    guardT s.st.pkt.isSome .openPacket
    let d := s.st.rg (opIdx f.d)
    let (a, b, s1) ← s.rd2 f.a f.b
    let st := f.imm.getLsbD 0
    let sw := xSw f d
    guardT (a.2 || b.2 || s.st.rgp (opIdx f.d)) .poison
    guardT (s1.entryBad a.1 || (st && decide (2 ^ 32 ≤ b.1.toNat))) .collective
    guardT ((swRange sw).any fun r => s.rangeBad r.1 r.2) .localRange
    guardT ((swRange sw).any fun x => x.1 % x.2 != 0) .alignment
    s1.pushX { kind := .ctarm st, word := wordOf (.ctarm f), sw := sw, ops := [d, a.1, b.1, 0],
               arg := a.1.toNat }

/-- CTSTAT (R255). -/
def execCtstat (f : Fields) (s : State) : Host.Outcome State Fault Refusal :=
  guardedOp (.ctstat f) f s fun s => do
    guardT s.st.pkt.isSome .openPacket
    let (a, s1) ← s.rd1 f.a
    guardT a.2 .poison
    guardT (s1.entryBad a.1) .collective
    s1.pushX { kind := .ctstat, word := wordOf (.ctstat f), ops := [0, a.1, 0, 0],
               arg := a.1.toNat, d := some f.d }

end Sys2Proof.Machine
end

