-- ==== Sys2Proof/Machine/Translate.lean ====
section
/-! DEFINITION. TLBs, the miss table and its fault entries, and the translation instructions
(R218, R231, R295 to R306, R335, R336). -/

namespace Sys2Proof.Machine

/-! ### TLBs (R296 to R298) -/

/-- log2 of the page an entry maps. -/
def Xlate.log (x : Xlate) : Nat := psLog (ptePS x.leaf)

/-- Whether an entry translates an address of a context (R296). -/
def Xlate.covers (x : Xlate) (asid va : Nat) : Bool :=
  x.asid == asid && x.va / 2 ^ x.log == va % 2 ^ 56 / 2 ^ x.log

/-- The entry of an address under a leaf (R297). -/
def mkXlate (asid va : Nat) (leaf : BitVec 64) : Xlate :=
  { asid := asid, va := va % 2 ^ 56 / 2 ^ psLog (ptePS leaf) * 2 ^ psLog (ptePS leaf), leaf := leaf }

/-- Whether two leaves map a common part of a frame, under whichever types (R194, R298). -/
def State.sameFrame (s : State) (x y : BitVec 64) : Bool :=
  decide ((s.frameOf x).1 < (s.frameOf y).1 + (s.frameOf y).2) &&
    decide ((s.frameOf y).1 < (s.frameOf x).1 + (s.frameOf x).2)

/-- Whether an entry has to leave a TLB of a capacity before another comes in. -/
def tlbFull (cap : Nat) (tlb : List Xlate) (x : Xlate) : Bool := !tlb.contains x && decide (cap ≤ tlb.length)

/-- Puts an entry into a TLB of a capacity; which entry leaves a full one is not architectural: a free
value picks it (R296; log 26). -/
def tlbPut (cap pick : Nat) (tlb : List Xlate) (x : Xlate) : List Xlate :=
  if tlb.contains x then tlb
  else if cap ≤ tlb.length then tlb.eraseIdx (pick % tlb.length) ++ [x] else tlb ++ [x]

/-- Fills a group TLB (R296). -/
def State.fillGroup (s : State) (g : Nat) (x : Xlate) : State :=
  let s1 := s.modGroup g fun gr => { gr with tlb := tlbPut 512 (s.free 0).toNat gr.tlb x }
  if tlbFull 512 (s.groupAt g).tlb x then s1.draw else s1

/-- Fills a last-level TLB; the entry that leaves takes its group copies with it (R296). -/
def State.fillLast (s : State) (d : Nat) (x : Xlate) : State :=
  let all := (s.dieAt d).tlb
  let old := all.filter fun y => y.shut == 0 || y.asid != x.asid || y.va != x.va
  let new := tlbPut 12288 (s.free 0).toNat old x
  let gone := (all.filter fun y => !new.contains y).map fun y => { y with shut := 0 }
  let s1 := s.modDie d fun di => { di with tlb := new }
  let s2 := { s1 with groups := s1.groups.mapVals fun g gr =>
      if g / 8 = d then { gr with tlb := gr.tlb.filter fun y => !gone.contains y } else gr }
  if tlbFull 12288 old x then s2.draw else s2

/-- The translation that the TLBs of a tile hold for an address; a last-level hit fills the group
TLB (R296). -/
def State.tlbLookup (s : State) (tile asid va : Nat) : Option Xlate × State :=
  let g := groupOfTile tile
  match (s.groupAt g).tlb.find? (fun x => x.covers asid va) with
  | some x => (some x, s)
  | none =>
    match (s.dieAt (dieOfTile tile)).tlb.find? (fun x => x.covers asid va && !x.shut.testBit (g % 8)) with
    | some x => (some { x with shut := 0 }, s.fillGroup g { x with shut := 0 })
    | none => (none, s)

/-- Whether a leaf about to be filled aliases a frame mapped under another key (R298). -/
def State.keyAlias (s : State) (d : Nat) (e : BitVec 64) : Bool :=
  (s.dieAt d).tlb.any fun x => s.sameFrame x.leaf e && pteKey x.leaf != pteKey e

/-- A last-level entry that a removal in some groups alone leaves: it serves those groups no more (R231, R304). -/
def Xlate.shutFor (x : Xlate) (gs : Nat → Bool) (d : Nat) : Xlate :=
  { x with shut := (List.range 8).foldl (fun m g => if gs (d * 8 + g) then m ||| 2 ^ g else m) x.shut }

/-- Removes the entries that match from the TLBs of the groups and dies named (R304); every later translation in scope
comes from a walk. -/
def State.tlbDrop (s : State) (gs ds : Nat → Bool) (p : Xlate → Bool) : State :=
  { s with
    groups := s.groups.mapVals fun g gr =>
      if gs g then { gr with tlb := gr.tlb.filter fun x => !p x } else gr,
    dies := s.dies.mapVals fun d di =>
      if ds d then { di with tlb := di.tlb.filter fun x => !p x }
      else { di with tlb := di.tlb.map fun x => if p x then x.shutFor gs d else x } }

/-! ### Active commands -/

/-- An active command of a tile by number. -/
def Tile.act? (t : Tile) (no : Nat) : Option XAct := t.xact.find? fun a => a.cmd.no == no

/-- Changes an active command. -/
def Tile.modAct (t : Tile) (no : Nat) (f : XAct → XAct) : Tile :=
  { t with xact := t.xact.map fun a => if a.cmd.no = no then f a else a }

/-- Changes an active command of a tile. -/
def State.modAct (s : State) (tile no : Nat) (f : XAct → XAct) : State :=
  s.modTileAt tile fun t => t.modAct no f

/-- The issuer's sync word that a command counts into; `ctarm` names an armed word there (R255). -/
def XCmd.issuerSw (c : XCmd) : Option Nat :=
  match c.kind with
  | .ctarm _ => none
  | .swset _ => none
  | .swget _ => none
  | _ => c.sw

/-- NHELD of a command's word, raised or lowered (R232, R234, R240). -/
def State.heldCount (s : State) (tile : Nat) (c : XCmd) (up : Bool) : State :=
  match c.issuerSw with
  | some w =>
    let n := ((s.tileAt tile).xact.filter fun a => a.held.isSome && a.cmd.issuerSw == some w).length
    s.swHeld tile w (if up then some n else none)
  | none => s

/-- Holds a command at a fault (R239, R240): it sends no request, and counts no chunk at or beyond `stop`; of
two faults the lower one holds it. -/
def State.holdAct (s : State) (tile no : Nat) (r : FaultRec) (stop : Nat) : State :=
  match (s.tileAt tile).act? no with
  | none => s
  | some a =>
    let first := a.held.isSome && decide (a.stop ≤ stop)
    let s1 := s.modAct tile no fun a =>
      { a with held := if first then a.held else some r, stop := if first then a.stop else stop,
               walking := false }
    if a.held.isSome then s1 else s1.heldCount tile a.cmd true

/-! ### The miss table and the fault buffers (R300 to R302, R335, R336) -/

/-- log2 of the granularity of a level; a fault not found by a walk has that of a 64 KiB page
(R302). -/
def lvlLog (lvl : Nat) : Nat := if lvl ≤ 4 then (lvlIdx lvl).1 else 16

/-- Address bits of a fault record: bits [55:16], zero below the granularity of its level. -/
def faultVa (lvl va : Nat) : Nat := va % 2 ^ 56 / 2 ^ lvlLog lvl * 2 ^ lvlLog lvl

/-- Whether a miss-table entry stands for a miss at an address (R300): a walk entry of the page, or
a fault entry that a walk left at its level. -/
def Miss.stands (m : Miss) (asid va : Nat) : Bool :=
  m.asid == asid &&
  (match m.fault with
   | none => m.va / 2 ^ 16 == va % 2 ^ 56 / 2 ^ 16
   | some r => decide (r.lvl ≤ 4) && r.ref.isNone && r.va == faultVa r.lvl va)

/-- Adds a waiting command to a miss-table entry. -/
def State.joinMiss (s : State) (d i : Nat) (w : Nat × Nat) : State :=
  s.modDie d fun di =>
    let m := di.miss.val {} i
    { di with
      miss := di.miss.put i (if m.waits.contains w then m else { m with waits := m.waits ++ [w] }) }

/-- The lowest free place of a miss table of 64 entries. -/
def Die.freeMiss (d : Die) : Option Nat :=
  (List.range 64).find? fun i => (d.miss.val? i).isNone

/-- Records a new fault entry in its group's buffer, or drops the record (R301). -/
def State.recordFault (s : State) (g d i : Nat) (r : FaultRec) : State :=
  if (s.groupAt g).fbuf.length < 8 then
    (s.modGroup g fun gr => { gr with fbuf := gr.fbuf ++ [r] }).modDie d fun di =>
      { di with miss := di.miss.put i { di.miss.val {} i with inBuf := some g } }
  else
    s.modGroup g fun gr => { gr with drop := true, dropc := min 255 (gr.dropc + 1) }

/-- The miss-table entry that already stands for a fault (R300): one per unit where a walk stopped, whatever
the access. -/
def Die.sameFault (d : Die) (r : FaultRec) : Option Nat :=
  (d.miss.find? fun p =>
    match p.2.fault with
    | some q => q.asid == r.asid && q.va == r.va && q.ref == r.ref && q.lvl == r.lvl &&
        (decide (r.lvl ≤ 4) || (q.cause == r.cause && q.sub == r.sub))
    | none => false).map (·.1)

/-- A fault of a command (R300): it joins the entry of its unit, or makes one and records it; with
all 64 entries in use the command waits in its engine, and the answer is no. -/
def State.enterFault (s : State) (tile no : Nat) (r : FaultRec) (stop : Nat) : State × Bool :=
  let d := dieOfTile tile
  match (s.dieAt d).sameFault r with
  | some i => ((s.joinMiss d i (tile, no)).holdAct tile no r stop, true)
  | none =>
    match (s.dieAt d).freeMiss with
    | none => (s, false)
    | some i =>
      let s1 := s.modDie d fun di =>
        { di with miss := di.miss.put i { fault := some r, asid := r.asid, va := r.va,
                                          waits := [(tile, no)] } }
      ((s1.recordFault (groupOfTile tile) d i r).holdAct tile no r stop, true)

/-- GMASK: the groups of a die whose commands wait on an entry (R302). -/
def Miss.groups (m : Miss) : Nat :=
  (List.range 8).foldl
    (fun acc g => if m.waits.any (fun w => groupOfTile w.1 % 8 == g) then acc + 2 ^ g else acc) 0

/-- The two words of a fault-buffer entry as `fltrd` returns them (R302). -/
def FaultRec.words (r : FaultRec) (waitc gmask : Nat) : Word × Word :=
  (match r.ref with
   | some x => BitVec.ofNat 64 (x.toNat % 2 ^ 60)
   | none => BitVec.ofNat 64 (r.va / 2 ^ 16 % 2 ^ 40 * 2 ^ 16 + r.asid % 2 ^ 16),
   BitVec.ofNat 64 (2 ^ 63 + r.cause % 8 * 2 ^ 60 + r.sub % 8 * 2 ^ 57 + r.acc % 4 * 2 ^ 55 +
     r.lvl % 8 * 2 ^ 52 + r.tile % 2 ^ 18 * 2 ^ 34 + min 255 waitc * 2 ^ 24 + gmask % 256 * 2 ^ 16))

/-- WAITC and GMASK of a record when it is read: those of its miss-table entry, or those it had when
a replay freed that entry. -/
def State.faultWaits (s : State) (g : Nat) (r : FaultRec) : Nat × Nat :=
  match (s.dieAt (g / 8)).miss.find? fun p => p.2.fault == some r && p.2.inBuf == some g with
  | some p => (p.2.waits.length, p.2.groups)
  | none => (r.waitc, r.gmask)

/-! ### Levels of homes (R192, R215) -/

/-- The smallest scope that encloses a tile and the memory of a key (R192, R215). -/
def levelOfKey (tile a : Nat) : Nat :=
  let pa := keyPa a
  let near (t : Nat) : Nat :=
    if t = tile then 1 else if t / 32 = tile / 32 then 2 else if t / 256 = tile / 256 then 3
    else if t / 1024 = tile / 1024 then 4 else 5
  match keyType a with
  | 0 => near (pa / 2 ^ 20)
  | 6 => near (pa / 2 ^ 20)
  | 1 => let g := pa / 2 ^ 23
    if g = tile / 32 then 2 else if g / 8 = tile / 256 then 3 else if g / 32 = tile / 1024 then 4 else 5
  | 2 => let d := pa / 2 ^ 30
    if d = tile / 256 then 3 else if d / 4 = tile / 1024 then 4 else 5
  | _ => if pa / 2 ^ 39 = tile / 1024 then 4 else 5

/-- The leaf that a tile's TLBs, or else a walk, give for an address; none where the walk stops. -/
def State.leafFor (s : State) (tile asid va : Nat) : Option (BitVec 64) :=
  match (s.tlbLookup tile asid va).1 with
  | some x => some x.leaf
  | none =>
    match s.walk asid (va % 2 ^ 56) with
    | .leaf e _ _ => some e
    | .bad _ _ _ => none

/-- The level of the memory that a virtual address names for a tile; below every level where no page is present, since
the page that comes may lie anywhere (R219 to R221), and the pod where the address names no memory (R240 cause 4). -/
def State.levelOfVa (s : State) (tile va : Nat) : Nat :=
  match s.leafFor tile (s.kernOf tile).asid va with
  | some e =>
    match s.physOf e (va % 2 ^ 56) with
    | some a => levelOfKey tile a
    | none => 5
  | none => 0

/-- Whether some byte of n bytes at a virtual address or object of a command lies within scope S, 64 KiB page by page.
-/
def State.sideWithin (s : State) (tile S : Nat) (x : XAddr) (n : Nat) : Bool :=
  match x with
  | .none => false
  | .loc _ => false
  | .virt va =>
    (List.range ((va % 65536 + n + 65535) / 65536)).any fun i =>
      decide (s.levelOfVa tile (max va (va / 65536 * 65536 + 65536 * i)) ≤ S)
  | .obj ref _ _ _ =>
    let h := s.heaps.val {} (bitsN ref.toNat 54 6)
    decide (levelOfKey tile
      (if h.tt = 2 then memKey 2 h.abase else hbmKey s.own h.abase) ≤ S)

/-- Whether a command of a tile delivers bytes into another tile: by its multicast entry, or by a page of its
destination that translates there (R233, R243). -/
def State.deliversTo (s : State) (tile : Nat) (c : XCmd) (home : Nat) : Bool :=
  match c.kind, c.dst with
  | .mc, _ =>
    let e := (s.groupAt (groupOfTile tile)).mcast.val 0 c.arg
    groupOfTile home == groupOfTile tile && e.getLsbD 63 && e.getLsbD (home % 32)
  | _, .virt va =>
    (List.range ((va % 65536 + c.len + 65535) / 65536)).any fun i =>
      let x := max va (va / 65536 * 65536 + 65536 * i)
      ((s.leafFor tile (s.kernOf tile).asid x).bind fun e => s.physOf e (x % 2 ^ 56)).any fun k =>
        keyType k == 0 && keyPa k / 2 ^ 20 == home
  | _, _ => false

/-- Whether a multicast delivers into memory within scope S of its tile: into the own tile, or another of the group
(R192, R243). -/
def State.castWithin (s : State) (tile S entry : Nat) : Bool :=
  let e := (s.groupAt (groupOfTile tile)).mcast.val 0 entry
  e.getLsbD 63 && (e.getLsbD (tile % 32) || (decide (2 ≤ S) && bitsN e.toNat 0 32 != 0))

/-- Whether a `fence` of scope S, or a release of that scope, awaits the end of a command (R211, R219): its landing
lies in the own tile, or its target or its source in memory within S; a `ctready` at pod scope alone (R262). -/
def State.within (s : State) (tile S : Nat) (c : XCmd) : Bool :=
  match c.kind with
  | .get | .ld | .ldlq | .xop _ | .swset _ | .swget _ | .ctstat => true
  | .ctready | .ctarm _ => S == 5
  | .mc => s.castWithin tile S c.arg || s.sideWithin tile S c.src c.len
  | _ => s.sideWithin tile S c.dst c.len || s.sideWithin tile S c.src c.len

/-- Whether a command reads its source in the own tile's SRAM (R242, R244). -/
def XKind.readsOwn (k : XKind) : Bool :=
  match k with
  | .put | .st => true
  | _ => false

/-- Whether a `fence` or a release of scope S still awaits an active command: its end, or the reads of its source in the
own tile (R211, R219 to R221). -/
def State.awaits (s : State) (tile S : Nat) (a : XAct) : Bool :=
  (a.cmd.kind.readsOwn && decide (a.nxt < a.cmd.len)) || s.within tile S a.cmd

/-- The commands of a strand, queued or active, that a fence of scope S awaits. -/
def State.awaited (s : State) (tile r S : Nat) : List XCmd :=
  let t := s.tileAt tile
  ((t.strands.val {} r).xq.filter fun c => c.kind.readsOwn || s.within tile S c) ++
    ((t.xact.filter fun a => a.cmd.ri == r && s.awaits tile S a).map (·.cmd))

/-- Whether every access of a strand that a fence of scope S orders has been performed (R211). -/
def State.fenceReady (s : State) (tile r S : Nat) : Bool :=
  let st := s.strandAt tile r
  st.vq == 0 && st.tq.isEmpty && [0, 1].all (fun q => (st.drainsOf q).isEmpty) &&
    (s.awaited tile r S).isEmpty

/-- The idle counter of a fence that waits: IDLE6 where a command it awaits is held (R211). -/
def State.fenceIdle (s : State) (tile r S : Nat) : Nat :=
  if (s.awaited tile r S).any (fun c =>
      ((s.tileAt tile).act? c.no).any fun a => a.held.isSome) then 6 else 7

/-- FENCE (R211). -/
def execFence (f : Fields) (s : State) : Host.Outcome State Fault Refusal :=
  guardedOp (.fence f) f s fun s =>
    let S := f.scp.toNat
    if s.fenceReady s.cur s.curRec S then .ok (s.modSt fun st => { st with fence := none })
    else if s.st.fence.isSome then stallE (some (s.fenceIdle s.cur s.curRec S)) false
    else .error (.hold (s.modSt fun st => { st with fence := some S })
      { idle := some (s.fenceIdle s.cur s.curRec S) })

/-! ### tlbinv (R303, R304) -/

/-- The packages in the scope of an instruction of a tile (R304): its kernel's PKGSET at pod scope. -/
def State.pkgIn (s : State) (tile p : Nat) : Bool :=
  let ps := (s.kernOf tile).pkgset
  if ps = 0 then p == s.own else ps.getLsbD p

/-- Whether a group's TLB lies in a scope (R304). -/
def State.groupIn (s : State) (tile scp g : Nat) : Bool :=
  match scp with
  | 2 => g == groupOfTile tile
  | 3 => g / 8 == dieOfTile tile
  | 4 => g / 32 == pkgOfTile tile
  | _ => s.pkgIn tile (g / 32)

/-- Whether a die's last-level TLB lies in a scope (R304). -/
def State.dieIn (s : State) (tile scp d : Nat) : Bool :=
  match scp with
  | 2 => false
  | 3 => d == dieOfTile tile
  | 4 => d / 4 == pkgOfTile tile
  | _ => s.pkgIn tile (d / 4)

/-- Whether an active command goes on using the translations it has made: a held one does with the requests it
had sent, until they have been performed (R229, R231, R239). -/
def XAct.oldUse (a : XAct) : Bool :=
  !a.pages.isEmpty && (a.held.isNone || a.reqs.any fun r => r.coming || r.phase == .atPort)

/-- The active commands in scope that use a translation that matches; a held command retranslates when a
replay frees it (R231, R304). -/
def State.usersOf (s : State) (gs : Nat → Bool) (p : Xlate → Bool) : List (Nat × Nat) :=
  s.tiles.flatMap fun t =>
    if gs (groupOfTile t.1) then
      (t.2.xact.filter fun a => a.oldUse && a.pages.any p).map fun a => (t.1, a.cmd.no)
    else []

/-- Whether a command that a `tlbinv` waits for has completed or will retranslate. -/
def State.retranslated (s : State) (w : Nat × Nat) : Bool :=
  match (s.tileAt w.1).act? w.2 with
  | none => true
  | some a => !a.oldUse

/-- The removal of a `tlbinv` and its wait (R304): the entries go when it issues; the strand then
stalls until the commands that used them have completed or retranslated. One that waits has read its sources. -/
def State.invalidate (s : State) (scp : Nat) (p : Xlate → Bool) : Body State :=
  match s.st.tlbinv with
  | some ws =>
    if ws.all s.retranslated then .ok (s.modSt fun st => { st with tlbinv := none })
    else stallE (some 7) false
  | none =>
    let gs := s.groupIn s.cur scp
    let s1 := s.tlbDrop gs (s.dieIn s.cur scp) p
    let ws := s1.usersOf gs p
    if ws.isEmpty then .ok s1
    else .error (.hold (s1.modSt fun st => { st with tlbinv := some ws }) { idle := some 7 })

/-- Whether an entry maps a physical address: [63:61] target type, [46:0] address (R194, R304). -/
def State.mapsPa (s : State) (x : Xlate) (pa : Nat) : Bool :=
  s.inFrame x.leaf
    (if bitsN pa 61 3 = 3 then hbmKey s.own (bitsN pa 0 47) else memKey (bitsN pa 61 3) (bitsN pa 0 47))

/-- TLBINV_PAGE (R304). -/
def execTlbinvPage (f : Fields) (s : State) : Host.Outcome State Fault Refusal :=
  guardedOp (.tlbinvPage f) f s fun s =>
    if s.st.tlbinv.isSome then s.invalidate f.scp.toNat fun _ => false
    else do
      let (a, b, s1) ← s.rd2 f.a f.b
      guardT (a.2 || b.2) .poison
      s1.invalidate f.scp.toNat fun x : Xlate =>
        if f.imm.getLsbD 0 then s1.mapsPa x a.1.toNat else x.covers (b.1.toNat % 2 ^ 16) a.1.toNat

/-- TLBINV_CTX (R304). -/
def execTlbinvCtx (f : Fields) (s : State) : Host.Outcome State Fault Refusal :=
  guardedOp (.tlbinvCtx f) f s fun s =>
    if s.st.tlbinv.isSome then s.invalidate f.scp.toNat fun _ => false
    else do
      let (b, s1) ← s.rd1 f.b
      guardT b.2 .poison
      s1.invalidate f.scp.toNat fun x => x.asid == b.1.toNat % 2 ^ 16

/-- TLBINV_ALL (R304). -/
def execTlbinvAll (f : Fields) (s : State) : Host.Outcome State Fault Refusal :=
  guardedOp (.tlbinvAll f) f s fun s => s.invalidate f.scp.toNat fun _ => true

/-! ### tlbprobe, fltrd, fltrep, migr (R305, R306) -/

/-- The leaf that `tlbprobe` finds by the TLBs or a walk: 0 where the walk stops before a leaf or at a malformed
entry (R294, R305). -/
def State.probed_ (s : State) (tile asid va : Nat) : BitVec 64 :=
  match (s.tlbLookup tile asid va).1 with
  | some x => x.leaf
  | none =>
    match s.walkLeaf asid (va % 2 ^ 56) with
    | .leaf e _ _ => e
    | .bad _ _ _ => 0

/-- TLBPROBE (R305). -/
def execTlbprobe (f : Fields) (s : State) : Host.Outcome State Fault Refusal :=
  guardedOp (.tlbprobe f) f s fun s => do
    guardT (f.b != 0 && !s.st.sup) .privilege
    let (a, b, s1) ← s.rd2 f.a f.b
    guardT (a.2 || b.2) .poison
    let asid := if f.b = 0 then s.kern.asid else b.1.toNat % 2 ^ 16
    pure (s1.wrG f.d (s1.probed_ s1.cur asid a.1.toNat) false)

/-- The group that a group operand names: [4:3] die, [2:0] group of the own package (R303). -/
def State.groupArg (s : State) (x : Word) : Nat := pkgOfTile s.cur * 32 + x.toNat % 32

/-- FLTRD (R305): the oldest record of the group's buffer. -/
def execFltrd (f : Fields) (s : State) : Host.Outcome State Fault Refusal :=
  guardedOp (.fltrd f) f s fun s => do
    let (a, s1) ← s.rd1 f.a
    guardT a.2 .poison
    let g := s1.groupArg a.1
    match (s1.groupAt g).fbuf with
    | [] => pure ((s1.wrG f.d 0 false).wrG (f.d + 1) 0 false)
    | r :: rest =>
      let wg := s1.faultWaits g r
      let w := r.words wg.1 wg.2
      let s2 := s1.modGroup g fun gr => { gr with fbuf := rest }
      pure ((s2.wrG f.d w.1 false).wrG (f.d + 1) w.2 false)

/-- Whether a replay-all of a group frees a miss-table entry (R305, R335). -/
def Miss.replays (m : Miss) (g : Nat) : Bool :=
  m.fault.isSome &&
    (match m.inBuf with
     | some b => b == g
     | none => m.groups.testBit (g % 8))

/-- Replay-all of a group (R305): its fault entries are freed and their commands retranslate. -/
def State.replayGroup (s : State) (g : Nat) (fail : Bool) : State :=
  let d := g / 8
  let freed := ((s.dieAt d).miss.filter fun p => p.2.replays g).map (·.2)
  let keep := fun (r : FaultRec) =>
    match freed.find? (fun m => m.fault == some r && m.inBuf == some g) with
    | some m => { r with waitc := m.waits.length, gmask := m.groups }
    | none => r
  let s := s.modGroup g fun gr => { gr with drop := false, dropc := 0, fbuf := gr.fbuf.map keep }
  let s := s.modDie d fun di => { di with miss := di.miss.filter fun p => !p.2.replays g }
  (freed.flatMap (·.waits)).foldl
    (fun s w => s.modAct w.1 w.2 fun a => { a with replay := true, failing := fail }) s

/-- The entry of a fault buffer that an error has struck is invalid (R347): its miss-table entry is free, and the
commands that wait on it are translated again. -/
def State.loseFault (s : State) (g i : Nat) : State :=
  match (s.groupAt g).fbuf[i]? with
  | none => s
  | some r =>
    let d := g / 8
    let hit (m : Miss) : Bool := m.fault == some r && m.inBuf == some g
    let waits := ((s.dieAt d).miss.filter fun p => hit p.2).flatMap fun p => p.2.waits
    let s1 := s.modGroup g fun gr => { gr with fbuf := gr.fbuf.eraseIdx i }
    let s2 := s1.modDie d fun di => { di with miss := di.miss.filter fun p => !hit p.2 }
    waits.foldl (fun s w => s.modAct w.1 w.2 fun a => { a with replay := true }) s2

/-- FLTREP (R305): the strand continues at once. -/
def execFltrep (f : Fields) (s : State) : Host.Outcome State Fault Refusal :=
  guardedOp (.fltrep f) f s fun s => do
    let (a, s1) ← s.rd1 f.a
    guardT a.2 .poison
    pure (s1.replayGroup (s1.groupArg a.1) (f.imm.getLsbD 0))

/-- Whether a new leaf may replace an old one (R306 status 4). -/
def migrBad (old new : BitVec 64) : Bool :=
  !(decide (1 ≤ pteTT old) && decide (pteTT old ≤ 3)) ||
  !(decide (1 ≤ pteTT new) && decide (pteTT new ≤ 3)) ||
  !pteV new || bitsN new.toNat 31 8 != 0 || ptePS new != ptePS old || (leafBad new).isSome

/-- The lowest free request slot of Chervil's 32 (R306). -/
def State.freeChervil (s : State) : Option Nat :=
  (List.range 32).find? fun i => (s.chervil.val? i).isNone

/-- A leaf with its migration lock set or clear. -/
def withMl (e : BitVec 64) (ml : Bool) : BitVec 64 := setBits e 40 1 (b2n ml)

/-- Writes a page-table entry at its home, under the device's key (R292, R343). -/
def State.putLeaf (s : State) (key : Nat) (e : BitVec 64) : State :=
  s.wrP 0 key ((natToBytes 8 e.toNat).map fun b => (b, false))

/-- Whether a migration of the page that an entry names has not been released (R308). -/
def State.migrating (s : State) (key : Nat) : Bool :=
  s.chervil.any fun p =>
    match p.2 with
    | .migr m => m.leafKey == key
    | _ => false

/-- The request of `migr`: its status, and the state with the page locked (R306 to R308). -/
def State.startMigr (s : State) (asid va : Nat) (new : BitVec 64) (sw : Option Nat) :
    Nat × State :=
  match s.walkLeaf asid (va % 2 ^ 56) with
  | .bad _ _ _ => (1, s)
  | .leaf e _ key =>
    if 1 ≤ pteTT e ∧ pteTT e ≤ 3 ∧ (leafBad e).isSome then (1, s)
    else if pteML e || s.migrating key then (2, s)
    else if pteHB e then (3, s)
    else if migrBad e new then (4, s)
    else
      match s.freeChervil with
      | none => (5, s)
      | some i =>
        let s1 := s.putLeaf key (withMl e true)
        let q : Migr :=
          { asid := asid, va := va % 2 ^ 56, leafKey := key, old := e, new := withMl new false,
            tile := s.cur, kern := s.tl.kernel.getD 0, sw := sw }
        (0, { s1 with chervil := s1.chervil.put i (.migr q) })

/-- MIGR (R306). -/
def execMigr (f : Fields) (s : State) : Host.Outcome State Fault Refusal :=
  guardedOp (.migr f) f s fun s => do
    let (a, b, c, s1) ← s.rd3 f.a f.b f.c
    let sw := xRsw f
    guardT (a.2 || b.2 || c.2) .poison
    guardT ((swRange sw).any fun r => s1.rangeBad r.1 r.2) .localRange
    guardT ((swRange sw).any fun x => x.1 % x.2 != 0) .alignment
    let (st, s2) := s1.startMigr (c.1.toNat % 2 ^ 16) a.1.toNat b.1 sw
    pure (s2.wrG f.d (BitVec.ofNat 64 st) false)

end Sys2Proof.Machine
end

