-- ==== Sys2Proof/Machine/Heap.lean ====
section
/-! DEFINITION. The managed heap: object-table entries, the resolution of references and their
healing, and the heap instructions (R310 to R329, R332). -/

namespace Sys2Proof.Machine

/-! ### Regions and object-table entries (R311 to R313) -/

/-- A heap region descriptor by number. -/
def State.heapAt (s : State) (rg : Nat) : Heap := s.heaps.val {} rg

/-- Changes a heap region descriptor. -/
def State.modHeap (s : State) (rg : Nat) (f : Heap → Heap) : State :=
  { s with heaps := s.heaps.put rg (f (s.heapAt rg)) }

/-- An object-table entry (R313). -/
structure HEnt where
  st : Nat := 0
  pin : Nat := 0
  mv : Bool := false
  ret : Bool := false
  gen : Nat := 0
  /-- word 1: the copy's address, the forward's reference or the next free object -/
  w1 : Word := 0
  fep : Nat := 0
  size : Nat := 0
  deriving DecidableEq, Repr

/-- Word 0 of an entry. -/
def HEnt.word0 (e : HEnt) : Nat :=
  e.st % 4 * 2 ^ 62 + e.pin % 4096 * 2 ^ 50 + b2n e.mv * 2 ^ 49 + b2n e.ret * 2 ^ 48 +
    e.gen % 2 ^ 22

/-- Word 2 of an entry. -/
def HEnt.word2 (e : HEnt) : Nat := e.fep % 2 ^ 16 * 2 ^ 32 + e.size % 2 ^ 32

/-- The 32 bytes of an entry. -/
def HEnt.bytes (e : HEnt) : List Byte :=
  natToBytes 8 e.word0 ++ natToBytes 8 e.w1.toNat ++ natToBytes 8 e.word2 ++ natToBytes 8 0

/-- An entry as its 32 bytes give it. -/
def hEntOf (x : Nat) : HEnt :=
  { st := bitsN x 62 2, pin := bitsN x 50 12, mv := x.testBit 49, ret := x.testBit 48,
    gen := bitsN x 0 22, w1 := BitVec.ofNat 64 (x / 2 ^ 64), fep := bitsN x 160 16,
    size := bitsN x 128 32 }

/-- The key of an entry in own HBM (R312). -/
def State.entKey (s : State) (rg n : Nat) : Nat := hbmKey s.own ((s.heapAt rg).otbase + 32 * n)

/-- Reads an entry at its home, under the region's KEY (R311, R312). -/
def State.rdEnt (s : State) (rg n : Nat) : HEnt :=
  hEntOf (s.rdNum (s.heapAt rg).key (s.entKey rg n) 32)

/-- Writes an entry at its home (R312). -/
def State.wrEnt (s : State) (rg n : Nat) (e : HEnt) : State :=
  s.wrP (s.heapAt rg).key (s.entKey rg n) (e.bytes.map fun b => (b, false))

/-- Chunks of an object of a size (R313). -/
def chunksOf (size : Nat) : Nat := (size + 4095) / 4096

/-- The key of a copy that word 1 of a live or incoming entry names (R313). -/
def State.copyKey (s : State) (w1 : Word) : Nat :=
  if bitsN w1.toNat 61 3 = 3 then hbmKey s.own (bitsN w1.toNat 0 47)
  else memKey (bitsN w1.toNat 61 3) (bitsN w1.toNat 0 47)

/-- Word 1 of an entry whose copy lies k chunks into a region's arena (R326). -/
def Heap.place (h : Heap) (k : Nat) : Word := BitVec.ofNat 64 (h.tt * 2 ^ 61 + h.abase + 4096 * k)

/-- Word 1 of an entry whose copy lies at a key of a region's arena. -/
def Heap.wordAt (h : Heap) (a : Nat) : Word :=
  BitVec.ofNat 64 (h.tt * 2 ^ 61 + (if h.tt = 3 then keyPa a % 2 ^ 39 else keyPa a))

/-- Chunks from the arena's start to the copy that word 1 names. -/
def Heap.chunkOf (h : Heap) (w1 : Word) : Nat := (bitsN w1.toNat 0 47 - h.abase) / 4096

/-- The window address of a copy (R312, R325). -/
def Heap.windowOf (h : Heap) (w1 : Word) : Word :=
  h.win + (BitVec.ofNat 64 (bitsN w1.toNat 0 47) - BitVec.ofNat 64 h.abase)

/-! ### References (R315) -/

def refV (r : Word) : Bool := r.getLsbD 63
def refC (r : Word) : Bool := r.getLsbD 62
def refK (r : Word) : Bool := r.getLsbD 60
def refRg (r : Word) : Nat := bitsN r.toNat 54 6
def refObj (r : Word) : Nat := bitsN r.toNat 22 32
def refGen (r : Word) : Nat := bitsN r.toNat 0 22

/-- Whether two references name the same object: bits [59:0] (R315). -/
def sameObj (x y : Word) : Bool := x.toNat % 2 ^ 60 == y.toNat % 2 ^ 60

/-- The reference of an object with V 1, PH 0 and K 0 (R326). -/
def mkRef (col : Bool) (rg obj gen : Nat) : Word :=
  BitVec.ofNat 64 (2 ^ 63 + b2n col * 2 ^ 62 + rg % 64 * 2 ^ 54 + obj % 2 ^ 32 * 2 ^ 22 +
    gen % 2 ^ 22)

/-- What a resolution finds (R317): the final reference with its entry, a lookup held at an entry not
yet committed, or a fault. -/
inductive Resolved where
  | ok (ref : Word) (e : HEnt)
  | wait
  | bad (cause sub : Nat)
  deriving DecidableEq, Repr

/-- The loop of Resolve, n more lookups at most (R317). -/
def State.resolveLoop (s : State) (opn : Nat → Bool) (k : Bool) (ref : Word) : Nat → Resolved
  | 0 => .bad 6 0
  | n + 1 =>
    let rg := refRg ref
    let h := s.heapAt rg
    if !h.v || !opn rg then .bad 2 2
    else if h.nobj ≤ refObj ref then .bad 6 0
    else
      let e := s.rdEnt rg (refObj ref)
      if e.st = 0 ∨ e.gen ≠ refGen ref then .bad 6 0
      else if e.st = 2 then .wait
      else if e.st = 1 then .ok (setBits ref 62 1 (b2n h.col)) e
      else s.resolveLoop opn k (setBits e.w1 60 1 (b2n k)) n

/-- Resolve (R317): a reference with eight forwards faults. -/
def State.resolve (s : State) (opn : Nat → Bool) (ref : Word) : Resolved :=
  s.resolveLoop opn (refK ref) ref 8

/-- Whether a region is open to the kernel of a tile (R310). -/
def State.openTo (s : State) (tile rg : Nat) : Bool := (s.kernOf tile).heaps.getLsbD rg

/-- Whether the issuing strand may name a region in the instructions of R324: a supervisor any valid
one, a tenant those open to its kernel. -/
def State.mayName (s : State) (rg : Nat) : Bool := s.st.sup || s.openTo s.cur rg

/-! ### Healing (R318) -/

/-- Heals an `h` register that still holds the captured value. -/
def Strand.heal (st : Strand) (reg : Nat) (cap new : Word) : Strand :=
  if (st.rh reg).val = cap then st.wh reg { st.rh reg with val := new, unh := false } else st

/-- The compare-and-swap of the heal-back word at a tile's SRAM port: not journaled (R318). -/
def State.healBack (s : State) (tile hba : Nat) (cap new : Word) : State :=
  if s.ldNum tile hba 8 = cap.toNat then s.stNum tile hba 8 new.toNat false else s

/-- UNH of a reference that a tile loads (R321). -/
def State.unhealed (s : State) (tile : Nat) (r : Word) : Bool :=
  refV r && s.openTo tile (refRg r) && refC r != (s.tileAt tile).rcol.getLsbD (refRg r)

/-! ### hld, hst, hmov (R321, R322) -/

/-- HLD (R321). -/
def execHld (f : Fields) (s : State) : Host.Outcome State Fault Refusal :=
  guardedOp (.hld f) f s fun s => do
    let (x, y, s1) ← s.rd2 f.a f.b
    let ea := eaOf x.1 y.1 8 f.imm
    s1.localCheck ea 8 8 (x.2 || y.2)
    let (v, s2) := s1.loadLocal ea.toNat 8
    let r : Word := BitVec.ofNat 64 v.1
    pure (s2.modSt fun st => st.wh (opIdx f.d)
      { val := r, poi := v.2, unh := s2.unhealed s2.cur r, hbv := true, hba := ea.truncate 20 })

/-- HST (R321). -/
def execHst (f : Fields) (s : State) : Host.Outcome State Fault Refusal :=
  guardedOp (.hst f) f s fun s => do
    let (x, y, s1) ← s.rd2 f.a f.b
    let ea := eaOf x.1 y.1 8 f.imm
    let h := s1.st.rh (opIdx f.d)
    s1.storeCheck ea 8 (x.2 || y.2) h.poi (f.c.getLsbD 7)
    s1.storeData ea.toNat (natToBytes 8 h.val.toNat) h.poi (f.c.getLsbD 7)

/-- HMOV (R322). -/
def execHmov (f : Fields) (s : State) : Host.Outcome State Fault Refusal :=
  guardedOp (.hmov f) f s fun s =>
    if isH f.a then
      let h := s.st.rh (opIdx f.a)
      if isH f.d then .ok (s.modSt fun st => st.wh (opIdx f.d) h)
      else .ok (s.wrG f.d h.val h.poi)
    else do
      let (x, s1) ← s.rd1 f.a
      pure (s1.modSt fun st => st.wh (opIdx f.d)
        { val := x.1, poi := x.2, unh := s1.unhealed s1.cur x.1, hbv := false, hba := 0 })

/-! ### Relocations (R330 to R332) -/

/-- Releases the undo records that name a line of [a, a + n). -/
def State.releaseLines (s : State) (a n : Nat) : State :=
  { s with dies := s.dies.mapVals fun _ d =>
      { d with journal := d.journal.filter fun u =>
          !(decide (a ≤ u.line) && decide (u.line < a + n)) } }

/-- The compaction that is moving an object, by request slot. -/
def State.compactOf (s : State) (rg obj : Nat) : Option Nat :=
  (s.chervil.find? fun p =>
    match p.2 with
    | .compact r _ (some c) => r == rg && c.obj == obj && !c.committed
    | _ => false).map (·.1)

/-- Abandons the move of an object by a compaction (R332): the new copy is discarded, the entry keeps
the old one, and the compaction goes on. -/
def State.abandonCompact (s : State) (rg obj : Nat) : State :=
  match s.compactOf rg obj with
  | none => s
  | some i =>
    match s.chervil.val? i with
    | some (.compact r todo (some c)) =>
      let e := s.rdEnt rg obj
      let s1 := s.wrEnt rg obj { e with mv := false }
      let s2 := { s1 with chervil := s1.chervil.put i (.compact r todo none) }
      s2.releaseLines c.new (4096 * chunksOf c.size)
    | _ => s

/-- A compaction past an object of its region that has been freed, or moves out (R327). -/
def Chervil.without (c : Chervil) (rg obj : Nat) : Chervil :=
  match c with
  | .compact r todo cur => .compact r (if r = rg then todo.filter (· != obj) else todo) cur
  | c => c

/-- An object that is freed while its region compacts is no more the compaction's, and its storage is not reused
by it (R326, R327). -/
def State.leaveCompact (s : State) (rg obj : Nat) (e : HEnt) : State :=
  let s1 := s.modHeap rg fun h => { h with dead := (h.chunkOf e.w1, chunksOf e.size) :: h.dead }
  { s1 with chervil := s1.chervil.mapVals fun _ c => c.without rg obj }

/-- Whether a region is compacting. -/
def State.compacting (s : State) (rg : Nat) : Bool :=
  s.chervil.any fun p =>
    match p.2 with
    | .compact r _ _ => r == rg
    | _ => false

/-! ### Statuses (R324) -/

/-- What the statuses 7, 1 and 2 of R324 leave: the final reference and entry, a status, or a wait
for the commit of a move. -/
inductive Named where
  | ok (ref : Word) (e : HEnt)
  | wait
  | status (n : Nat)
  deriving DecidableEq, Repr

/-- Resolves the reference of a heap instruction (R324). -/
def State.named (s : State) (r : Word) : Named :=
  if !refV r then .status 7
  else
    match s.resolve s.mayName r with
    | .ok ref e => .ok ref e
    | .wait => .wait
    | .bad 2 _ => .status 1
    | .bad _ _ => .status 2

/-- The wait for an entry's home: it counts in no idle counter (R324). -/
def heapStall {α : Type} : Body α := stallE none false

/-! ### hpin, hunpin, hcmp (R323, R325) -/

/-- The pinning of a resolved object (R325). -/
def State.pinObj (s : State) (f : Fields) (cap ref : Word) (e : HEnt) : Body State := do
  let rg := refRg ref
  let st := s.st.rh (opIdx f.a)
  if e.pin = 4095 then pure ((s.wrG f.d 3 false).wrG (f.d + 1) 0 false)
  else
    if st.unh && st.hbv then s.localWait st.hba.toNat 8
    let s1 := s.abandonCompact rg (refObj ref)
    let e1 := s1.rdEnt rg (refObj ref)
    let s2 := s1.wrEnt rg (refObj ref) { e1 with pin := e1.pin + 1 }
    let s3 := if st.unh && st.hbv then s2.healBack s2.cur st.hba.toNat cap ref else s2
    let s4 := s3.modSt fun st => st.heal (opIdx f.a) cap (setBits ref 61 1 1)
    pure ((s4.wrG f.d 0 false).wrG (f.d + 1) ((s4.heapAt rg).windowOf e1.w1) false)

/-- HPIN (R325): a target not yet committed, and an object being moved, are waited for. -/
def execHpin (f : Fields) (s : State) : Host.Outcome State Fault Refusal :=
  guardedOp (.hpin f) f s fun s => do
    let h := s.st.rh (opIdx f.a)
    guardT h.poi .poison
    match s.named h.val with
    | .status n => pure ((s.wrG f.d (BitVec.ofNat 64 n) false).wrG (f.d + 1) 0 false)
    | .wait => heapStall
    | .ok ref e =>
      if e.mv && (s.compactOf (refRg ref) (refObj ref)).isNone then heapStall
      else s.pinObj f h.val ref e

/-- HUNPIN (R325). -/
def execHunpin (f : Fields) (s : State) : Host.Outcome State Fault Refusal :=
  guardedOp (.hunpin f) f s fun s => do
    let h := s.st.rh (opIdx f.a)
    guardT h.poi .poison
    match s.named h.val with
    | .status n => pure (s.wrG f.d (BitVec.ofNat 64 n) false)
    | .wait => heapStall
    | .ok ref e =>
      if e.pin = 0 then pure (s.wrG f.d 3 false)
      else
        let s1 := s.wrEnt (refRg ref) (refObj ref) { e with pin := e.pin - 1 }
        let s2 := s1.modSt fun st =>
          if (st.rh (opIdx f.a)).val = h.val then
            st.wh (opIdx f.a) { st.rh (opIdx f.a) with val := setBits h.val 61 1 0 }
          else st
        pure (s2.wrG f.d 0 false)

/-- Heals the register of a `hcmp` operand whose resolution succeeded (R323). -/
def Strand.healIf (st : Strand) (reg : Nat) (cap : Word) (r : Resolved) : Strand :=
  match r with
  | .ok ref _ => st.heal reg cap ref
  | _ => st

/-- HCMP (R323). -/
def execHcmp (f : Fields) (s : State) : Host.Outcome State Fault Refusal :=
  guardedOp (.hcmp f) f s fun s => do
    let a := s.st.rh (opIdx f.a)
    let b := s.st.rh (opIdx f.b)
    guardT (a.poi || b.poi) .poison
    if sameObj a.val b.val then pure (s.wrG f.d 1 false)
    else if !refV a.val || !refV b.val then pure (s.wrG f.d 2 false)
    else
      let x := s.resolve (s.openTo s.cur) a.val
      let y := s.resolve (s.openTo s.cur) b.val
      let s1 := s.modSt fun st => (st.healIf (opIdx f.a) a.val x).healIf (opIdx f.b) b.val y
      match x, y with
      | .ok p _, .ok q _ => pure (s1.wrG f.d (b2w (sameObj p q)) false)
      | .bad _ _, _ => pure (s1.wrG f.d 2 false)
      | _, .bad _ _ => pure (s1.wrG f.d 2 false)
      | _, _ => heapStall

/-! ### hobj (R326, R327, R329) -/

/-- A reference with V 0 that carries a status (R326). -/
def failRef (n : Nat) : HReg := { val := BitVec.ofNat 64 n }

/-- The first entry of a region's free list that is not retired, and the one after it (R326). -/
def State.freeHead (s : State) (rg n : Nat) : Nat → Option (Nat × Nat)
  | 0 => none
  | k + 1 =>
    if n = 2 ^ 32 - 1 then none
    else
      let e := s.rdEnt rg n
      if e.ret then s.freeHead rg (bitsN e.w1.toNat 0 32) k
      else some (n, bitsN e.w1.toNat 0 32)

/-- Takes an entry and storage for an object of a size in a region (R326): none is status 5. -/
def State.allocObj (s : State) (rg size st : Nat) : Option (Nat × State) :=
  let h := s.heapAt rg
  match s.freeHead rg h.freeh.toNat h.nobj with
  | none => none
  | some (n, nxt) =>
    if h.asize < h.next + chunksOf size then none
    else
      let e := s.rdEnt rg n
      let s1 := s.wrEnt rg n
        { st := st, pin := 0, mv := false, ret := false, gen := e.gen, w1 := h.place h.next,
          fep := 0, size := size }
      some (n, s1.modHeap rg fun h =>
        { h with freeh := BitVec.ofNat 32 nxt, next := h.next + chunksOf size })

/-- Zeroes storage under a key and clears its poison marks (R326). -/
def State.zeroStore (s : State) (kid a n : Nat) : State :=
  let s := s.reKeys kid a (n / 32)
  { s with mem := memClear s.mem a n,
           marks := s.marks.filter fun g => !(decide (a ≤ g) && decide (g < a + n)) }

/-- HOBJ_ALLOC (R326). -/
def execHobjAlloc (f : Fields) (s : State) : Host.Outcome State Fault Refusal :=
  guardedOp (.hobjAlloc f) f s fun s => do
    let (a, b, s1) ← s.rd2 f.a f.b
    guardT (a.2 || b.2) .poison
    let size := a.1.toNat % 2 ^ 32
    let rg := b.1.toNat % 64
    let put (s : State) (r : HReg) : Body State := pure (s.modSt fun st => st.wh (opIdx f.d) r)
    if !(s1.heapAt rg).v || !s1.mayName rg then put s1 (failRef 1)
    else if size = 0 then put s1 (failRef 8)
    else
      match s1.allocObj rg size 1 with
      | none => put s1 (failRef 5)
      | some (n, s2) =>
        let e := s2.rdEnt rg n
        let s3 := s2.zeroStore (s2.heapAt rg).key (s2.copyKey e.w1) (4096 * chunksOf size)
        put s3 { val := mkRef (s3.heapAt rg).col rg n e.gen }

/-- Frees an entry (R326): its generation rises or is spent, and it joins the free list. -/
def State.freeEnt (s : State) (rg n : Nat) : State :=
  let e := s.rdEnt rg n
  if e.gen = 2 ^ 22 - 1 then
    s.wrEnt rg n { e with st := 0, mv := false, ret := true, w1 := 0xffffffff, fep := 0, pin := 0 }
  else
    let h := s.heapAt rg
    (s.wrEnt rg n
      { e with st := 0, mv := false, gen := e.gen + 1, w1 := h.freeh.zeroExtend 64, fep := 0,
               pin := 0 }).modHeap rg fun h => { h with freeh := BitVec.ofNat 32 n }

/-- HOBJ_FREE (R326). -/
def execHobjFree (f : Fields) (s : State) : Host.Outcome State Fault Refusal :=
  guardedOp (.hobjFree f) f s fun s => do
    let h := s.st.rh (opIdx f.a)
    guardT h.poi .poison
    match s.named h.val with
    | .status n => pure (s.wrG f.d (BitVec.ofNat 64 n) false)
    | .wait => heapStall
    | .ok ref e =>
      let rg := refRg ref
      let n := refObj ref
      if refK h.val then pure (s.wrG f.d 10 false)
      else if e.pin ≠ 0 then pure (s.wrG f.d 4 false)
      else if e.mv && (s.compactOf rg n).isNone then pure (s.wrG f.d 9 false)
      else
        let s1 := s.abandonCompact rg n
        pure (((if s1.compacting rg then s1.leaveCompact rg n e else s1).freeEnt rg n).wrG f.d 0 false)

/-- HOBJ_INFO (R326). -/
def execHobjInfo (f : Fields) (s : State) : Host.Outcome State Fault Refusal :=
  guardedOp (.hobjInfo f) f s fun s => do
    let h := s.st.rh (opIdx f.a)
    guardT h.poi .poison
    match s.named h.val with
    | .status n =>
      pure ((s.wrG f.d (BitVec.ofNat 64 (2 ^ 63 + n)) false).wrG (f.d + 1) 0 false)
    | .wait => heapStall
    | .ok _ e =>
      pure ((s.wrG f.d (BitVec.ofNat 64 e.word0) false).wrG (f.d + 1)
        (BitVec.ofNat 64 e.word2) false)

/-- The start of a move into another region (R326): the destination reference, or a status. -/
def State.startMove (s : State) (r ref : Word) (e : HEnt) (rg2 : Nat) : HReg × State :=
  let rg := refRg ref
  let h2 := s.heapAt rg2
  if !h2.v || !s.mayName rg2 || h2.asid != (s.heapAt rg).asid then (failRef 1, s)
  else if refK r then (failRef 10, s)
  else if e.pin ≠ 0 then (failRef 4, s)
  else if e.mv then (failRef 9, s)
  else
    match s.freeChervil with
    | none => (failRef 6, s)
    | some i =>
      match s.allocObj rg2 e.size 2 with
      | none => (failRef 5, s)
      | some (n, s1) =>
        let d := s1.rdEnt rg2 n
        let s2 := s1.wrEnt rg (refObj ref) { e with mv := true }
        let q : Reloc :=
          { rg := rg, obj := refObj ref, rg2 := rg2, obj2 := n, old := s.copyKey e.w1,
            new := s.copyKey d.w1, size := e.size }
        let cs := s2.chervil.mapVals fun _ c => c.without rg (refObj ref)
        ({ val := mkRef h2.col rg2 n d.gen }, { s2 with chervil := cs.put i (.move q) })

/-- HOBJ_MOVE (R326). -/
def execHobjMove (f : Fields) (s : State) : Host.Outcome State Fault Refusal :=
  guardedOp (.hobjMove f) f s fun s => do
    let h := s.st.rh (opIdx f.a)
    let (b, s1) ← s.rd1 f.b
    guardT (h.poi || b.2) .poison
    let rg2 := b.1.toNat % 64
    let shut := !(s1.heapAt rg2).v || !s1.mayName rg2 ||
      (s1.heapAt rg2).asid != (s1.heapAt (refRg h.val)).asid
    match s1.named h.val with
    | .status n =>
      pure (s1.modSt fun st => st.wh (opIdx f.d) (failRef (if n = 2 ∧ shut then 1 else n)))
    | .wait => heapStall
    | .ok ref e =>
      let (r, s2) := s1.startMove h.val ref e rg2
      pure (s2.modSt fun st => st.wh (opIdx f.d) r)

/-- Insertion of an object into a list ordered by the address of its copy. -/
def insertBy (addr : Nat → Nat) (x : Nat) : List Nat → List Nat
  | [] => [x]
  | y :: t => if addr x < addr y then x :: y :: t else y :: insertBy addr x t

/-- The objects that a compaction moves (R327): live, wholly below NEXT, unpinned and not being
moved, in ascending address order. -/
def State.toCompact (s : State) (rg : Nat) : List Nat :=
  let h := s.heapAt rg
  let addr (n : Nat) : Nat := bitsN (s.rdEnt rg n).w1.toNat 0 47
  ((List.range h.nobj).filter fun n =>
    let e := s.rdEnt rg n
    e.st == 1 && e.pin == 0 && !e.mv &&
      decide (addr n + 4096 * chunksOf e.size ≤ h.abase + 4096 * h.next)).foldr (insertBy addr) []

/-- HOBJ_COMPACT (R327). -/
def execHobjCompact (f : Fields) (s : State) : Host.Outcome State Fault Refusal :=
  guardedOp (.hobjCompact f) f s fun s => do
    let (b, s1) ← s.rd1 f.b
    guardT b.2 .poison
    let rg := b.1.toNat % 64
    if !(s1.heapAt rg).v || !s1.mayName rg then pure (s1.wrG f.d 1 false)
    else if s1.compacting rg || (s1.heapAt rg).flipping then pure (s1.wrG f.d 9 false)
    else
      match s1.freeChervil with
      | none => pure (s1.wrG f.d 6 false)
      | some i =>
        let q : Chervil := .compact rg (s1.toCompact rg) none
        let s2 := s1.modHeap rg fun h => { h with dead := [] }
        pure ({ s2 with chervil := s2.chervil.put i q }.wrG f.d 0 false)

/-- RCOL of a tile with the colour of a region (R316). -/
def Tile.setCol (t : Tile) (rg : Nat) (col : Bool) : Tile :=
  { t with rcol := setBits t.rcol rg 1 (b2n col) }

/-- Sets a region's bit of RCOL in every tile (R316). -/
def State.colourAll (s : State) (rg : Nat) (col : Bool) : State :=
  { s with tiles := s.tiles.mapVals fun _ t => t.setCol rg col }

/-- HOBJ_FLIP (R329): it waits for an earlier flip; the forwards are freed in the background. -/
def execHobjFlip (f : Fields) (s : State) : Host.Outcome State Fault Refusal :=
  guardedOp (.hobjFlip f) f s fun s => do
    let (b, s1) ← s.rd1 f.b
    guardT b.2 .poison
    let rg := b.1.toNat % 64
    let h := s1.heapAt rg
    if !h.v || !s1.mayName rg then pure (s1.wrG f.d 1 false)
    else if h.flipping then heapStall
    else
      let s2 := s1.modHeap rg fun h =>
        { h with col := !h.col, epoch := h.epoch + 1, flipping := true }
      pure ((s2.colourAll rg (!h.col)).wrG f.d 0 false)

end Sys2Proof.Machine
end

