-- ==== Sys2Proof/Machine/System.lean ====
section
/-! DEFINITION. The system instructions, regions and pairing (R59, R276, R281, R286 to R289, R351 to
R355). -/

namespace Sys2Proof.Machine

/-! ### Service, returns, special registers (R287) -/

/-- SVC with n ≥ 1 (R287): posts a service event and reads back its sequence number. -/
def execSvc (f : Fields) (s : State) : Host.Outcome State Fault Refusal :=
  guardedOp (.svc f) f s fun s => do
    let (a, s1) ← s.rd1 f.a
    guardT a.2 .poison
    let n := f.imm.toNat % 65536
    let seq := (s1.ctxOf s1.kern.asid).evNext
    pure ((s1.postEvent s1.kern.asid 1 0 s1.st.wid a.1 (BitVec.ofNat 64 n)).wrG f.d
      (seq.zeroExtend 64) false)

/-- The return of `svc 0` and `tret` (R287): with ECAUSE zero it is the software trap; an EPC that an
`mtsr` wrote is checked as a transfer (R71). -/
def State.trapReturnBody (s : State) : Body State := do
  guardT (s.st.ecause == 0) .software
  guardT (s.st.epcw && s.targetBad s.cur s.st.epc) .target
  pure (s.modSt Strand.trapReturn)

/-- SVC 0 (R287). -/
def execSvcReturn (f : Fields) (s : State) : Host.Outcome State Fault Refusal :=
  guardedOp (.svcReturn f) f s State.trapReturnBody

/-- TRET (R287). -/
def execTret (f : Fields) (s : State) : Host.Outcome State Fault Refusal :=
  guardedOp (.tret f) f s State.trapReturnBody

/-- MFSR (R287): the result is unpoisoned. -/
def execMfsr (f : Fields) (s : State) : Host.Outcome State Fault Refusal :=
  guardedOp (.mfsr f) f s fun s => .ok (s.wrG f.d (s.rdSpecial (specialNo f)) false)

/-- MTSR (R287): the privilege of the register, whatever the predicate (R59, R81), the operand's
poison, then the register's reserved bits and values (R11). -/
def execMtsr (f : Fields) (s : State) : Host.Outcome State Fault Refusal :=
  strandOp (.mtsr f) s fun s => do
    guardT (!s.st.sup && !tenantWrites (specialNo f)) .privilege
    guarded f (fun s => do
      let (a, s1) ← s.rd1 f.a
      guardT a.2 .poison
      guardT (specialBad (specialNo f) a.1) .reservedField
      pure (s1.wrSpecial (specialNo f) a.1)) s

/-! ### park and halt (R276, R281, R287) -/

/-- PARK (R287): a suspension point, and a THRESH park of the tile. -/
def execPark (f : Fields) (s : State) : Host.Outcome State Fault Refusal :=
  guardedOp (.park f) f s fun s => do
    s.suspendReady
    let s1 := s.suspendAt s.cur s.curRec 1 0 0 0 s.st.npc
    pure (s1.modTl fun t => t.askPark 1 true).startParks

/-- HALT (R287): stops the context as trap route 0 does, with STATE 4 and a halt event. -/
def execHalt (f : Fields) (s : State) : Host.Outcome State Fault Refusal :=
  guardedOp (.halt f) f s fun s =>
    let n := f.imm.toNat % 65536
    let k := s.kern
    let wid := s.st.wid
    let pc := s.st.upc
    let s1 := s.modSt fun st =>
      { st with epc := pc, epcw := false, ecause := ecauseOf 0x19 n, frameRpt := st.rpt,
                frameIdx := st.repidx, target := some pc }
    .ok ((s1.stopCtx k.asid 4 (some (s.cur, s.curRec))).postEvent k.asid 5 0 wid pc
      (BitVec.ofNat 64 n))

/-! ### klaunch (R268, R269, R288) -/

/-- Whether a ring has no place for one more record (R268, R269). -/
def Ring.full (r : Ring) : Bool :=
  r.size == 0 || (r.tail.toNat + 1) % r.size.toNat == r.head.toNat

/-- Sets n bytes of a launch record, least significant first. -/
def putBytes (rec0 : List PByte) (at_ n x : Nat) : List PByte :=
  rec0.take at_ ++ (natToBytes n x).map (fun b => (b, false)) ++ rec0.drop (at_ + n)

/-- The record of a `klaunch` (R288): the issuer's ASID, its KEYID unless the context holds the one
named, and SUP only from a supervisor. -/
def State.klaunchRec (s : State) (bs : List PByte) : List PByte :=
  let w := bytesToNat ((bs.take 8).map (·.1))
  let k := s.kern
  let kid := bitsN w 35 13
  let kid' := if (s.ctxOf k.asid).keys.contains kid || ((s.ctxOf k.asid).supok && kid == 0) then kid
    else k.keyid
  let sup := s.st.sup && w.testBit 32
  putBytes bs 0 8 (k.asid % 2 ^ 16 * 2 ^ 48 + kid' * 2 ^ 35 + bitsN w 33 2 * 2 ^ 33 +
    b2n sup * 2 ^ 32 + w % 2 ^ 32)

/-- Appends a record to the kernel launch queue of a priority (R269): its ticket, and the state. -/
def State.kqAppend (s : State) (q : Nat) (asid : Nat) (bs : List PByte) : Nat × State :=
  let r := s.kq.val {} q
  let tk := s.tickets.val 0 q
  let s1 := s.wrP 0 (hbmKey s.own (r.base.toNat % 2 ^ 39 + 256 * r.tail.toNat)) bs
  let tail : BitVec 16 := BitVec.ofNat 16 ((r.tail.toNat + 1) % r.size.toNat)
  (tk, { s1 with kq := s1.kq.put q { r with tail := tail, recs := r.recs ++ [(tk, asid)] },
                 tickets := s1.tickets.put q ((tk + 1) % 2 ^ 32) })

/-- KLAUNCH (R288). -/
def execKlaunch (f : Fields) (s : State) : Host.Outcome State Fault Refusal :=
  guardedOp (.klaunch f) f s fun s => do
    let (a, b, s1) ← s.rd2 f.a f.b
    guardT (a.2 || b.2) .poison
    s1.localCheck a.1 256 64 false
    let q := max (b.1.toNat % 4) s1.kern.prio
    if !s1.fenceReady s1.cur s1.curRec 4 then stallE (some 7) false
    else if (s1.kq.val {} q).full then pure (s1.wrG f.d (BitVec.allOnes 64) false)
    else
      let s2 := s1.meetFlips s1.cur a.1.toNat 256
      let bs := s2.rdP 0 (sramKey s2.cur a.1.toNat) 256
      let (tk, s3) := s2.kqAppend q s2.kern.asid (s2.klaunchRec bs)
      pure (s3.wrG f.d (BitVec.ofNat 64 tk) false)

/-! ### Regions and pairing (R351 to R355) -/

/-- REGION (R351): an open region closes first, with the compare of a pair by its leader (R354). -/
def execRegion (f : Fields) (s : State) : Host.Outcome State Fault Refusal :=
  guardedOp (.region f) f s fun s =>
    let s1 := if s.st.region.isSome && s.st.partner.isSome && !s.st.folw then
        s.pairCompareAt s.cur s.curRec else s
    .ok (s1.modSt fun st => { st with
      region := some { entry := st.npc, rngs := st.rngs,
                       pkt := (match st.pkt with
                         | some p => p.words.length / 8
                         | none => 0) } })

/-- REGION_CLOSE (R351). -/
def execRegionClose (f : Fields) (s : State) : Host.Outcome State Fault Refusal :=
  guardedOp (.regionClose f) f s fun s =>
    let s1 := if s.st.partner.isSome then s.pairCompareAt s.cur s.curRec else s
    .ok (s1.modSt Strand.closeRegion)

/-- The slot of the follower of a slot (R353). -/
def partnerSlot (slot : Nat) : Nat := if slot % 2 = 0 then slot + 1 else slot - 1

/-- Whether a thread slot of a tile is occupied. -/
def Tile.slotUsed (t : Tile) (slot : Nat) : Bool := t.strands.any fun p => p.2.slot == some slot

/-- PAIR (R353). -/
def execPair (f : Fields) (s : State) : Host.Outcome State Fault Refusal :=
  guardedOp (.pair f) f s fun s =>
    let slot := s.st.slot.getD 0
    let fs := partnerSlot slot
    if s.st.partner.isSome then .ok (s.wrG f.d 2 false)
    else if s.tl.slotUsed fs then .ok (s.wrG f.d 1 false)
    else
      let key := 64 + fs
      let s1 := (s.wrG f.d 0 false).modSt fun st =>
        { st with mis := false, partner := some key, folw := false, crc := crcStart, retired := 0,
                  fwd := [], foldQ := [], stored := [], ptrap := none }
      let fo := { s1.st.asFollower s.curRec fs with pc := s.st.npc, target := none }
      .ok (s1.modTl fun t =>
        { t with strands := t.strands.put key fo, cr := t.cr.put fs 0 })

/-- UNPAIR (R353): the compare has been made before (R354). -/
def execUnpair (f : Fields) (s : State) : Host.Outcome State Fault Refusal :=
  guardedOp (.unpair f) f s fun s =>
    if s.st.partner.isSome then
      let c := s.st.crc
      .ok ((s.endPair s.cur s.curRec).wrG f.d (c.zeroExtend 64) false)
    else .ok (s.wrG f.d 0 false)

end Sys2Proof.Machine
end

