-- ==== Sys2Proof/Machine/TileSteps.lean ====
section
/-! DEFINITION. The steps of a tile: its issue cycle, queues, timeouts, grants, the vector and table
engines' arbitration, readiness and loading of records, pair compares, freezing and error injection
(R57, R85, R105, R108, R120, R147, R163, R168, R184 to R190, R275, R304, R349, R354, R358, R359). -/

namespace Sys2Proof.Machine

/-- A step of the machine that is not due changes nothing. -/
def stepIf (c : Bool) (s s' : State) : Host.Outcome State Fault Refusal :=
  .next (if c then s' else s)

/-! ### Issue (R185) -/

/-- The strand in a thread slot: its record. -/
def Tile.inSlot (t : Tile) (n : Nat) : Option (Nat × Strand) :=
  t.strands.find? fun p => p.2.slot == some n

/-- Whether the expiry of a barrier's timer stops the parties that are missing in a tile (R206). -/
def State.timedOut (s : State) (tile : Nat) : Bool :=
  (List.range 5).any fun l =>
    let d := s.domAt (l + 1) (s.domOf (l + 1) tile)
    d.expired && !d.conds.isEmpty

/-- Whether a tile freezes for a new setting of its group (R380). -/
def State.switching (s : State) (tile : Nat) : Bool := (s.groupAt (groupOfTile tile)).pending

/-- Whether a tile's port holds the request channel: it is frozen, or a freeze is asked for, or a new setting of its
group (R359, R380). -/
def State.portHeld (s : State) (tile : Nat) : Bool :=
  (s.tileAt tile).frozen || (s.tileAt tile).freezeReq || s.switching tile

/-- Whether a stop of the tile's strands is asked for: a park, a freeze, a halted plane, an expired timer
(R85, R206, R276, R356, R359, R380). -/
def State.stopping (s : State) (tile : Nat) : Bool :=
  let t := s.tileAt tile
  t.parkWhy != 0 || t.freezeReq || s.plane.halt || s.timedOut tile || s.switching tile

/-- Whether a slot of a pair has retired less than the other: it goes on to the compare that a park needs
(R354, R355). -/
def Tile.lags (t : Tile) (st : Strand) : Bool :=
  match st.partner with
  | some p => decide (st.retired < (t.strands.val {} p).retired)
  | none => false

/-- Whether a strand has stopped its context and waits for the resume (R286, R287). -/
def State.stopped (s : State) (tile r : Nat) : Bool :=
  (s.ctxOf (s.kernOf tile).asid).stoppers.contains (tile, r)

/-- Whether a slot is ready: a strand in it that is not found waiting and has not stopped its context, and no
stop that takes it at this point; an open packet defers the stop (R85, R185). -/
def State.slotReady (s : State) (tile n : Nat) : Bool :=
  match (s.tileAt tile).inSlot n with
  | some (r, st) =>
    st.kind == 2 && st.stall.isNone && (!s.stopping tile || st.pkt.isSome || (s.tileAt tile).lags st) &&
      !s.stopped tile r
  | none => false

/-- The slot chosen and whether by the bonus (R185). -/
def State.pickSlot (s : State) (tile : Nat) : Option (Nat × Bool) :=
  let t := s.tileAt tile
  if t.bonus && s.slotReady tile t.issT then some (t.issT, true)
  else
    ((List.range 8).find? fun i => s.slotReady tile ((t.issT + 1 + i) % 8)).map
      fun i => ((t.issT + 1 + i) % 8, false)

/-- The oldest waiting record of a KIND: the one that entered it first, then the lowest index
(R190). -/
def Tile.oldest (t : Tile) (kind : Nat) : Option Strand :=
  (t.strands.filter fun p => p.2.kind == kind && !p.2.folw).foldl
    (fun acc p =>
      match acc with
      | none => some p.2
      | some x => if p.2.since < x.since then some p.2 else some x) none

/-- Whether a command counted into a sync word of a tile is held by a fault: one of its own, or one of another
tile that delivers there (R190). -/
def State.heldOn (s : State) (tile sw : Nat) : Bool :=
  s.tiles.any fun p => p.2.xact.any fun a => a.held.isSome &&
    ((p.1 == tile && a.cmd.issuerSw == some sw) ||
      (a.cmd.rsw == some sw && s.deliversTo p.1 a.cmd tile))

/-- The idle counter of a slot that issues nothing (R190). -/
def State.idleOf (s : State) (tile n : Nat) : Option Nat :=
  let t := s.tileAt tile
  if t.frozen then none
  else if t.parkSt != 0 then some 11
  else
    match t.inSlot n with
    | some (_, st) => st.stall.bind (·.idle)
    | none =>
      match t.oldest 3 with
      | some st => some (if s.heldOn tile (st.swa * 16) then 6 else 5)
      | none =>
        match t.oldest 4 with
        | some st => some (st.scp - 1)
        | none => if (t.oldest 5).isSome then some 7 else none

/-- Adds one to an idle counter. -/
def Tile.bumpIdle (t : Tile) (i : Option Nat) : Tile :=
  match i with
  | some i => { t with idle := t.idle.put i (t.idle.val 0 i + 1) }
  | none => t

/-- The counts of a tc for a strand in a slot (R85, R108): the unliftable hold of one that does not issue,
which starts again where the tile is stopped, and the time since a stop was first deferred by an open
packet. -/
def Strand.tick (st : Strand) (issues stop : Bool) : Strand :=
  match st.slot with
  | none => st
  | some _ =>
    { st with
      hold := if !issues && !(stop && st.pkt.isNone) && (st.stall.map (·.unlift)).getD false
        then st.hold + 1 else 0
      pktStop := if st.pkt.isSome && (stop || st.pktStop.isSome) then some ((st.pktStop.map (· + 1)).getD 0)
        else st.pktStop }

/-- Whether the condition of a threshold park holds (R275). -/
def Tile.onlyWaiting (t : Tile) : Bool :=
  t.strands.all (fun p => p.2.slot.isNone) && t.ready.isEmpty &&
    t.strands.any fun p => 3 ≤ p.2.kind

/-- The claimants of the vector unit: strands with a grant and a queued command (R187). -/
def Tile.vClaimants (t : Tile) : List (Nat × Strand) :=
  t.strands.filter fun p => decide (0 < p.2.vl) && decide (0 < p.2.vq) && p.2.slot.isSome

/-- The window still serves a claimant with a head (R187); it ends early without one. -/
def Tile.windowOn (t : Tile) : Bool :=
  match t.vwin with
  | some (r, _) => t.vClaimants.any fun p => p.1 == r
  | none => false

/-- One tc of a tile apart from the instruction issued in it (R85, R108, R185, R190, R275). -/
def State.cycle (s : State) (tile : Nat) : State :=
  let pick := s.pickSlot tile
  let stop := s.stopping tile
  let chosen := pick.map (·.1)
  let idles := ((List.range 8).filter fun n => chosen != some n).map (s.idleOf tile)
  s.modTileAt tile fun t =>
    let t := idles.foldl Tile.bumpIdle t
    let t := { t with
      parkCnt := if t.onlyWaiting && t.parkSt == 0 then t.parkCnt + 1 else 0
      vwin := if t.windowOn then t.vwin else none
      strands := t.strands.mapVals fun r st =>
        st.tick (chosen.isSome && st.slot == chosen) (stop || s.stopped tile r) }
    match pick with
    | none => { t with bonus := false }
    | some (n, true) => { t with issT := n, bonus := false }
    | some (n, false) =>
      let w := ((t.inSlot n).map fun p => p.2.pri + 1).getD 0
      let c := t.cr.val 0 n + w
      { t with issT := n, bonus := decide (8 ≤ c), cr := t.cr.put n (if 8 ≤ c then c - 8 else c) }

/-- TILE_ISSUE_CYCLE (R185): the slot is chosen; its instruction issues within the same step. -/
def execTileIssueCycle (tile : Nat) (s : State) : Host.Outcome State Fault Refusal :=
  let who := ((s.pickSlot tile).bind fun p => (s.tileAt tile).inSlot p.1).map (·.1)
  let s1 := s.cycle tile
  .next (match who with
    | some r => { s1 with cur := tile, curRec := r, issuing := true }
    | none => s1)

/-! ### Queues and timeouts -/

/-- The oldest value in flight of a queue becomes poppable (R105). -/
def pushHeld : List QPlace → List QPlace
  | [] => []
  | .load v p :: t => .held v p :: t
  | x :: t => x :: pushHeld t

/-- LDQ_PUSH (R105). -/
def execLdqPush (tile r q : Nat) (s : State) : Host.Outcome State Fault Refusal :=
  stepIf (((s.tileAt tile).strands.val? r).isSome) s
    (s.modStrandAt tile r fun st => { st with lq := st.lq.put q (pushHeld (st.lqOf q)) })

/-- A trap of a strand in its slot outside an issue, at its next instruction. -/
def State.trapAt (s : State) (tile r : Nat) (c : Cause) : State :=
  let s1 := { s with cur := tile, curRec := r }
  (s1.modSt fun st => { st with upc := st.pc }).finish (trapE c)

/-- Whether a strand in its slot may take a trap of its own accord: its context has not stopped at it, and no stop
takes it at this point (R85, R108). -/
def State.mayTrap (s : State) (tile r : Nat) : Bool :=
  (!s.stopping tile || (s.strandAt tile r).pkt.isSome) && !s.stopped tile r

/-- QUEUE_DEADLOCK_TIMEOUT (R108). -/
def execQueueDeadlockTimeout (tile r : Nat) (s : State) : Host.Outcome State Fault Refusal :=
  let st := s.strandAt tile r
  stepIf (st.slot.isSome && decide (4096 ≤ st.hold) && s.mayTrap tile r) s
    (s.trapAt tile r .queueDeadlock)

/-- OPEN_PACKET_TIMEOUT (R85): the packet's words are discarded by the trap. -/
def execOpenPacketTimeout (tile r : Nat) (s : State) : Host.Outcome State Fault Refusal :=
  let st := s.strandAt tile r
  stepIf (st.slot.isSome && st.pkt.isSome && decide (4096 ≤ st.pktStop.getD 0)) s
    (s.trapAt tile r .openPacket)

/-- VCLAIM_GRANT (R120). -/
def execVclaimGrant (tile : Nat) (s : State) : Host.Outcome State Fault Refusal :=
  stepIf ((s.tileAt tile).claimReady) s (s.modTileAt tile Tile.grantHead)

/-- MCLAIM_GRANT (R147). -/
def execMclaimGrant (tile : Nat) (s : State) : Host.Outcome State Fault Refusal :=
  stepIf ((s.tileAt tile).mclaimReady) s (s.modTileAt tile Tile.grantClaim)

/-! ### The vector and the table engine (R168, R187) -/

/-- The better of two claimants by a key; ties to the lower thread slot (R187). -/
def betterBy (key : Strand → Int) (x y : Nat × Strand) : Nat × Strand :=
  if key x.2 < key y.2 then y
  else if key y.2 < key x.2 then x
  else if x.2.slot.getD 8 ≤ y.2.slot.getD 8 then x else y

/-- The claimant with the largest key. -/
def bestOf (key : Strand → Int) : List (Nat × Strand) → Option (Nat × Strand)
  | [] => none
  | x :: t =>
    match bestOf key t with
    | none => some x
    | some y => some (betterBy key x y)

/-- The claimant that a new window serves, and the claimants with the credits of its start (R187): the one
waiting longest of those with a head ready for 36 tc, else the one with the largest credit. -/
def Tile.windowPick (t : Tile) : Option (Nat × List (Nat × Strand)) :=
  let rs := t.vClaimants
  let wt : Nat := (rs.map fun p => p.2.pri + 1).sum
  let up := rs.map fun p => (p.1, { p.2 with vc := p.2.vc + (p.2.pri + 1 : Nat) })
  let aged := up.filter fun p => decide (36 ≤ p.2.vage)
  let pick := if aged.isEmpty then bestOf (fun st => st.vc) up
    else bestOf (fun st => (st.vage : Int)) aged
  pick.map fun p => (p.1, up.map fun q => if q.1 = p.1 then (q.1, { q.2 with vc := q.2.vc - (wt : Int) }) else q)

/-- Opens a window of four starts (R187). -/
def Tile.openWindow (t : Tile) : Tile :=
  match t.windowPick with
  | none => { t with vwin := none }
  | some (r, up) =>
    { t with
      vwin := some (r, 4)
      strands := t.strands.mapVals fun k st => ((up.find? fun p => p.1 == k).map (·.2)).getD st }

/-- One tc of the vector unit (R187): a new window where none serves; the chosen claimant starts a command,
and the heads of the others wait one tc longer. -/
def Tile.window (t : Tile) : Tile :=
  let t := if t.windowOn then t else t.openWindow
  match t.vwin with
  | none => t
  | some (r, n) =>
    let rs := t.vClaimants
    { t with
      vwin := if n ≤ 1 then none else some (r, n - 1)
      strands := t.strands.mapVals fun k st =>
        if k = r then { st with vq := st.vq - 1, vage := 0 }
        else if rs.any fun p => p.1 == k then { st with vage := st.vage + 1 } else st }

/-- The suspended strands of a tile whose vector commands have completed leave their slots (R176). -/
def State.leaveAll (s : State) (tile : Nat) : State :=
  ((s.tileAt tile).strands.filter fun p => p.2.leaving && p.2.vq == 0).foldl
    (fun s p => s.leaveSlot tile p.1) s

/-- The queued vector commands of a tile complete, as a park and a freeze have them do (R277, R359). -/
def State.vecComplete (s : State) (tile : Nat) : State :=
  (s.modTileAt tile fun t =>
    { t with vwin := none, strands := t.strands.mapVals fun _ st => { st with vq := 0, vage := 0 } }).leaveAll tile

/-- VECTOR_WINDOW (R187). -/
def execVectorWindow (tile : Nat) (s : State) : Host.Outcome State Fault Refusal :=
  stepIf (!(s.tileAt tile).vClaimants.isEmpty) s ((s.modTileAt tile Tile.window).leaveAll tile)

/-- Whether a queued command can start (R168): its strand's claim is granted and the banks it touches are awake. -/
def Tile.tReady (t : Tile) (st : Strand) (c : TCmd) : Bool :=
  st.claim.isSome &&
    (match c.plan? with
     | some p => (p.elems c.mask).all fun e => !t.anyWaking (p.at_ e.1 e.2) p.es
     | none => true)

/-- The table register that the head of a strand's queue uses. -/
def Strand.rebuilds (st : Strand) : Option Nat :=
  match st.claim, st.tq with
  | some cl, c :: _ => c.usesTb.map (2 * cl + ·)
  | _, _ => none

/-- The strands whose table queue's head is ready (R168). -/
def Tile.tClaimants (t : Tile) : List (Nat × Strand) :=
  if t.parkSt ≠ 0 then []
  else t.strands.filter fun p => match p.2.tq with
    | c :: _ => t.tReady p.2 c
    | [] => false

/-- How long ago a strand started: the place in a list of starters, the least recent first; one that
has not started counts as least recent. -/
def staleness (last : List Nat) (r : Nat) : Nat :=
  match last.findIdx? (· == r) with
  | some i => i + 1
  | none => 0

/-- The claimant that started least recently; ties to the higher weight, then to the lower place in
a given numbering (R168, R238). -/
def leastRecent (last : List Nat) (place : Strand → Nat) : List (Nat × Strand) →
    Option (Nat × Strand)
  | [] => none
  | x :: t =>
    match leastRecent last place t with
    | none => some x
    | some y =>
      let a := staleness last x.1
      let b := staleness last y.1
      if a < b then some x
      else if b < a then some y
      else if y.2.pri < x.2.pri then some x
      else if x.2.pri < y.2.pri then some y
      else if place x.2 ≤ place y.2 then some x else some y

/-- The claimant whose head the table engine starts next (R168). -/
def Tile.pickT (t : Tile) : Option (Nat × Strand) :=
  leastRecent t.tlast (fun st => st.claim.getD 4) t.tClaimants

/-- The silent rebuild that the engine starts next, with its strand (R163, R168): a command of its own, in the turn of
the strand whose head uses the dropped table. -/
def Tile.rebuildDue (t : Tile) : Option (Nat × Nat) :=
  t.pickT.bind fun p =>
    (p.2.rebuilds.filter fun j => (t.rtb j).drop && t.sourceSame (t.rtb j)).map fun j => (p.1, j)

/-- A strand has started a table command (R168). -/
def Tile.started (t : Tile) (r : Nat) : Tile := { t with tlast := (t.tlast.filter (· != r)) ++ [r] }

/-- The engine starts the head of a strand's table queue: the command leaves the queue and does what it does;
claim commands behind it take effect, and an exited strand's claim is released after its last one (R148, R168,
R180). -/
def State.startT (s : State) (tile r : Nat) : State :=
  match (s.strandAt tile r).tq with
  | [] => s
  | c :: rest =>
    let s1 := (s.modTileAt tile fun t =>
      (t.modStrand r fun st => { st with tq := rest }).started r)
    let s2 := ({ s1 with cur := tile, curRec := r }).runT c
    (s2.modTileAt tile fun t =>
      let t1 := t.settle r 3
      if (t1.strands.val {} r).exiting then t1.exitQueue r else t1).reap tile r

/-- TABLE_COMMAND_START (R168): the ready head of the claimant that started a command least recently, unless its table
is to be rebuilt first. -/
def execTableCommandStart (tile : Nat) (s : State) : Host.Outcome State Fault Refusal :=
  let t := s.tileAt tile
  .next (match t.pickT, t.rebuildDue with
    | some (r, _), none => s.startT tile r
    | _, _ => s)

/-- SILENT_REBUILD (R163): a dropped table whose source is as it was is built again, as a command of its own of
the strand whose command uses it (R168). -/
def execSilentRebuild (tile tb : Nat) (s : State) : Host.Outcome State Fault Refusal :=
  .next (match (s.tileAt tile).rebuildDue with
    | some (r, j) =>
      if j = tb then
        s.modTileAt tile fun t => { t with tb := t.tb.put tb (t.rebuilt (t.rtb tb)) }.started r
      else s
    | none => s)

/-! ### Readiness and loading (R184) -/

/-- Makes a record runnable: it enters the ready order at the tail. -/
def State.makeReady (s : State) (tile r : Nat) : State :=
  (s.modStrandAt tile r fun st => { st with kind := 1, scp := 0, swa := 0, gen := 0 }).modTileAt tile
    fun t => { t with ready := if t.ready.contains r then t.ready else t.ready ++ [r] }

/-- Whether an engine queue of a strand holds fewer than two commands: 0 vector, 1 table, 2
exchange. -/
def Strand.queueOpen (st : Strand) (e : Nat) : Bool :=
  match e with
  | 0 => decide (st.vq < 2)
  | 1 => decide (st.tq.length < 2)
  | _ => decide (st.xq.length < 2)

/-- Whether a waiting record's event has come (R184): KIND 3 and KIND 5. -/
def State.recordDue (s : State) (tile r : Nat) : Bool :=
  let st := s.strandAt tile r
  if st.kind = 3 then genReached (s.swGen tile (st.swa * 16)) st.gen
  else if st.kind = 5 then st.queueOpen st.scp
  else false

/-- RECORD_READY (R181, R184): the D of a `wait` takes the generation observed. -/
def execRecordReady (tile r : Nat) (s : State) : Host.Outcome State Fault Refusal :=
  let st := s.strandAt tile r
  let g : Word := (s.swGen tile (st.swa * 16)).zeroExtend 64
  let s1 := if st.kind = 3 then
      s.modStrandAt tile r fun st =>
        { st with resume := st.resume.map fun x => (x.1, g, false) }
    else s
  stepIf (s.recordDue tile r) s ((s1.makeReady tile r).writeDesc tile r)

/-- The lowest free thread slot (R184). -/
def Tile.lowSlot (t : Tile) : Option Nat := (List.range 8).find? fun n => !t.slotUsed n

/-- The record that is loaded next and its slot (R184): the first of the ready order that has left its slot (DESIGN
CHOICE, log 55: a head that still waits to leave is passed over), and the lowest free slot; a strand that yielded with
no other record runnable goes back to its own (R182). -/
def Tile.nextLoad (t : Tile) : Option (Nat × Nat) :=
  match t.ready.find? fun r => (t.strands.val {} r).slot.isNone, t.lowSlot with
  | some r, some n =>
    match (t.strands.val {} r).back with
    | some b => some (r, if t.slotUsed b then n else b)
    | none => some (r, n)
  | _, _ => none

/-- The register writes that a strand's loading makes (R181, R204, R206). -/
def Strand.applyResume (st : Strand) : Strand :=
  let st1 := st.resume.foldl (fun st x => if isG x.1 then st.wg (opIdx x.1) x.2.1 x.2.2 else st) st
  { st1 with resume := [] }

/-- A strand as its record's bytes give it (R175, R349): PC, work identifier, `g1` to `g5`, the
poison of the descriptor and of the bytes. -/
def State.fromRecord (s : State) (tile r : Nat) : Strand :=
  let a := recAddr r
  let st := s.strandAt tile r
  let st := { st with pc := BitVec.ofNat 64 (s.ldNum tile a 8),
                      wid := BitVec.ofNat 64 (s.ldNum tile (a + 8) 8) }
  (List.range 5).foldl (fun st i =>
    st.wg (i + 1) (BitVec.ofNat 64 (s.ldNum tile (a + 24 + 8 * i) 8))
      (st.rgp (i + 1) || s.ldPois tile (a + 24 + 8 * i) 8)) st

/-- Loads a record into a slot (R184): what R58 does not keep is undefined. -/
def State.loadSlot (s : State) (tile r n : Nat) : State :=
  let st := s.fromRecord tile r
  let st := if st.stale then st.undefine s.freeCtr else st
  let st := { st.applyResume with
    slot := some n, kind := 2, vc := 0, vage := 0, back := none, stall := none, hold := 0, target := none }
  let s1 := s.modTileAt tile fun t =>
    { t with strands := t.strands.put r st, ready := t.ready.filter (· != r), cr := t.cr.put n 0 }
  { s1 with freeCtr := s1.freeCtr + 160 }

/-- A record that cannot be resumed stops its context (R349). -/
def State.machineCheck (s : State) (tile r : Nat) : State :=
  let asid := (s.kernOf tile).asid
  let s := s.modTileAt tile fun t => { t with ready := t.ready.filter (· != r) }
  ((s.stopCtx asid 3 none).postEvent asid 7 0 (s.strandAt tile r).wid
    (BitVec.ofNat 64 (r * 2 ^ 32 + tile)) 0).logErr 10 0 (locTile tile (recAddr r))

/-- Whether a tile may load records: it runs, and no stop is asked for. -/
def State.loads (s : State) (tile : Nat) : Bool :=
  (s.tileAt tile).parkSt == 0 && !s.stopping tile

/-- SLOT_LOAD (R184, R349). -/
def execSlotLoad (tile : Nat) (s : State) : Host.Outcome State Fault Refusal :=
  .next (match (s.tileAt tile).nextLoad with
    | some (r, n) =>
      if !s.loads tile then s
      else
        let s1 := s.meetFlips tile (recAddr r) 64
        if s1.ldPois tile (recAddr r) 24 then s1.machineCheck tile r else s1.loadSlot tile r n
    | none => s)

/-- BANK_WAKE (R196). -/
def execBankWake (tile bank : Nat) (s : State) : Host.Outcome State Fault Refusal :=
  stepIf ((s.tileAt tile).bankWaking.getLsbD bank) s
    (s.modTileAt tile fun t => { t with bankWaking := t.bankWaking &&& ~~~ (1#64 <<< bank) })

/-! ### The ends of waits in the slot (R211, R304) -/

/-- TLBINV_COMPLETE (R304): the `tlbinv` ends its stall at its next issue. -/
def execTlbinvComplete (tile r : Nat) (s : State) : Host.Outcome State Fault Refusal :=
  stepIf (((s.strandAt tile r).tlbinv.map fun ws => ws.all s.retranslated).getD false) s
    (s.modStrandAt tile r fun st => { st with tlbinv := some [], stall := none })

/-- FENCE_COMPLETE (R211): the fence ends its stall at its next issue. -/
def execFenceComplete (tile r : Nat) (s : State) : Host.Outcome State Fault Refusal :=
  stepIf (((s.strandAt tile r).fence.map (s.fenceReady tile r)).getD false) s
    (s.modStrandAt tile r fun st => { st with fence := none, stall := none })

/-! ### Pairs, parks, freezing, injection -/

/-- Whether the compare of a pair after 1,024 retired results is due (R354): a mismatch that would suspend the leader
waits for the registers that its record keeps (R48). -/
def State.pairDue (s : State) (tile r : Nat) : Bool :=
  let st := s.strandAt tile r
  st.partner.isSome && !st.folw && decide (1024 ≤ st.retired) && s.followerHere tile r &&
    (s.pairAgrees tile r || (s.mismatchWait tile r).isNone)

/-- PAIR_COMPARE (R354): both slots have retired 1,024 results since the last compare. -/
def execPairCompare (tile r : Nat) (s : State) : Host.Outcome State Fault Refusal :=
  stepIf (s.pairDue tile r) s
    (s.pairCompareAt tile r)

/-- PARK_THRESHOLD_EXPIRY (R275): EN is bit 32 of PARKT, TH bits [31:0]. -/
def execParkThresholdExpiry (tile : Nat) (s : State) : Host.Outcome State Fault Refusal :=
  let t := s.tileAt tile
  stepIf (t.parkt.getLsbD 32 && decide (bitsN t.parkt.toNat 0 32 ≤ t.parkCnt) && t.onlyWaiting &&
      t.parkSt == 0 && t.parkWhy == 0 && t.parkAsk == 0) s
    (s.modTileAt tile fun t => t.askPark 1 false).startParks

/-- Whether a response is on its way back to the tile that asked. -/
def XReq.answering (r : XReq) : Bool := r.phase == .performed || r.phase == .written

/-- Whether a tile has come to rest: no open packet, and every response in flight has landed; a request that has still
to be performed may wait at a port (R277, R359). -/
def Tile.atRest (t : Tile) : Bool :=
  t.strands.all (fun p => p.2.pkt.isNone) &&
    t.xact.all fun a => a.reqs.all fun r => !r.answering

/-- FREEZE_DONE (R359): vector commands complete, and FRZD is set. -/
def execFreezeDone (tile : Nat) (s : State) : Host.Outcome State Fault Refusal :=
  let t := s.tileAt tile
  stepIf (t.freezeReq && !t.frozen && t.atRest) s
    ((s.modTileAt tile fun t => { t with frozen := true }).vecComplete tile)

/-- A write of ERRINJ of one form through the readback map; a reserved value is rejected (R11,
R358). -/
def State.inject (s : State) (tile : Nat) (form : Option Nat) (x : Word) : State :=
  let fits := match form with
    | some n => errTgt x == n && errArm x
    | none => !errArm x
  if !fits then s else s.answered (if errinjBad x then none else some (s.putErrinj tile x))

/-- ERRINJ_SRAM (R358). -/
def execErrinjSram (tile : Nat) (x : Word) (s : State) : Host.Outcome State Fault Refusal :=
  .next (s.inject tile (some 1) x)

/-- ERRINJ_REGISTER (R358). -/
def execErrinjRegister (tile : Nat) (x : Word) (s : State) : Host.Outcome State Fault Refusal :=
  .next (s.inject tile (some 2) x)

/-- ERRINJ_ACCUMULATOR (R264, R265). -/
def execErrinjAccumulator (tile : Nat) (x : Word) (s : State) : Host.Outcome State Fault Refusal :=
  .next (s.inject tile (some 3) x)

/-- ERRINJ_FINGERPRINT (R358). -/
def execErrinjFingerprint (tile : Nat) (x : Word) (s : State) : Host.Outcome State Fault Refusal :=
  .next (s.inject tile (some 4) x)

/-- ERRINJ_PLANE_COPY (R358). -/
def execErrinjPlaneCopy (tile : Nat) (x : Word) (s : State) : Host.Outcome State Fault Refusal :=
  .next (s.inject tile (some 5) x)

/-- ERRINJ_DISARM (R358). -/
def execErrinjDisarm (tile : Nat) (x : Word) (s : State) : Host.Outcome State Fault Refusal :=
  .next (s.inject tile none x)

end Sys2Proof.Machine
end

