-- ==== Sys2Proof/Machine/Fetch.lean ====
section
/-! DEFINITION. Fetching an issue unit: line parity and its reload, the line word, breakpoints, the
checks at decode, the rules of pairs and the word of a repetition (R64 to R72, R81 to R84, R114). -/

namespace Sys2Proof.Machine

/-! ### Lines (R64, R66, R67) -/

/-- XOR of n bits of a number from bit lo on. -/
def xorRun (x lo : Nat) : Nat → Bool
  | 0 => false
  | n + 1 => x.testBit lo ^^ xorRun x (lo + 1) n

/-- PAR of the 480 bits of a line's slots (R66). -/
def parOf (x : Nat) : Nat :=
  (List.range 8).foldl (fun acc j => acc + b2n (xorRun x (60 * j) 60) * 2 ^ j) 0

/-- Whether a line of a tile's instruction store fails its parity (R67). -/
def State.parityBad (s : State) (tile line : Nat) : Bool :=
  let x := rdNat s.mem (codeKey tile (64 * line)) 64
  parOf (x / 2 ^ 32) != bitsN x 24 8

/-- The key of a line in the die-memory image of the code of a tile's kernel (R67, R271). -/
def State.imageKey (s : State) (tile line : Nat) : Nat :=
  dieKey (pkgOfTile tile) (tile / 256 % 4) ((s.kernOf tile).dcode + 64 * line)

/-- Reloads a line from the die-memory image, under the launch KEYID, and logs it (R67, R357). -/
def State.reloadLine (s : State) (tile line : Nat) : State :=
  let bs := (s.rdP (s.kernOf tile).keyid (s.imageKey tile line) 64).map (·.1)
  { s with mem := wrBytes s.mem (codeKey tile (64 * line)) bs }.logErr 9 2 (locTile tile line)

/-- The line as fetched: reloaded once where its parity fails (R67). DESIGN CHOICE (log 49): before the superstep from
which R230 guarantees the new line a strand may fetch either; the model fetches the bytes as they stand. -/
def State.fetchLine (s : State) (tile line : Nat) : State :=
  if s.parityBad tile line then s.reloadLine tile line else s

/-- TPL 8 to 15, or a reserved bit of the line word set (R80). -/
def lineWordBad (w : BitVec 32) : Bool := decide (8 ≤ lwTpl w) || w.toNat % 1024 != 0

/-! ### Decode checks of a word (R81, checks 4 to 7) -/

/-- What an `xsend` breaks by the row that STATUS.PKT selects (R245). -/
def sendFront (st : Strand) (i : Instr) : Option Cause :=
  match i with
  | .xsend f =>
    if sendReserved f st.pkt.isSome then some .reservedField
    else if st.pkt.isSome && (f.d != 0 || f.a != 0) then some .operandClass
    else none
  | _ => none

/-- The privilege check of an instruction in a tenant strand (R59, R78). -/
def privFront (st : Strand) (i : Instr) : Bool :=
  !st.sup && (isPrivileged i ||
    (match i with
     | .mtsr f => !tenantWrites (specialNo f)
     | _ => false))

/-- The first decode check that a word fails (R81). -/
def frontErr (st : Strand) (w : BitVec 96) : Option Cause :=
  match decodeOpcode w with
  | none => some .undefinedInstr
  | some i =>
    if sendFront st i = some .reservedField then some .reservedField
    else
    match decodeErr i with
    | some e => some (causeOf e)
    | none =>
      match sendFront st i with
      | some c => some c
      | none => if privFront st i then some .privilege else none

/-! ### Pairs (R69) -/

/-- Whether two instructions, lower slot first, may issue as a pair (R69). -/
def pairLegal (x y : Instr) : Bool :=
  isClassE x != isClassE y && !barred x && !barred y &&
    !((writesRes x).any fun r => (readsRes y).contains r || (writesRes y).contains r) &&
    !((writesRes y).any fun r => (readsRes x).contains r)

/-! ### The issue unit -/

/-- The PC of the slot after n more slots. -/
def pcSkip (pc : Word) : Nat → Word
  | 0 => pc
  | n + 1 => pcSkip (pcNext pc) n

/-- Sets the PC of the issue unit and the first slot after its n slots (R70, R84). -/
def State.atUnit (s : State) (n : Nat) : State :=
  s.modSt fun st => { st with upc := st.pc, npc := pcSkip st.pc n, target := none }

/-- How the slot at the PC issues. -/
inductive UnitKind where
  | single (w : BitVec 96)
  | pair (lo hi : BitVec 96)
  | repetition (r : RepFields) (w : BitVec 96)
  deriving DecidableEq, Repr

/-- The unit that the issuing strand's PC names: at the `rep` of a repeat in progress its target, else a
pair of the template, else one slot (R68, R84). -/
def State.unitAt (s : State) : UnitKind :=
  let pc := s.st.pc
  let line := pcLine pc
  let slot := pcSlot pc
  let w := s.slotWord s.cur line slot
  let rep? : Option RepFields :=
    if s.st.rpt then
      match decodeOpcode w with
      | some (.rep r) => some r
      | _ => none
    else none
  match rep? with
  | some r => .repetition r (s.slotWord s.cur line (slot + 1))
  | none =>
    if pairAt (lwTpl (s.lineWord s.cur line)) slot then .pair w (s.slotWord s.cur line (slot + 1))
    else .single w

/-- The slots of a unit: a `rep` covers its target (R83). -/
def UnitKind.slots : UnitKind → Nat
  | .single w => match decodeOpcode w with
    | some (.rep _) => 2
    | _ => 1
  | _ => 2

/-- Whether a breakpoint stops the unit (R72, R114): on either slot of a pair, on the target before
every repetition that is to run; not inside an open packet (R85), and not in the issue after a trap
return. -/
def State.breaks (s : State) (u : UnitKind) : Bool :=
  let w := s.lineWord s.cur (pcLine s.st.pc)
  let slot := pcSlot s.st.pc
  !s.st.bkOff && s.st.pkt.isNone &&
    (match u with
     | .single _ => lwBkp w slot
     | .pair _ _ => lwBkp w slot || lwBkp w (slot + 1)
     | .repetition r _ => decide (s.st.repidx ≤ r.cnt.toNat) && decide (slot < 4) && lwBkp w (slot + 1))

/-- A trap of the unit before any of it runs. -/
def State.frontTrap (s : State) (c : Cause) : State := s.finish (trapE c)

/-- The checks of R81 that come before the instructions themselves: fetch parity, the line word,
breakpoints; none lets the unit issue. -/
def State.lineTrap (s : State) (u : UnitKind) : Option Cause :=
  let line := pcLine s.st.pc
  if s.parityBad s.cur line then some .fetchParity
  else if lineWordBad (s.lineWord s.cur line) then some .lineFormat
  else if s.breaks u then some .breakpoint
  else none

/-- Whether the slot at the PC is the target of a `rep`: the slot before it in its line holds one (R69,
R83). -/
def State.afterRep (s : State) : Bool :=
  let slot := pcSlot s.st.upc
  decide (0 < slot) &&
    (match decodeOpcode (s.slotWord s.cur (pcLine s.st.upc) (slot - 1)) with
     | some (.rep _) => true
     | _ => false)

/-- The checks of a pair before either half issues (R81, checks 4 to 8). -/
def State.pairTrap? (s : State) (lo hi : BitVec 96) : Option Cause :=
  match frontErr s.st lo with
  | some c => some c
  | none =>
    match frontErr s.st hi with
    | some c => some c
    | none =>
      match decodeOpcode lo, decodeOpcode hi with
      | some x, some y => if pairLegal x y && !s.afterRep then none else some .lineFormat
      | _, _ => none

end Sys2Proof.Machine
end

