-- ==== Sys2Proof/Machine/Homes.lean ====
section
/-! DEFINITION. Homes of memory: where a command's bytes lie, the undo journal, the mirror of an
object being relocated, a tile's SRAM port with its race filter and Thyme ring, and the operations of
the memory agents (R192, R208, R209, R225 to R230, R246 to R248, R307, R330). -/

namespace Sys2Proof.Machine

/-! ### Homes (R192, R248) -/

/-- A number for the home of a byte: SRAM port, group slice, die agent, stack, fetch port. -/
def homeOf (a : Nat) : Nat :=
  let pa := keyPa a
  match keyType a with
  | 0 => a / 2 ^ 20
  | 1 => 2 ^ 20 + pa / 2 ^ 23 * 32 + bitsN pa 8 5
  | 2 => 2 ^ 30 + pa / 2 ^ 30
  | 6 => 2 ^ 31 + pa / 2 ^ 20
  | _ => 2 ^ 32 + pa / 2 ^ 39 * 8 + bitsN pa 12 3

/-- The package of the home of a byte. -/
def pkgOfKey (a : Nat) : Nat :=
  let pa := keyPa a
  match keyType a with
  | 0 => pa / 2 ^ 30
  | 1 => pa / 2 ^ 28
  | 2 => pa / 2 ^ 32
  | 6 => pa / 2 ^ 30
  | _ => pa / 2 ^ 39

/-- The level of the memory of a byte, seen from a tile (R192). -/
def memLevel (tile a : Nat) : Nat :=
  match keyType a with
  | 0 => 1
  | 6 => 1
  | 1 => 2
  | 2 => 3
  | _ => if pkgOfKey a = pkgOfTile tile then 4 else 5

/-- Whether a package can be reached through some port (R250). -/
def State.reaches (s : State) (pkg : Nat) : Bool :=
  pkg == s.own || s.ports.any fun p => p.2.up && p.2.peer == pkg

/-- An access to another package crosses a link of its route: groups go out and come back, each under the next counter
of its direction, and good ones end a run of tag failures. DESIGN CHOICE: one group each way, on the first port up
toward the package (R340; log 52). -/
def State.crossed (s : State) (k : Nat) : State :=
  if pkgOfKey k = s.own then s
  else
    match s.ports.find? fun p => p.2.up && p.2.peer == pkgOfKey k with
    | some (i, q) => { s with ports := s.ports.put i { q with ctr := q.ctr + 1, ctrIn := q.ctrIn + 1, tagFail := 0 } }
    | none => s

/-- The kind of target class of a landing slot, by where the home lies (R249). -/
def landClass (tile a : Nat) : Nat :=
  let die := match keyType a with
    | 0 => keyPa a / 2 ^ 28
    | 6 => keyPa a / 2 ^ 28
    | 1 => keyPa a / 2 ^ 26
    | _ => keyPa a / 2 ^ 30
  if pkgOfKey a ≠ pkgOfTile tile then 3
  else
    match keyType a with
    | 4 => 2
    | 2 => if die = dieOfTile tile then 1 else 2
    | 1 => if keyPa a / 2 ^ 23 = groupOfTile tile then 0 else if die = dieOfTile tile then 1 else 2
    | _ => if keyPa a / 2 ^ 20 / 32 = groupOfTile tile then 0
      else if die = dieOfTile tile then 1 else 2

/-! ### The undo journal (R208, R209) -/

/-- The die that journals writes to a memory: its own for group SRAM and die memory, die floor(s/2)
for HBM stack s. -/
def journalDie (a : Nat) : Nat :=
  let pa := keyPa a
  match keyType a with
  | 1 => pa / 2 ^ 26
  | 2 => pa / 2 ^ 30
  | _ => pa / 2 ^ 39 * 4 + bitsN pa 12 3 / 2

/-- Records a journal holds. -/
def journalCap : Nat := 4194304

/-- A writer of the journal: a tile, or 2^18 + k for the collectives of kernel k, whose writes belong to
the pod's superstep alone (R262). -/
def firingWriter (k : Nat) : Nat := 2 ^ 18 + k

/-- A write without a record: NAB and NORG of the writer's domains, as level and number, and the overflow count
(R209). -/
def State.unjournaled (s : State) (org : Nat) (doms : List (Nat × Nat)) (d : Nat) : State :=
  doms.foldl (fun s x => s.modDom x.1 x.2 fun y =>
    { y with nab := true, norg := if y.nab then min y.norg org else org })
    (s.modDie d fun di => { di with jover := di.jover + 1 })

/-- The undo record of a line before it is written (R208): u names line, writer and level, doms the domains that a write
without a record marks. -/
def State.journalLine (s : State) (u : Undo) (org : Nat) (doms : List (Nat × Nat)) : State :=
  let d := journalDie u.line
  if journalCap ≤ (s.dieAt d).journal.length then s.unjournaled org doms d
  else s.modDie d fun di =>
    { di with journal :=
        { u with pois := isMarked s.marks u.line, kid := s.keyOf u.line, data := rdBytes s.mem u.line 32 } :: di.journal }

/-- Journals a line before writer w writes it as a write of level m (R208). -/
def State.journalAs (s : State) (w m : Nat) (sscs : List (BitVec 32)) (line : Nat) : State :=
  let u : Undo := { line := line, tile := w, lvl := m, sscs := sscs }
  if m < 2 then s
  else if 2 ^ 18 ≤ w then
    s.journalLine { u with kern := some (w - 2 ^ 18) } (s.own * 1024) [(5, (w - 2 ^ 18) * 2 ^ 18)]
  else
    s.journalLine { u with kern := (s.tileAt w).kernel } w ((List.range (m - 1)).map fun i => (i + 2, s.domOf (i + 2) w))

/-- The first keys of the lines of [a, a + n). -/
def lineKeys (a n : Nat) : List Nat :=
  (List.range ((a % 32 + n + 31) / 32)).map fun i => a / 32 * 32 + 32 * i

/-- Journals the lines of [a, a + n) for a tile that writes them (R208). -/
def State.journalRange (s : State) (tile a n : Nat) : State :=
  (lineKeys a n).foldl
    (fun s l => s.journalAs tile (memLevel tile l) (s.sscList tile) l) s

/-! ### Relocations and migrations at a home (R307, R330) -/

/-- The relocation of a request. -/
def Chervil.reloc (c : Chervil) : Option Reloc :=
  match c with
  | .migr _ => none
  | .move r => some r
  | .compact _ _ cur => cur

/-- The relocation of a request that has not committed. -/
def Chervil.copying (c : Chervil) : Option Reloc := c.reloc.filter fun r => !r.committed

/-- The second place of a byte of an old copy below the cursor: its region and key (R330). -/
def State.mirrorOf (s : State) (a : Nat) : Option (Nat × Nat) :=
  s.chervil.vals.findSome? fun c =>
    match c.copying with
    | some r => if r.old ≤ a ∧ a < r.old + 4096 * r.cur then some (r.rg2, r.new + (a - r.old)) else none
    | none => none

/-- Whether the page of a byte is locked by a migration that has not committed (R307). -/
def State.lockedAt (s : State) (a : Nat) : Bool :=
  s.chervil.any fun p =>
    match p.2 with
    | .migr m => !m.committed && s.inFrame m.old a
    | _ => false

/-- Where the old home of what has moved forwards an access, until it is released (R307, R331): KEYID and key in the
frame of a committed migration, or in the new copy of a relocated object. -/
def State.forwardOf (s : State) (kid a : Nat) : Nat × Nat :=
  (s.chervil.vals.findSome? fun c =>
    match c with
    | .migr m =>
      if m.committed && s.inFrame m.old a then
        some (pteKey m.new, (s.frameOf m.new).1 + (a - (s.frameOf m.old).1)) else none
    | c => (c.reloc.filter (·.committed)).bind fun r =>
        if r.old ≤ a ∧ a < r.old + 4096 * chunksOf r.size then
          some ((s.heapAt r.rg2).key, r.new + (a - r.old)) else none).getD (kid, a)

/-- A write at a home other than a tile's SRAM port: journaled, and at both copies of an object being
relocated (R208, R330). -/
def State.homeWrite (s : State) (tile kid a : Nat) (bs : List PByte) : State :=
  let s1 := (s.journalRange tile a bs.length).wrP kid a bs
  match s.mirrorOf a with
  | none => s1
  | some (rg, b) => (s1.journalRange tile b bs.length).wrP (s1.heapAt rg).key b bs

/-- Journals the lines of n bytes for another package's tile (R208): a write of level 5 of the pod's superstep. -/
def State.journalFar (s : State) (src : Nat) (h : FarHome) (a n : Nat) : State :=
  (lineKeys a n).foldl (fun s l => s.journalLine
    { line := l, tile := src, kern := some h.kern, lvl := 5, sscs := [0, 0, 0, 0, h.ssc5] } src [(5, h.kern * 2 ^ 18)]) s

/-- A write of another package's tile at a home outside tile SRAM (R208, R307, R330, R364). -/
def State.farWrite (s : State) (src : Nat) (h : FarHome) (bs : List PByte) : State :=
  let (kid, a) := s.forwardOf h.kid h.key
  let s1 := (s.journalFar src h a bs.length).wrP kid a bs
  match s.mirrorOf a with
  | none => s1
  | some (rg, b) => (s1.journalFar src h b bs.length).wrP (s1.heapAt rg).key b bs

/-! ### The race filter and the Thyme ring (R226 to R229) -/

/-- A ring entry (R227). -/
def thymeEntry (ssc : BitVec 32) (src line kind : Nat) (fo : Bool) : BitVec 128 :=
  BitVec.ofNat 128 (ssc.toNat * 2 ^ 96 + src % 2 ^ 18 * 2 ^ 78 + line % 2 ^ 15 * 2 ^ 49 +
    kind % 8 * 2 ^ 46 + b2n fo * 2 ^ 45)

def thySsc (e : BitVec 128) : Nat := bitsN e.toNat 96 32
def thySrc (e : BitVec 128) : Nat := bitsN e.toNat 78 18
def thyLine (e : BitVec 128) : Nat := bitsN e.toNat 49 15
def thyKind (e : BitVec 128) : Nat := bitsN e.toNat 46 3
def thyDone (e : BitVec 128) : Bool := e.getLsbD 44

/-- Appends an entry in log mode; a full ring loses it (R228). -/
def Tile.logThyme (t : Tile) (e : BitVec 128) : Tile :=
  if t.trcMode ≠ 1 then t
  else if 256 ≤ t.trcCnt then { t with trcRov := true }
  else { t with ring := t.ring.put t.trcW e, trcW := (t.trcW + 1) % 256, trcCnt := t.trcCnt + 1 }

/-- One line of an exchange write through the race filter (R226). -/
def Tile.filterLine (t : Tile) (line src kind : Nat) : Tile :=
  let ssc := t.ssc.val 0 2
  match t.filter.find? (fun (x : Nat × Nat × Nat × Bool) => x.1 == line) with
  | none =>
    if t.filter.length < 1024 then { t with filter := t.filter ++ [(line, src, kind, false)] }
    else ({ t with trcFov := true }).logThyme (thymeEntry ssc src line kind true)
  | some (_, s0, k0, seen) =>
    if !seen && s0 == src then t
    else
      let t1 := { t with filter := t.filter.map fun (x : Nat × Nat × Nat × Bool) =>
        if x.1 = line then (line, s0, k0, true) else x }
      let t2 := if seen then t1 else t1.logThyme (thymeEntry ssc s0 line k0 false)
      t2.logThyme (thymeEntry ssc src line kind false)

/-- The lines of a range of local addresses. -/
def linesOf (addr n : Nat) : List Nat :=
  (List.range ((addr % 32 + n + 31) / 32)).map fun i => addr / 32 + i

/-- An exchange write through the race filter, in log and replay mode (R226). -/
def Tile.filterWrite (t : Tile) (addr n src kind : Nat) : Tile :=
  if t.trcMode = 0 then t else (linesOf addr n).foldl (fun t l => t.filterLine l src kind) t

/-- The oldest entry not done for a line in the present group superstep: its place (R229). -/
def Tile.entryFor (t : Tile) (line : Nat) : Option Nat :=
  ((List.range t.trcCnt).map fun i => (t.trcR + i) % 256).find? fun p =>
    let e := t.ring.val 0 p
    !thyDone e && thySsc e == (t.ssc.val 0 2).toNat && thyLine e == line

/-- Whether the order of a replay holds a write to a line back (R229). -/
def Tile.holdsLine (t : Tile) (src kind line : Nat) : Bool :=
  match t.entryFor line with
  | none => false
  | some p =>
    kind != 1 && !(thySrc (t.ring.val 0 p) == src && thyKind (t.ring.val 0 p) == kind)

/-- Whether a write is held for order (R229). -/
def Tile.holdsWrite (t : Tile) (addr n src kind : Nat) : Bool :=
  t.trcMode == 2 && (linesOf addr n).any (t.holdsLine src kind)

/-- An entry with DONE set. -/
def markDone (e : BitVec 128) : BitVec 128 := e ||| (1#128 <<< 44)

/-- RPTR passes the entries that are done (R229). -/
def Tile.passDone (t : Tile) : Nat → Tile
  | 0 => t
  | k + 1 =>
    if t.trcCnt = 0 then t
    else if thyDone (t.ring.val 0 t.trcR) then
      ({ t with trcR := (t.trcR + 1) % 256, trcCnt := t.trcCnt - 1 }).passDone k
    else t

/-- A performed write on a line in replay mode (R229). -/
def Tile.replayLine (t : Tile) (src kind line : Nat) : Tile :=
  match t.entryFor line with
  | none => t
  | some p =>
    let e := t.ring.val 0 p
    if kind = 1 then
      if thySrc e ≠ src ∨ thyKind e ≠ 1 then { t with trcDiv := true } else t
    else { t with ring := t.ring.put p (markDone e) }

/-- A performed write in replay mode (R229). -/
def Tile.replayWrite (t : Tile) (addr n src kind : Nat) : Tile :=
  if t.trcMode = 2 then ((linesOf addr n).foldl (fun t l => t.replayLine src kind l) t).passDone 256
  else t

/-! ### The operations of the memory agents (R246, R247) -/

/-- What an operation answers: RES, HOPS, the 32 bytes of data with poison, and the writes it makes,
by key. -/
structure OpResult where
  res : Nat := 0
  hops : Nat := 0
  data : List PByte := []
  writes : List (Nat × List PByte) := []
  /-- the keys of the eight bytes that it has read beside its target -/
  reads : List Nat := []
  deriving DecidableEq, Repr

/-- Bytes as unpoisoned. -/
def clean (bs : List Byte) : List PByte := bs.map fun b => (b, false)

/-- Pads returned data to 32 bytes. -/
def pad32 (bs : List PByte) : List PByte := (bs ++ clean (natToBytes 32 0)).take 32

/-- Eight bytes of a number, with one poison bit. -/
def word8 (x : Nat) (p : Bool) : List PByte := (natToBytes 8 x).map fun b => (b, p)

/-- The number in bytes i to i + n − 1. -/
def numAt (bs : List PByte) (i n : Nat) : Nat := bytesToNat (((bs.drop i).take n).map (·.1))

/-- Whether any byte is poisoned. -/
def anyP (bs : List PByte) : Bool := bs.any (·.2)

/-- The value of eight bytes at a key, and whether any is marked. -/
def State.rd8 (s : State) (kid a : Nat) : Nat × Bool :=
  let bs := s.rdP kid a 8
  (numAt bs 0 8, anyP bs)

/-- A header of 32 bytes at key a after a write of eight bytes at key k. -/
def overlay (a : Nat) (hd : List PByte) (k : Nat) (bs : List PByte) : List PByte :=
  hd.zipIdx.map fun x => if k ≤ a + x.2 ∧ a + x.2 < k + 8 then bs.getD (a + x.2 - k) x.1 else x.1

/-- `.enq` (R247): `loc` gives the key of eight bytes at a pointer, inside the page or object. The writes take
effect in the order of the pseudocode, so a node or a tail may lie in the header. -/
def State.enqOp (s : State) (kid a : Nat) (loc : Nat → Option Nat) (hd : List PByte) (n : Nat) :
    OpResult :=
  let tail := numAt hd 8 8
  let cnt := numAt hd 16 8
  let old := pad32 (word8 cnt false)
  match loc n with
  | none => { res := 3, data := old }
  | some kn =>
    if n % 8 ≠ 0 then { res := 3, data := old }
    else if cnt ≠ 0 ∧ (loc tail).isNone then { res := 3, data := old }
    else if cnt ≠ 0 ∧ ((loc tail).map fun k => (s.rd8 kid k).2) = some true then
      { res := 5, data := pad32 (word8 tail true), reads := (loc tail).toList }
    else
      let h1 := overlay a hd kn (word8 0 false)
      let at_ := if numAt h1 16 8 = 0 then some a else loc (numAt h1 8 8)
      let h2 := match at_ with
        | some k => overlay a h1 k (word8 n false)
        | none => h1
      let h3 := overlay a h2 (a + 8) (word8 n false)
      { data := old,
        writes := (kn, word8 0 false) :: (at_.map fun k => (k, word8 n false)).toList ++
          [(a, overlay a h3 (a + 16) (word8 (numAt h3 16 8 + 1) false))]
        reads := if cnt = 0 then [] else (loc tail).toList }

/-- The loop of `.chase` (R247). -/
def State.chaseLoop (s : State) (kid : Nat) (loc : Nat → Option Nat) (koff noff hm key : Nat)
    (node h : Nat) : Nat → OpResult
  | 0 => { res := 4, hops := h, data := pad32 (word8 node false) }
  | k + 1 =>
    match loc (node + koff), loc (node + noff) with
    | some ka, some na =>
      let x := s.rd8 kid ka
      let y := s.rd8 kid na
      if x.2 then { res := 5, hops := h, data := pad32 (word8 node true), reads := [ka] }
      else if x.1 = key then { hops := h, data := pad32 (word8 node false), reads := [ka] }
      else if y.2 then { res := 5, hops := h, data := pad32 (word8 node true), reads := [ka, na] }
      else if y.1 = 0 then { res := 2, hops := h + 1, data := pad32 (word8 node false), reads := [ka, na] }
      else if h = hm then { res := 4, hops := h + 1, data := pad32 (word8 y.1 false), reads := [ka, na] }
      else
        let r := s.chaseLoop kid loc koff noff hm key y.1 (h + 1) k
        { r with reads := ka :: na :: r.reads }
    | _, _ => { res := 3, hops := h, data := pad32 (word8 node false) }

/-- Whether the control word of a block is malformed (R246, R247). -/
def opControlBad (n ctl : Nat) : Bool :=
  if n = 6 then decide (2 ^ 36 ≤ ctl) || bitsN ctl 0 16 % 8 != 0 || bitsN ctl 16 16 % 8 != 0
  else ctl != 0

/-- A compare-and-swap of bytes (R247). -/
def casOp (n a : Nat) (old blk : List PByte) : OpResult :=
  let w := xopSize n
  if old.map (·.1) = ((blk.drop 8).take w).map (·.1) then
    { data := pad32 old, writes := [(a, clean (((blk.drop 40).take w).map (·.1)))] }
  else { res := 1, data := pad32 old }

/-- What operation n answers at a home (R246, R247): KEYID, key of the target, the target's pointer,
the places pointers reach, the block. -/
def State.agentOp (s : State) (n kid a node : Nat) (loc : Nat → Option Nat) (blk : List PByte) :
    OpResult :=
  let ctl := numAt blk 0 8
  if opControlBad n ctl then { res := 7, data := pad32 [] }
  else if n = 6 then
    s.chaseLoop kid loc (bitsN ctl 0 16) (bitsN ctl 16 16) (bitsN ctl 32 4) (numAt blk 8 8) node 0 17
  else
    let old := s.rdP kid a (xopSize n)
    let x := numAt old 0 (xopSize n)
    if anyP old then
      let ret := if n = 1 then [] else if n = 5 then (old.drop 16).take 8 else old
      { res := 5, data := (pad32 ret).map fun b => (b.1, true) }
    else if n = 0 then
      { data := pad32 old, writes := [(a, word8 (x + numAt blk 8 8) false)] }
    else if n = 1 then
      let c := cellOf x
      let r := fixAdd c.1 false (numAt blk 8 4)
      { res := if r.2 then 6 else 0, data := pad32 [],
        writes := [(a, clean (natToBytes 32 (cellPut x r.1 (c.2 || r.2))))] }
    else if n = 5 then s.enqOp kid a loc old (numAt blk 8 8)
    else casOp n a old blk

/-- The 40 bytes that a result writes back (R246). -/
def OpResult.bytes (r : OpResult) : List PByte :=
  word8 (r.hops * 256 + r.res) false ++ r.data

end Sys2Proof.Machine
end

