-- ==== Sys2Proof/Machine/Collectives.lean ====
section
/-! DEFINITION. Collectives: the tile table, firings, the reduce and its order, the gather, the step log
(R252 to R263, R368 to R374, R391). -/

namespace Sys2Proof.Machine

/-! ### Entries, members and shards (R252, R253, R257, R360, R368) -/

/-- A tile-table entry. -/
def State.entryAt (s : State) (i : Nat) : TtEntry := s.tt.val {} i

/-- Changes a tile-table entry. -/
def State.modEntry (s : State) (i : Nat) (f : TtEntry → TtEntry) : State :=
  { s with tt := s.tt.put i (f (s.entryAt i)) }

/-- OSLOT and PTH of the words for the next kernel, and those of a kernel (R360). -/
def State.oslot (s : State) : Nat := bitsN s.mctl.toNat 56 8
def State.pth (s : State) : Nat := bitsN s.mctl.toNat 48 8
def State.slotOf (s : State) (k : Nat) : Nat := bitsN (s.kernAt k).mctl.toNat 56 8
def State.pthOf (s : State) (k : Nat) : Nat := bitsN (s.kernAt k).mctl.toNat 48 8

/-- The kernel whose entries hold an index (R263). -/
def State.entryKern (s : State) (i : Nat) : Option Nat :=
  (s.kernels.find? fun p => p.2.entries.contains i).map (·.1)

/-- MMASK of the kernel of an entry (R362). -/
def State.entryMask (s : State) (i : Nat) : BitVec 256 :=
  match s.entryKern i with
  | some k => (s.kernAt k).mmask
  | none => 0

/-- The slots of a mask, ascending. -/
def slotsOf (m : BitVec 256) : List Nat := (List.range 256).filter m.getLsbD

/-- Blocks of an entry, blocks per shard, and the home slot of a block (R257). -/
def TtEntry.blocks (e : TtEntry) : Nat := (e.len + 15) / 16
def TtEntry.cut (e : TtEntry) : Nat :=
  let n := (slotsOf e.eff).length
  if n = 0 then 1 else (e.blocks + n - 1) / n
def TtEntry.homeSlot (e : TtEntry) (b : Nat) : Nat := (slotsOf e.eff).getD (b / max 1 e.cut) 256

/-- The elements of a block that lie within LEN. -/
def TtEntry.count (e : TtEntry) (b : Nat) : Nat := min 16 (e.len - 16 * b)

/-- The state word (R256). -/
def TtEntry.word (e : TtEntry) : Word :=
  BitVec.ofNat 64 (e.fg.toNat * 2 ^ 48 + e.epoch.toNat * 2 ^ 32 + e.rdyc % 2048 * 2 ^ 21 +
    b2n e.ovf * 2 ^ 20 + b2n e.stl * 2 ^ 19 + b2n e.rpv * 2 ^ 18 + b2n e.running * 2 ^ 16 +
    min 255 e.dupc * 2 ^ 8 + e.xn % 256)

/-! ### Translations of a firing (R391) -/

/-- Whether a context holds a key (R341, R343). -/
def State.holdsKey (s : State) (asid key : Nat) : Bool :=
  (s.ctxOf asid).keys.contains key || ((s.ctxOf asid).supok && key == 0)

/-- The translations of n bytes from va on whose leaves pass a check, k pages at most. -/
def State.pagesFrom (s : State) (asid : Nat) (ok : BitVec 64 → Bool) (va n : Nat) :
    Nat → Option (List Xlate)
  | 0 => none
  | k + 1 =>
    match s.walk asid (va % 2 ^ 56) with
    | .bad _ _ _ => none
    | .leaf e _ _ =>
      let sz := 2 ^ psLog (ptePS e)
      let left := sz - va % sz
      if !ok e || (s.physOf e va).isNone then none
      else if n ≤ left then some [mkXlate asid va e]
      else (s.pagesFrom asid ok (va + left) (n - left) k).map (mkXlate asid va e :: ·)

/-- The checks of a firing's translation: own HBM, the key held, R or W (R253, R299, R391). -/
def State.firingLeaf (s : State) (asid : Nat) (write : Bool) (e : BitVec 64) : Bool :=
  pteTT e == 3 && s.holdsKey asid (pteKey e) && (if write then pteW e else pteR e)

/-- The translations of a range of a firing. -/
def State.firingPages (s : State) (asid va n : Nat) (write : Bool) : Option (List Xlate) :=
  if canonical va then s.pagesFrom asid (s.firingLeaf asid write) va n (n / 65536 + 2) else none

/-- KEYID and key of an address under a list of translations. -/
def State.viaKey (s : State) (xs : List Xlate) (va : Nat) : Option (Nat × Nat) :=
  match xs.find? (fun x => x.va / 2 ^ x.log == va % 2 ^ 56 / 2 ^ x.log) with
  | none => none
  | some x => (s.physOf x.leaf (va % 2 ^ 56)).map fun a => s.forwardOf (pteKey x.leaf) a

/-- Reads n bytes, all poisoned where nothing translates. -/
def State.rdVia (s : State) (xs : Option (List Xlate)) (va n : Nat) : List PByte :=
  match xs.bind fun l => s.viaKey l va with
  | some (kid, a) => s.rdP kid a n
  | none => (natToBytes n 0).map fun b => (b, true)

/-- Writes result bytes, journaled as writes of level 5 of the kernel (R262); nothing where nothing
translates. -/
def State.wrVia (s : State) (k : Nat) (xs : Option (List Xlate)) (va : Nat) (bs : List PByte) :
    State :=
  match xs.bind fun l => s.viaKey l va with
  | some (kid, a) =>
    let ssc5 := (s.domAt 5 (k * 2 ^ 18)).ssn
    ((lineKeys a bs.length).foldl
      (fun s l => s.journalAs (firingWriter k) 5 [0, 0, 0, 0, ssc5] l) s).wrP kid a bs
  | none => s

/-! ### Blocks (R258, R259) -/

/-- The 64 bytes of a block of the own contribution, padded with zero elements (R257). -/
def State.ownBlock (s : State) (e : TtEntry) (b : Nat) : List PByte :=
  let n := 4 * e.count b
  s.rdVia e.srcX (e.src.toNat + 64 * b) n ++ clean (natToBytes (64 - n) 0)

/-- The FP32 codes of a block. -/
def codesOf (bs : List PByte) : List Nat := (List.range 16).map fun i => numAt bs (4 * i) 4

/-- What a contribution brings to a fold: a wire block, FP32 codes, whether it is excluded (R259). -/
structure Contribution where
  wire : WireBlock
  codes : List Nat
  bad : Bool
  deriving DecidableEq, Repr

/-- A contribution of FP32 values. -/
def contribOf (bs : List PByte) : Contribution :=
  { wire := { wireOf ((codesOf bs).map fp32.val) with poison := anyP bs },
    codes := codesOf bs,
    bad := anyP bs || (wireOf ((codesOf bs).map fp32.val)).poison }

/-- The contribution of a received segment. -/
def segContrib (op : Nat) (g : Segment) : Contribution :=
  if op = 0 then
    let w := wireRead (g.data.map (·.1))
    { wire := w, codes := [], bad := w.poison || anyP g.data }
  else { contribOf g.data with bad := anyP g.data }

/-- The own contribution: for OP 1 and 2 only poison excludes it. -/
def State.ownContrib (s : State) (e : TtEntry) (b : Nat) : Contribution :=
  let bs := s.ownBlock e b
  if e.op = 0 then contribOf bs else { contribOf bs with bad := anyP bs }

/-- Folds a contribution in (R258, R259). -/
def Fold.add (f : Fold) (op src : Nat) (c : Contribution) : Fold :=
  let f := { f with order := f.order ++ [src] }
  if c.bad then f
  else
    let f := { f with used := f.used + 1 }
    match op with
    | 0 =>
      let w := match f.wire with
        | none => c.wire
        | some w => wireAdd w c.wire
      { f with wire := some w }
    | 1 =>
      let old := if f.cells.isEmpty then List.replicate 16 ((0 : BitVec 192), false) else f.cells
      { f with cells := List.zipWith (fun (x : BitVec 192 × Bool) y => fixAdd x.1 x.2 y) old c.codes }
    | _ =>
      let new := if f.maxs.isEmpty then c.codes.map fun x => BitVec.ofNat 32 (fltMax fp32 x x)
        else List.zipWith (fun (x : BitVec 32) y => BitVec.ofNat 32 (fltMax fp32 x.toNat y))
          f.maxs c.codes
      { f with maxs := new }

/-- The FP32 codes of a finished fold; zeros where every contribution was excluded (R258, R259). -/
def Fold.codes (f : Fold) (op : Nat) : List Nat :=
  if f.used = 0 then List.replicate 16 0
  else
    match op with
    | 0 =>
      match f.wire with
      | some w => w.m.map fun m => roundNe ((FVal.ofInt m).scale w.e) fp32 false
      | none => List.replicate 16 0
    | 1 => f.cells.map fun c => fixRd c.1 c.2
    | _ => f.maxs.map (·.toNat)

/-- The bytes of the elements of a result block (R258). -/
def Fold.bytes (f : Fold) (op cnt : Nat) : List PByte :=
  ((f.codes op).take cnt).flatMap fun c => (natToBytes 4 c).map fun b => (b, f.used == 0)

/-- The HBM stack that holds a result block (R258). -/
def State.stackOf (s : State) (e : TtEntry) (b : Nat) : Nat :=
  match e.dstX.bind fun l => s.viaKey l (e.raddr.toNat + 64 * b) with
  | some (_, a) => bitsN (keyPa a) 12 3
  | none => 0

/-- The blocks of the own shard. -/
def State.ownBlocks (_s : State) (e : TtEntry) : List Nat :=
  (List.range e.blocks).filter fun b => e.homeSlot b == e.own

/-! ### Order traces (R260) -/

/-- The key of a byte of a stack's trace area: a stack holds every eighth 4 KiB of its package's HBM
(R192). -/
def State.traceKey (s : State) (st o : Nat) : Nat :=
  let off := (s.traces.val {} st).base * 4096 + o
  hbmKey s.own (off / 4096 * 32768 + st * 4096 + off % 4096)

/-- Reads a trace byte, and n of them. -/
def State.traceByte (s : State) (st o : Nat) : Byte := s.rdK 0 (s.traceKey st o)
def State.traceNum (s : State) (st o n : Nat) : Nat :=
  bytesToNat ((List.range n).map fun i => s.traceByte st (o + i))

/-- Writes trace bytes. -/
def State.traceWrite (s : State) (st o : Nat) (bs : List Byte) : State :=
  (bs.foldl (fun (acc : State × Nat) b =>
    (acc.1.wrP 0 (acc.1.traceKey st acc.2) [(b, false)], acc.2 + 1)) (s, o)).1

/-- The oldest unused record of an entry and FG from place o on: its place and slots. -/
def State.findRecord (s : State) (st i fg o : Nat) : Nat → Option (Nat × List Nat)
  | 0 => none
  | k + 1 =>
    let t := s.traces.val {} st
    if t.used ≤ o then none
    else
      let h := s.traceNum st o 8
      let n := bitsN h 10 9
      let slots := (List.range n).map fun j => s.traceNum st (o + 8 + j) 1
      if bitsN h 19 13 = i ∧ bitsN h 48 16 = fg ∧ !t.taken.contains o then some (o, slots)
      else s.findRecord st i fg (o + 8 + (n + 7) / 8 * 8) k

/-- Loads the order that a stack's replay asks of a firing (R260). The record stays used where the firing is cancelled
(DESIGN CHOICE, log 54). -/
def State.loadScript (s : State) (i st : Nat) : State :=
  let t := s.traces.val {} st
  let e := s.entryAt i
  if t.mode ≠ 2 ∨ t.size = 0 ∨ e.op ≠ 0 then s
  else
    match s.findRecord st i e.fg.toNat 0 (t.used / 16 + 1) with
    | none => s.modEntry i fun e => { e with rpv := true }
    | some (o, slots) =>
      let s := { s with traces := s.traces.put st { t with taken := o :: t.taken } }
      s.modEntry i fun e =>
        { e with script := e.script.put st (slots.filter e.eff.getLsbD),
                 rpv := e.rpv || slots.any fun x => !e.eff.getLsbD x }

/-- Appends the record of a stack's order in log mode (R260). -/
def State.logOrder (s : State) (i st : Nat) : State :=
  let t := s.traces.val {} st
  let e := s.entryAt i
  let ord := e.admitted.val [e.own] st
  let len := 8 + (ord.length + 7) / 8 * 8
  if t.mode ≠ 1 ∨ t.size = 0 ∨ e.op ≠ 0 then s
  else if t.size * 4096 < t.used + len then { s with traces := s.traces.put st { t with full := true } }
  else
    let h := e.fg.toNat * 2 ^ 48 + e.epoch.toNat * 2 ^ 32 + i % 2 ^ 13 * 2 ^ 19 +
      ord.length % 512 * 2 ^ 10
    let pad := natToBytes (len - 8 - ord.length) 0
    let s1 := s.traceWrite st t.used (natToBytes 8 h ++ ord.map (BitVec.ofNat 8) ++ pad)
    { s1 with traces := s1.traces.put st { t with used := t.used + len } }

/-! ### Readies and the start of a firing (R255, R257, R262) -/

/-- Changes every active `ctready` of an entry in a tile. -/
def Tile.modReadies (t : Tile) (i : Nat) (f : XAct → XAct) : Tile :=
  { t with xact := t.xact.map fun a => if a.cmd.kind = .ctready ∧ a.cmd.arg = i then f a else a }

/-- Changes every active `ctready` of an entry, those of evicted tiles too. -/
def State.modReadies (s : State) (i : Nat) (f : XAct → XAct) : State :=
  { s with
    tiles := s.tiles.mapVals fun _ t => t.modReadies i f,
    saves := s.saves.map fun x => { x with img := x.img.modReadies i f } }

/-- Counts a `ctready` toward the next firing, if RDYC can rise (R255): `nxt` 1 notes that it has been
counted. -/
def State.countReady (s : State) (tile no : Nat) : State :=
  match (s.tileAt tile).act? no with
  | none => s
  | some a =>
    let i := a.cmd.arg
    let e := s.entryAt i
    if a.nxt ≠ 0 ∨ e.nrdy + 1 ≤ e.rdyc then s
    else
      (s.modEntry i fun e => { e with rdyc := e.rdyc + 1 }).modAct tile no fun a => { a with nxt := 1 }

/-- The active `ctready` commands of an entry in a tile. -/
def Tile.readies (t : Tile) (i : Nat) : List XAct :=
  t.xact.filter fun a => a.cmd.kind == .ctready && a.cmd.arg == i

/-- Every active `ctready` of an entry in the tiles: tile and command. -/
def State.readies (s : State) (i : Nat) : List (Nat × XAct) :=
  s.tiles.flatMap fun t => (t.2.readies i).map fun a => (t.1, a)

/-- Those of evicted tiles too. -/
def State.allReadies (s : State) (i : Nat) : List (Nat × XAct) :=
  s.readies i ++ s.saves.flatMap fun x => (x.img.readies i).map fun a => (x.tile, a)

/-- Sends a segment to a slot. -/
def State.sendSeg (s : State) (slot : Nat) (gather : Bool) (g : Segment) : State :=
  { s with segsOut := s.segsOut ++ [(slot, gather, g)] }

/-- The scatter phase of a firing (R257). -/
def State.scatter (s : State) (i : Nat) : State :=
  let e := s.entryAt i
  (List.range e.blocks).foldl (fun s b =>
    if e.homeSlot b = e.own then s
    else
      let c := s.ownContrib e b
      let w := { c.wire with poison := c.bad }
      let data := if e.op = 0 then clean w.bytes else s.ownBlock e b
      s.sendSeg (e.homeSlot b) false
        { entry := i, epoch := e.epoch, fg := e.fg, src := e.own, pos := b, data := data,
          stamp := none }) s

/-- The root's data of an OP 3 firing, block by block with the stamp word (R257). -/
def State.rootSegs (s : State) (i : Nat) : List Segment :=
  let e := s.entryAt i
  let w := s.rdVia e.srcX (e.src.toNat - 8) 8
  let st : Word := BitVec.ofNat 64 (numAt w 0 8)
  (List.range e.blocks).map fun b =>
    { entry := i, epoch := e.epoch, fg := e.fg, src := e.own, pos := 64 * b,
      data := (s.ownBlock e b).take (4 * e.count b), stamp := some (st, anyP w) }

/-- Writes the bytes of a result that reach this member (R257, R259, R261). -/
def State.landResult (s : State) (g : Segment) : State :=
  let i := g.entry
  let e := s.entryAt i
  let k := (s.entryKern i).getD 0
  let blocks := (List.range ((g.data.length + 63) / 64)).map fun j => g.pos / 64 + j
  let land (s : State) : State :=
    let s1 := (List.range ((g.data.length + 63) / 64)).foldl (fun s j =>
      s.wrVia k e.dstX (e.raddr.toNat + g.pos + 64 * j) ((g.data.drop (64 * j)).take 64)) s
    s1.modEntry i fun e =>
      { e with missing := e.missing.filter (!blocks.contains ·), resPois := e.resPois || anyP g.data }
  match g.stamp with
  | none => land s
  | some (st, p) =>
    let ver : BitVec 32 := st.truncate 32
    let both := ((land s).wrVia k e.dstX (e.raddr.toNat - 8) (word8 st.toNat p)).modEntry i fun e =>
      { e with resPois := e.resPois || p }
    if !e.chk then both.modEntry i fun e => { e with stamp := ver }
    else if ver = e.stamp then both
    else
      s.modEntry i fun e =>
        { e with missing := e.missing.filter (!blocks.contains ·), stl := true, stale := true }

/-- Whether a result would be written into a page that a migration locks: its old home queues the write until the
commit (R307). HBM in self-refresh takes none (R384). -/
def State.landLocked (s : State) (g : Segment) : Bool :=
  let e := s.entryAt g.entry
  s.plane.refresh ||
  (List.range ((g.data.length + 63) / 64)).any fun j =>
    match e.dstX.bind fun l => s.viaKey l (e.raddr.toNat + g.pos + 64 * j) with
    | some (_, a) => s.lockedAt a
    | none => false

/-- A result is written, or waits at the home of a locked page and arrives again. -/
def State.landOrWait (s : State) (g : Segment) : State :=
  if s.landLocked g then { s with agenda := s.agenda ++ [.resultGatherWrite g] } else s.landResult g

/-- The first segment of each source and block of a list: of what was held for a firing the others are
duplicates (R259). -/
def firstSegs (gs : List Segment) : List Segment :=
  gs.foldl (fun acc g => if acc.any fun x => x.src == g.src && x.pos == g.pos then acc else acc ++ [g]) []

/-- The number of a segment sent, by its slot, phase and position, among those of a firing and of the one before it
(R369). -/
def segKey (seg : Nat) (g : Segment) : Nat := seg * 2 + g.fg.toNat % 2

/-- What stays of the counts of resends when a firing with an FG starts: those of the firing before it. -/
def keptResends (fg : BitVec 16) (m : SMap Nat) : SMap Nat := m.filter fun p => p.1 % 2 != fg.toNat % 2

/-- The start of a firing once enough readies have been counted (R257, R368, R391). The flags of the last firing
(R256) clear as the next one starts (DESIGN CHOICE, log 54). What was held for it of slots that take no part is
dropped without a count. -/
def State.fire (s : State) (i : Nat) : State :=
  let e := s.entryAt i
  if e.running ∨ e.rdyc < e.nrdy + 1 ∨ !e.v then s
  else
    let pre := if e.op = 3 then 8 else 0
    let me := s.slotOf ((s.entryKern i).getD 0)
    let root := e.op == 3 && me == e.root
    let srcX := if e.op = 3 ∧ !root then some []
      else s.firingPages e.asid (e.src.toNat - pre) (4 * e.len + pre) false
    let dstX := s.firingPages e.asid (e.raddr.toNat - pre) (4 * e.len + pre) true
    let own : BitVec 256 := if e.op ≠ 3 ∧ srcX.isNone then 1 <<< me else 0
    let eff := e.peers &&& s.entryMask i
    let segs := e.nextSegs.filter fun g => eff.getLsbD g.src
    let gath := e.nextGath.filter fun g => eff.getLsbD g.src
    let s1 := s.modEntry i fun e =>
      { e with
        rdyc := e.rdyc - (e.nrdy + 1), running := true, ovf := false, stl := false, rpv := false,
        xn := 0, exclm := own, own := me, eff := eff, srcX := srcX, dstX := dstX, folds := [],
        admitted := [], script := [], missing := List.range e.blocks, resPois := false,
        resends := keptResends e.fg e.resends, stale := false, waitSegs := firstSegs segs, nextSegs := [],
        nextGath := [],
        dupc := min 255 (e.dupc + (segs.length - (firstSegs segs).length) +
          (gath.length - (firstSegs gath).length)) }
    let s2 := s1.modReadies i fun a => if a.nxt = 1 then { a with counted := 1 } else a
    let s3 := (List.range 8).foldl (fun s st =>
      if (s.ownBlocks (s.entryAt i)).any fun b => s.stackOf (s.entryAt i) b == st then
        s.loadScript i st else s) s2
    let s4 := if e.op = 3 then
        if root then
          (s3.rootSegs i).foldl (fun s g =>
            ((slotsOf (s.entryAt i).eff).filter (· != me)).foldl
              (fun s x => s.sendSeg x true g) (s.landOrWait g)) s3
        else s3
      else s3.scatter i
    (firstSegs gath).foldl State.landOrWait s4

/-! ### Segments (R259) -/

/-- Whether a segment is dropped without a count: its slot takes no part, or is lost (R365, R368). Of an entry that no
strand of a kernel has readied yet, whose membership mask is not known, every peer's segment is held (R259). -/
def State.segIgnored (s : State) (g : Segment) : Bool :=
  let e := s.entryAt g.entry
  let eff := if e.running && !(g.fg == e.fg + 1) then e.eff
    else if (s.entryKern g.entry).isNone then e.peers else e.peers &&& s.entryMask g.entry
  s.plane.halt || !eff.getLsbD g.src || (s.routes.val {} g.src).st == 2

/-- Whether a segment carries the sequence number of the running firing. -/
def TtEntry.isCurrent (e : TtEntry) (g : Segment) : Bool :=
  e.running && g.epoch == e.epoch && g.fg == e.fg

/-- Whether a segment carries the next FG of the same EPOCH. -/
def TtEntry.isNext (e : TtEntry) (g : Segment) : Bool :=
  g.epoch == e.epoch && g.fg == (if e.running then e.fg + 1 else e.fg)

/-- A duplicate, counted in DUPC. -/
def TtEntry.dup (e : TtEntry) : TtEntry := { e with dupc := min 255 (e.dupc + 1) }

/-- Whether a block of a source has been added or waits (R259). -/
def TtEntry.known (e : TtEntry) (g : Segment) : Bool :=
  ((e.folds.val {} g.pos).order.contains g.src) ||
    e.waitSegs.any fun x => x.src == g.src && x.pos == g.pos

/-- Whether a firing has still to start its own contribution to a block of its shard (R257, R258). -/
def TtEntry.ownLeft (e : TtEntry) (b : Nat) : Bool :=
  e.running && decide (e.op ≤ 2) && e.missing.contains b && (e.folds.val? b).isNone

/-- The steps that wait in a stack's adder queue: an entry, a sequence number, a source and the stack's part of its
segment are one step; those of the own package's sequencer are the own contributions (R257). What a replay holds back,
and what waits for a next firing, is in no queue. -/
def State.stackSteps (s : State) (st : Nat) : List (Nat × BitVec 16 × Nat) :=
  (s.tt.flatMap fun e =>
    (if (s.ownBlocks e.2).any fun b => e.2.ownLeft b && s.stackOf e.2 b == st then [(e.1, e.2.fg, e.2.own)] else []) ++
    if (e.2.script.val? st).isSome then []
    else (e.2.waitSegs.filter fun g => s.stackOf e.2 g.pos == st).map fun g => (e.1, g.fg, g.src)).eraseDups

/-- Whether a stack's queue of 64 steps is full for a segment: the ports withhold credit, so it waits outside
(R248, R257). -/
def State.adderFull (s : State) (g : Segment) : Bool :=
  let e := s.entryAt g.entry
  let xs := s.stackSteps (s.stackOf e g.pos)
  e.isCurrent g && !e.known g && decide (64 ≤ xs.length) && !xs.contains (g.entry, g.fg, g.src)

/-- SEGMENT_ARRIVAL (R259): a block of the scatter phase reaches its home's stack. -/
def execSegmentArrival (g : Segment) (s : State) : Host.Outcome State Fault Refusal :=
  .next (if s.segIgnored g then s
    else if s.adderFull g then { s with agenda := s.agenda ++ [.segmentArrival g] }
    else s.modEntry g.entry fun e =>
      if e.isCurrent g then
        if e.known g then e.dup else { e with waitSegs := e.waitSegs ++ [g] }
      else if e.isNext g then { e with nextSegs := e.nextSegs ++ [g] }
      else e.dup)

/-- RESULT_GATHER_WRITE (R257, R259, R261). -/
def execResultGatherWrite (g : Segment) (s : State) : Host.Outcome State Fault Refusal :=
  let e := s.entryAt g.entry
  .next (if s.segIgnored g then s
    else if e.isCurrent g then
      if e.missing.contains (g.pos / 64) then s.landOrWait g else s.modEntry g.entry TtEntry.dup
    else if e.isNext g then
      s.modEntry g.entry fun e => { e with nextGath := e.nextGath ++ [g] }
    else s.modEntry g.entry TtEntry.dup)

/-! ### Reduction (R258, R260) -/

/-- Folds the own block first. -/
def State.openFold (s : State) (e : TtEntry) (b : Nat) : Fold :=
  match e.folds.val? b with
  | some f => f
  | none => ({} : Fold).add e.op e.own (s.ownContrib e b)

/-- The next segment of a block that a stack may take: the order already begun at the stack, then the
order a replay asks for, else arrival order; past 16 held segments the replay gives up (R260). An effective peer that
the record does not name comes after those it names, in arrival order (DESIGN CHOICE, log 54). -/
def State.nextSeg (s : State) (e : TtEntry) (b : Nat) : Option Segment × Bool :=
  let st := s.stackOf e b
  let f := s.openFold e b
  let begun := e.admitted.val [e.own] st
  let mine := e.waitSegs.filter fun g => g.pos == b
  if f.order.length < begun.length then
    (mine.find? fun g => some g.src == begun[f.order.length]?, false)
  else
    let fresh := mine.filter fun g => !begun.contains g.src
    match e.script.val? st with
    | none => (fresh.head?, false)
    | some ord =>
      match ord.find? (fun x => !begun.contains x) with
      | none => (fresh.head?, false)
      | some x =>
        match fresh.find? (fun g => g.src == x) with
        | some g => (some g, false)
        | none =>
          let held := ((e.waitSegs.filter fun g =>
            s.stackOf e g.pos == st && !begun.contains g.src).map (·.src)).eraseDups
          if 16 < held.length then (fresh.head?, true) else (none, false)

/-- Writes a finished result block and sends it to the other members (R257, R258). -/
def State.writeBlock (s : State) (i b : Nat) (f : Fold) : State :=
  let e := s.entryAt i
  let g : Segment :=
    { entry := i, epoch := e.epoch, fg := e.fg, src := e.own, pos := 64 * b,
      data := f.bytes e.op (e.count b), stamp := none }
  let ov := match f.wire with
    | some w => w.ovf
    | none => false
  let s1 := (s.landOrWait g).modEntry i fun e => { e with ovf := e.ovf || ov }
  ((slotsOf e.eff).filter (· != e.own)).foldl (fun s x => s.sendSeg x true g) s1

/-- One receive-reduce step of a block of the own shard (R258). -/
def State.reduce (s : State) (i b : Nat) : State :=
  let e := s.entryAt i
  let st := s.stackOf e b
  let f := s.openFold e b
  let ownBad := (s.ownContrib e b).bad
  let (g, gaveUp) := s.nextSeg e b
  let f1 := match g with
    | none => f
    | some g => f.add e.op g.src (segContrib e.op g)
  let excl (m : BitVec 256) : BitVec 256 :=
    let m := if (e.folds.val? b).isNone && ownBad then m ||| (1 <<< e.own) else m
    match g with
    | some g => if (segContrib e.op g).bad then m ||| (1 <<< g.src) else m
    | none => m
  let s1 := s.modEntry i fun e =>
    let begun := e.admitted.val [e.own] st
    { e with
      folds := e.folds.put b f1,
      admitted := e.admitted.put st (match g with
        | some g => if begun.contains g.src then begun else begun ++ [g.src]
        | none => begun),
      exclm := excl e.exclm, rpv := e.rpv || gaveUp,
      script := if gaveUp then e.script.del st else e.script,
      waitSegs := match g with
        | some g => e.waitSegs.erase g
        | none => e.waitSegs }
  let s2 := if gaveUp then
      { s1 with traces := s1.traces.put st { s1.traces.val {} st with divg := true } } else s1
  if f1.order.length = (slotsOf e.eff).length then s2.writeBlock i b f1 else s2

/-- Whether a block of the own shard has a step to make. -/
def State.reducible (s : State) (i b : Nat) : Bool :=
  let e := s.entryAt i
  e.running && !s.plane.refresh && decide (e.op ≤ 2) && e.homeSlot b == e.own && e.missing.contains b &&
    ((e.folds.val? b).isNone || (s.nextSeg e b).1.isSome)

/-- REDUCE_STEP (R258). -/
def execReduceStep (i b : Nat) (s : State) : Host.Outcome State Fault Refusal :=
  .next (if s.reducible i b then s.reduce i b else s)

/-! ### The step log (R370 to R374) -/

/-- Bytes of the log area, and bytes held. -/
def StepLog.area (l : StepLog) : Nat := l.size * 4096
def StepLog.held (l : StepLog) : Nat := (l.steps.map fun x => x.2.1).sum

/-- Releases the oldest step (R373). -/
def StepLog.release (l : StepLog) : StepLog :=
  match l.steps with
  | [] => l
  | (n, b, _) :: rest =>
    { l with steps := rest, rd := if l.area = 0 then 0 else (l.rd + b) % l.area,
             first := BitVec.ofNat 32 (match rest with
               | (m, _, _) :: _ => m
               | [] => n + 1) }

/-- Releases steps older than the current one until n more bytes fit, k steps at most. -/
def StepLog.makeRoom (l : StepLog) (cur n : Nat) : Nat → StepLog
  | 0 => l
  | k + 1 =>
    if l.held + n ≤ l.area then l
    else
      match l.steps with
      | [] => l
      | [(m, _, _)] => if m = cur then l else l.release
      | _ => l.release.makeRoom cur n k

/-- Adds bytes to a step's account. -/
def StepLog.account (l : StepLog) (step n : Nat) : StepLog :=
  match l.steps.getLast? with
  | some (m, b, c) =>
    if m = step then { l with steps := l.steps.dropLast ++ [(m, b + n, c)] }
    else { l with steps := l.steps ++ [(step, n, false)] }
  | none => { l with steps := [(step, n, false)], first := BitVec.ofNat 32 step }

/-- Writes bytes into the log area. -/
def State.logWrite (s : State) (o : Nat) (bs : List Byte) : State :=
  s.wrP 0 (hbmKey s.own (s.slog.base * 4096 + o)) (clean bs)

/-- Appends a record of a step (R371, R373): a pad fills the end of the area, but for a log that holds nothing and
starts at its beginning; older steps make room; a step that alone does not fit empties the log, and no further record of
it is taken. A kernel that counts its steps from 0 again is logged behind the steps held (R370). -/
def State.logAppend (s : State) (step : Nat) (bs : List Byte) : State :=
  let l := s.slog
  if l.lostAt = some step then s
  else
    let l := if l.steps.length = 64 ∧ (l.steps.getLast?.map (·.1)) ≠ some step then l.release else l
    let end_ := if l.area < l.wr + bs.length then l.area - l.wr else 0
    let l1 := l.makeRoom step (end_ + bs.length) 65
    let bare := l1.steps.isEmpty && end_ != 0
    let l := if bare then { l1 with wr := 0, rd := 0 } else l1
    let pad := if bare then 0 else end_
    let n := pad + bs.length
    if l.area < l.held + n then
      { s with slog := { l with ovf := true, gap := true, lostAt := some step, steps := [], wr := 0, rd := 0,
                                first := BitVec.ofNat 32 (step + 1) } }
    else
      let s1 := { s with slog := l }
      let s2 := if pad = 0 then s1
        else s1.logWrite l.wr (natToBytes 4 0 ++ natToBytes 2 0x8000 ++ natToBytes 26 0)
      let at_ := if pad = 0 then l.wr else 0
      let s3 := s2.logWrite at_ bs
      { s3 with slog := { l.account step n with
          lostAt := none
          wr := if l.area = 0 then 0 else (at_ + bs.length) % l.area } }

/-- The record of a completed firing (R371). -/
def State.logRecord (s : State) (i step : Nat) (mepoch : BitVec 32) : List Byte :=
  let e := s.entryAt i
  let data := (List.range e.blocks).flatMap fun b =>
    (s.rdVia e.dstX (e.raddr.toNat + 64 * b) (4 * e.count b)).map (·.1)
  natToBytes 4 step ++ natToBytes 2 (i % 2 ^ 13) ++ natToBytes 2 e.fg.toNat ++
    natToBytes 2 e.epoch.toNat ++ natToBytes 2 (b2n e.ovf + 2 * b2n (e.exclm != 0)) ++
    natToBytes 4 e.len ++ natToBytes 8 e.raddr.toNat ++ natToBytes 4 mepoch.toNat ++ natToBytes 4 0 ++
    data ++ natToBytes ((32 - 4 * e.len % 32) % 32) 0

/-- Releases every held step at or below a number, k at most (R372). -/
def StepLog.releaseTo (l : StepLog) (n : Nat) : Nat → StepLog
  | 0 => l
  | k + 1 =>
    match l.steps with
    | (m, _, _) :: _ => if m ≤ n then l.release.releaseTo n k else l
    | [] => l

/-- CKPT_WRITE (R372): a reserved bit set rejects the write (R11). -/
def execCkptWrite (x : Word) (s : State) : Host.Outcome State Fault Refusal :=
  .next (s.answered (if 2 ^ 32 ≤ x.toNat then none
    else some { s with slog := { s.slog.releaseTo x.toNat 64 with ckpt := x.truncate 32 } }))

/-- STEP_LOG_RECEIVE (R374): a spare in MODE 2 appends a received record. -/
def execStepLogReceive (bs : List Byte) (s : State) : Host.Outcome State Fault Refusal :=
  let step := bytesToNat (bs.take 4)
  .next (if s.slog.mode = 2 ∧ 32 ≤ bs.length then
      let s1 := s.logAppend step bs
      { s1 with slog := { s1.slog with steps := s1.slog.steps.map fun x => (x.1, x.2.1, true) } }
    else s)

/-! ### Completion of a firing (R257, R259, R261, R370) -/

/-- Reports a poison event of a kernel's firing against a slot (R259, R363). -/
def State.poisonEvent (s : State) (k slot : Nat) : State :=
  let r := s.routes.val {} slot
  let n := min 255 (r.pcnt + 1)
  let s1 := { s with routes := s.routes.put slot { r with pcnt := n } }
  if s.pthOf k ≠ 0 ∧ s.pthOf k ≤ n ∧ r.st = 1 ∧ !s.lost.contains slot then { s1 with lost := s1.lost ++ [slot] }
  else s1

/-- Arrives at a word and sets flags of it by bit number. -/
def State.arriveFlag (s : State) (tile addr n : Nat) (pois : Bool) (flags : List Nat) : State :=
  flags.foldl (fun s b => s.swFlag tile addr b) (s.arrive tile addr n pois).1

/-- Holds an arrival for the restore of a tile. -/
def Tile.arriveLate (t : Tile) (x : Nat × Nat × Bool × List Nat) : Tile :=
  { t with lateArm := t.lateArm ++ [x] }

/-- Arrives at a word of a tile, armed by a kernel: the device's arrival at a word of an evicted tile, and with
`parked` of any parked tile, counts at its restore (R257, R281); at a port that holds the request channel it waits for
the thaw (R359). Where the kernel has left the tile the word is the one that its SRAM holds there now (R196, R257). -/
def State.arriveAt (s : State) (k tile addr n : Nat) (pois : Bool) (flag : List Nat) (parked : Bool) : State :=
  if s.saves.any fun x => x.kernel == k && x.tile == tile then
    { s with saves := s.saves.map fun x =>
        if x.kernel = k ∧ x.tile = tile then { x with img := x.img.arriveLate (addr, n, pois, flag) } else x }
  else if (parked ∧ (s.tileAt tile).parkSt ≠ 0) ∨ s.portHeld tile then
    s.modTileAt tile fun t => t.arriveLate (addr, n, pois, flag)
  else s.arriveFlag tile addr n pois flag

/-- Performs the arrivals that a tile's port has held, once it is thawed; those of a parked tile wait for its restore
(R281, R359). -/
def State.thawPort (s : State) (tile : Nat) : State :=
  if s.portHeld tile ∨ (s.tileAt tile).parkSt ≠ 0 then s
  else
    (s.tileAt tile).lateArm.foldl (fun s x => s.arriveFlag tile x.1 x.2.1 x.2.2.1 x.2.2.2)
      (s.modTileAt tile fun t => { t with lateArm := [] })

/-- The lowest tile that issued a `ctready` for the running firing. -/
def State.firingOrigin (s : State) (i : Nat) : Nat :=
  ((s.allReadies i).filter fun r => r.2.counted == 1).foldl (fun m r => min m r.1) (2 ^ 18)

/-- The lowest tile that issued a `ctready` for a firing that has not completed: the one that runs, or one that has
counted the command and has still to start (R262). -/
def State.readyOrigin (s : State) (i : Nat) : Nat :=
  ((s.allReadies i).filter fun r => r.2.counted == 1 || r.2.nxt != 0).foldl (fun m r => min m r.1) (2 ^ 18)

/-- Adds a device condition to a domain (R205). -/
def State.addCond (s : State) (level dom : Nat) (code : BitVec 8) (org : Nat) : State :=
  s.modDom level dom fun d => { d with conds := d.conds ++ [(code, org)] }

/-- Takes the `ctready` commands of a firing, or all of an entry, out of a tile. -/
def Tile.dropReady (t : Tile) (i : Nat) (all : Bool) : Tile :=
  { t with xact := t.xact.filter fun a =>
      !(a.cmd.kind == .ctready && a.cmd.arg == i && (all || a.counted == 1)) }

/-- The `ctready` commands of a firing leave the images of evicted tiles too. -/
def State.dropSaved (s : State) (i : Nat) (all : Bool) : State :=
  { s with saves := s.saves.map fun x => { x with img := x.img.dropReady i all } }

/-- The completion of a firing at this member (R257). -/
def State.completeFiring (s : State) (i : Nat) : State :=
  let e := s.entryAt i
  let k := (s.entryKern i).getD 0
  let kr := s.kernAt k
  let org := s.firingOrigin i
  let s := (List.range 8).foldl (fun s st =>
    if (s.ownBlocks e).any fun b => s.stackOf e b == st then s.logOrder i st else s) s
  let s := ((slotsOf e.exclm).filter fun x => !(x == e.own && e.srcX.isNone)).foldl
    (fun s x => s.poisonEvent k x) s
  let s := if e.j ∧ s.slog.mode = 1 then
      s.logAppend (s.domAt 5 (k * 2 ^ 18)).ssn.toNat
        (s.logRecord i (s.domAt 5 (k * 2 ^ 18)).ssn.toNat kr.mepoch)
    else s
  let s := if e.stale then s.addCond 5 (k * 2 ^ 18) 0x41 org else s
  let s := s.modEntry i fun e =>
    { e with fg := e.fg + 1, running := false, xn := (slotsOf e.exclm).length % 256, folds := [],
             waitSegs := [], stale := false }
  let s := match e.armed with
    | some (t, a, ka) =>
      s.arriveAt ka t a (4 * e.len) (e.resPois || e.dstX.isNone)
        ((if e.stale then [2] else []) ++ (if e.dstX.isNone then [3] else [])) true
    | none => s
  let s := s.dropSaved i false
  let done := (s.readies i).filter fun r => r.2.counted == 1
  let s := done.foldl (fun s r =>
    (s.modTileAt r.1 fun t =>
      { t with xact := t.xact.filter fun a => a.cmd.no != r.2.cmd.no }).reap r.1 r.2.cmd.ri) s
  s.fire i

/-- FIRING_COMPLETE (R257): every result shard has been written here. -/
def execFiringComplete (i : Nat) (s : State) : Host.Outcome State Fault Refusal :=
  let e := s.entryAt i
  .next (if e.running && e.missing.isEmpty then s.completeFiring i else s)

/-- A segment that an entry has sent, of its running firing or of the last that completed here, by slot + 256 ×
(gather + 2 × position). -/
def State.sentSeg (s : State) (i seg : Nat) : Option Segment :=
  let e := s.entryAt i
  ((s.segsOut.filter fun x => x.1 + 256 * (b2n x.2.1 + 2 * x.2.2.pos) == seg && x.2.2.entry == i &&
    x.2.2.epoch == e.epoch && ((e.running && x.2.2.fg == e.fg) || x.2.2.fg + 1 == e.fg)).getLast?).map (·.2.2)

/-- SEGMENT_RESEND_TIMEOUT (R369): a segment that its home has not acknowledged goes again, four times at most; then
the slot is reported unreachable. -/
def execSegmentResendTimeout (i seg : Nat) (s : State) : Host.Outcome State Fault Refusal :=
  .next (match s.sentSeg i seg with
    | none => s
    | some g =>
      let key := segKey seg g
      let n := (s.entryAt i).resends.val 0 key
      let s1 := s.modEntry i fun e => { e with resends := e.resends.put key (if n < 4 then n + 1 else 5) }
      if n < 4 then { s1 with segsOut := s1.segsOut ++ [(seg % 256, (seg / 256).testBit 0, g)] } else s1)

/-- Whether an entry's sender has reported a slot as unreachable (R369). -/
def TtEntry.unreached (e : TtEntry) (slot : Nat) : Bool :=
  e.resends.any fun p => p.2 == 5 && p.1 / 2 % 256 == slot

/-- Cancels the running firing of an entry (R263): EPOCH counts once for a completion that its timer has cut. -/
def State.cancelFiring (s : State) (i : Nat) : State :=
  let gone := s.readies i
  let s1 := s.modEntry i fun e =>
    { e with running := false, rdyc := 0, timedOut := false,
             epoch := if e.timedOut then e.epoch else e.epoch + 1, folds := [], waitSegs := [],
             nextSegs := [], nextGath := [], missing := [], stale := false, resends := [] }
  let s1 := s1.dropSaved i true
  gone.foldl (fun s r =>
    (s.modTileAt r.1 fun t =>
      { t with xact := t.xact.filter fun a => a.cmd.no != r.2.cmd.no }).reap r.1 r.2.cmd.ri) s1

/-! ### Writing the tile table (R252, R253) -/

/-- The session that acts for the supervisor: a session number that no ASID has (R341). -/
def isSupSession (asid : Nat) : Bool := decide (2 ^ 16 ≤ asid)

/-- An entry whose image fields are those of 64 bytes; the state word stays, DUPC starts again. -/
def TtEntry.withImage (e : TtEntry) (x : Nat) : TtEntry :=
  { e with
    peers := BitVec.ofNat 256 x, src := BitVec.ofNat 64 (bitsN x 256 64),
    raddr := BitVec.ofNat 64 (bitsN x 320 64), len := bitsN x 384 28,
    stamp := BitVec.ofNat 32 (bitsN x 416 32), asid := bitsN x 496 16, root := bitsN x 488 8,
    nrdy := bitsN x 469 10, v := x.testBit 455, op := bitsN x 452 3, j := x.testBit 451,
    chk := x.testBit 450, dupc := 0 }

/-- Whether an address of an image keeps the rules of R253. -/
def State.imageAddr (s : State) (asid va : Nat) : Bool :=
  canonical va && va % 64 == 0 &&
    (match s.walk asid (va % 2 ^ 56) with
     | .leaf e _ _ => pteTT e == 3
     | .bad _ _ _ => false)

/-- The own slot, also before a launch has given a package with no routes its default membership (R360,
R390). -/
def State.ownSlot (s : State) : Nat := if s.routes.any fun r => r.2.v then s.oslot else s.own

/-- Whether an image may be written (R11, R252, R253). -/
def State.imageOk (s : State) (x : Nat) : Bool :=
  let e := ({} : TtEntry).withImage x
  bitsN x 412 4 == 0 && bitsN x 479 9 == 0 && bitsN x 456 13 == 0 && bitsN x 448 2 == 0 &&
    decide (e.op ≤ 3) &&
    (!e.v ||
      (e.peers.getLsbD s.ownSlot && s.imageAddr e.asid e.src.toNat && s.imageAddr e.asid e.raddr.toNat &&
        decide (1 ≤ e.len) && decide (e.len < 2 ^ 28) && (e.op != 0 || e.len % 16 == 0)))

/-- TILE_TABLE_WRITE (R252): by the supervisor's session or one keyed to the image's ASID;
a halted plane rejects it (R356). -/
def execTileTableWrite (asid i : Nat) (image : BitVec 512) (s : State) :
    Host.Outcome State Fault Refusal :=
  let x := image.toNat
  .next (s.answered (if !s.plane.halt && (isSupSession asid || asid == bitsN x 496 16) && decide (i < 8192) &&
      !(s.entryAt i).running && s.imageOk x
    then some (s.modEntry i fun e => e.withImage x)
    else none))

end Sys2Proof.Machine
end

