-- ==== Sys2Proof/Machine/Ports.lean ====
section
/-! DEFINITION. Where an active command's bytes lie, the SRAM port that exchange writes enter by, and
the operations executed at homes (R218, R225 to R229, R239, R246, R317, R330). -/

namespace Sys2Proof.Machine

/-! ### Where a command's bytes lie -/

/-- The ASID of the commands of a tile. -/
def State.asidOf (s : State) (tile : Nat) : Nat := (s.kernOf tile).asid

/-- An address of a command: source or destination. -/
def XCmd.side (c : XCmd) (dst : Bool) : XAddr := if dst then c.dst else c.src

/-- The translation that a command has made of an address. -/
def State.pageOf (s : State) (tile : Nat) (a : XAct) (va : Nat) : Option Xlate :=
  a.pages.find? fun x => x.covers (s.asidOf tile) va

/-- KEYID and key of a byte under a leaf, where its home forwards it to; a page of type 5 shows an object table (R307,
R314, R331). -/
def State.underLeaf (s : State) (e : BitVec 64) (va : Nat) : Option (Nat × Nat) :=
  match s.physOf e (va % 2 ^ 56) with
  | none => none
  | some k =>
    if pteTT e = 5 then
      let rg := bitsN (keyPa k) 41 6
      some ((s.heapAt rg).key, hbmKey s.own ((s.heapAt rg).otbase + keyPa k % 2 ^ 41))
    else some (s.forwardOf (pteKey e) k)

/-- KEYID and key of byte `off` of a side of an active command, as translated. -/
def State.spot (s : State) (tile : Nat) (a : XAct) (dst : Bool) (off : Nat) : Option (Nat × Nat) :=
  match a.cmd.side dst with
  | .none => none
  | .loc x => some (0, sramKey tile (x + off))
  | .virt va => (s.pageOf tile a (va + off)).bind fun x => s.underLeaf x.leaf (va + off)
  | .obj _ o _ _ =>
    (if dst then a.dstO else a.srcO).map fun ob => (ob.kid, ob.key + o + off)

/-- A request of an active command by its first byte. -/
def XAct.req? (a : XAct) (off : Nat) : Option XReq := a.reqs.find? fun r => r.off == off

/-- Changes a request. -/
def XAct.modReq (a : XAct) (off : Nat) (f : XReq → XReq) : XAct :=
  { a with reqs := a.reqs.map fun r => if r.off = off then f r else r }

/-- Changes a request of a tile. -/
def State.modReq (s : State) (tile no off : Nat) (f : XReq → XReq) : State :=
  s.modAct tile no fun a => a.modReq off f

/-! ### Operations at homes (R246, R247) -/

/-- The places that the pointers of an operation reach: its page, or its object (R247). -/
def State.opPlaces (s : State) (tile : Nat) (a : XAct) (k : Nat) (p : Nat) : Option Nat :=
  match a.cmd.dst with
  | .virt va =>
    match a.pages.find? (fun x => x.covers (s.asidOf tile) va) with
    | none => none
    | some x =>
      let sz := 2 ^ x.log
      let lo := va - va % sz
      if lo ≤ p ∧ p + 8 ≤ lo + sz then some (k - va % sz + (p - lo)) else none
  | .obj _ o _ _ =>
    match a.dstO with
    | none => none
    | some ob => if p + 8 ≤ ob.size then some (k - o + p) else none
  | _ => none

/-- The pointer to the target of an operation. -/
def XAct.target (a : XAct) : Nat :=
  match a.cmd.dst with
  | .virt va => va
  | .obj _ o _ _ => o
  | _ => 0

/-- A write of an operation at its home; a tile's SRAM is not journaled (R208). -/
def State.opWrite (s : State) (tile kid a : Nat) (bs : List PByte) : State :=
  if keyType a = 0 then s.stP (a / 2 ^ 20) (a % 2 ^ 20) bs else s.homeWrite tile kid a bs

/-- What the operation of a command answers at its home: KEYID and key of the target, and the result (R246). -/
def State.opResult? (s : State) (tile no : Nat) : Option (Nat × Nat × OpResult) :=
  match (s.tileAt tile).act? no with
  | none => none
  | some a =>
    match a.cmd.kind, s.spot tile a true 0 with
    | .xop n, some (kid, k) => some (kid, k, s.agentOp n kid k a.target (s.opPlaces tile a k) a.block)
    | _, _ => none

/-- The bytes of its target meet a flip before an operation (R264). -/
def State.opMeets (s : State) (tile no : Nat) : State :=
  match (s.tileAt tile).act? no with
  | none => s
  | some a =>
    match a.cmd.kind, s.spot tile a true 0 with
    | .xop n, some (_, k) =>
      if keyType k = 0 then s.meetFlips (k / 2 ^ 20) (k % 2 ^ 20) (xopSize n) else s
    | _, _ => s

/-- Whether a flip stands in eight bytes of a tile's SRAM. -/
def State.flipAt (s : State) (a : Nat) : Bool :=
  keyType a == 0 && (s.tileAt (a / 2 ^ 20)).flips.any fun f => decide (f.1 < a % 2 ^ 20 + 8) && decide (a % 2 ^ 20 < f.1 + 8)

/-- The nodes that an operation reads meet their flips one after another: one that poisons a node ends it there; k at
most (R247, R358). -/
def State.nodesMeet (s : State) (tile no : Nat) : Nat → State
  | 0 => s
  | k + 1 =>
    match ((s.opResult? tile no).map fun x => x.2.2.reads).bind fun l => l.find? s.flipAt with
    | some a => (s.meetFlips (a / 2 ^ 20) (a % 2 ^ 20) 8).nodesMeet tile no k
    | none => s

/-- Executes the operation of a request at its home as one access (R223, R246). -/
def State.opRun (s : State) (tile no : Nat) : State :=
  let s0 := (s.opMeets tile no).nodesMeet tile no 34
  match s0.opResult? tile no with
  | some (kid, _, r) =>
    (r.writes.foldl (fun s w => s.opWrite tile kid w.1 w.2) s0).modReq tile no 0 fun q =>
      { q with data := r.bytes, phase := .performed }
  | none => s0

/-! ### The SRAM port (R225 to R229) -/

/-- The lines of tile SRAM that an exchange write reaches, as tile, address and length: its target, and for an
operation the node and the tail that it writes beside it (R226, R247). -/
def State.portLines (s : State) (h : HeldWrite) : List (Nat × Nat × Nat) :=
  let own := (h.w.tile, h.w.addr, h.w.data.length)
  match (if h.op then h.src else none) with
  | some (t, no, _) =>
    own :: (((s.opResult? t no).map fun x => x.2.2.writes.filterMap fun w =>
      if keyType w.1 = 0 ∧ linesOf w.1 w.2.length != linesOf (sramKey h.w.tile h.w.addr) h.w.data.length
      then some (w.1 / 2 ^ 20, w.1 % 2 ^ 20, w.2.length) else none).getD [])
  | none => [own]

/-- Whether an exchange write is held for order at its port (R229). -/
def State.portHolds (s : State) (h : HeldWrite) : Bool :=
  (s.portLines h).any fun x =>
    x.1 == h.w.tile && (s.tileAt x.1).holdsWrite x.2.1 x.2.2 h.w.src h.w.kind

/-- Performs an exchange write at its tile's port (R225): the race filter, the replay's entries, the
bytes or the operation. -/
def State.portDo (s : State) (h : HeldWrite) : State :=
  let w := h.w
  let s1 := (s.portLines h).foldl (fun s x => s.modTileAt x.1 fun t =>
    (t.filterWrite x.2.1 x.2.2 w.src w.kind).replayWrite x.2.1 x.2.2 w.src w.kind) s
  if h.op then
    match h.src with
    | some (t, no, _) => s1.opRun t no
    | none => s1
  else s1.stP w.tile w.addr w.data

/-- What a write of another package counts into its remote word (R233, R242). -/
def State.countFar (s : State) (w : RemoteWrite) : State :=
  match w.word with
  | some a => if w.cnt = 0 then s else (s.arrive w.tile a w.cnt (anyP w.data)).1
  | none => s

/-- A write has been performed: its request counts one delivery less, and is written with the last, nothing of it
left to the next request (R222); another package's counts its bytes. -/
def State.released (s : State) (h : HeldWrite) : State :=
  match h.src with
  | none => s.countFar h.w
  | some (t, no, off) =>
    s.modReq t no off fun r =>
      { r with
        wait := r.wait - 1,
        phase := if 1 < r.wait ∨ r.owes ≠ 0 then r.phase else if h.op then .performed else .written }

/-- Retries the held writes in arrival order, k times at most (R229). -/
def State.retryHeld (s : State) (tile : Nat) : Nat → State
  | 0 => s
  | k + 1 =>
    match (s.tileAt tile).heldW.find? (fun h => !s.portHolds h) with
    | none => s
    | some h =>
      let s1 := s.modTileAt tile fun t => { t with heldW := t.heldW.erase h }
      ((s1.portDo h).released h).retryHeld tile k

/-- What a port does with a write: performs it, holds it, or, while 16 are held, takes none of the request channel
(R229). -/
inductive Taken where
  | performed | held | refused
  deriving DecidableEq, Repr

/-- An exchange write arrives at its tile's port (R229). -/
def State.portIn (s : State) (h : HeldWrite) : State × Taken :=
  if h.w.kind ≠ 1 ∧ 16 ≤ (s.tileAt h.w.tile).heldW.length then (s, .refused)
  else if s.portHolds h then
    (s.modTileAt h.w.tile fun t => { t with heldW := t.heldW ++ [h] }, .held)
  else ((s.portDo h).retryHeld h.w.tile 17, .performed)

/-- Whether a request must wait at a tile's port: for a bank to wake, or for the thaw (R196, R359, R380). -/
def State.portWaits (s : State) (tile addr n : Nat) : Bool :=
  (s.tileAt tile).anyWaking addr n || s.portHeld tile

/-- Whether a landing must wait for a bank to wake, or for the thaw of a frozen tile (R196, R359). -/
def State.landWaits (s : State) (tile addr n : Nat) : Bool :=
  (s.tileAt tile).anyWaking addr n || (s.tileAt tile).frozen

/-- Whether a delivery into a tile is dropped: the pool, a gated bank, beyond the SRAM (R233). -/
def State.landDrops (s : State) (tile addr n : Nat) : Bool :=
  decide (poolBase < addr + n) || s.gatedAt tile addr n

/-- Whether the package of a tile is fenced as lost (R365). -/
def State.fenced (s : State) (tile : Nat) : Bool :=
  s.routes.any fun r => r.2.st == 2 && !r.2.kind && r.2.pkg == pkgOfTile tile

/-- A write of another package's tile at a tile's port: what the port does not take yet arrives again. -/
def State.farPort (s : State) (w : RemoteWrite) : State :=
  let n := w.data.length
  if s.landDrops w.tile w.addr n then s
  else if s.portWaits w.tile w.addr n || w.word.any (fun a => s.portWaits w.tile a 16) then
    { s with agenda := s.agenda ++ [.remoteWriteArrival w] }
  else
    match s.portIn { w := w } with
    | (s1, .refused) => { s1 with agenda := s1.agenda ++ [.remoteWriteArrival w] }
    | (s1, .held) => s1
    | (s1, .performed) => s1.countFar w

/-- REMOTE_WRITE_ARRIVAL (R225, R229, R242): an exchange write of another package's tile, which counts into its remote
word once it is performed; at a home outside tile SRAM it waits for a migration's lock and for HBM in self-refresh
(R307, R384). A halted plane's ports take none (R356). -/
def execRemoteWriteArrival (w : RemoteWrite) (s : State) : Host.Outcome State Fault Refusal :=
  .next (if s.plane.halt || s.fenced w.src then s
    else
      match w.home with
      | none => s.farPort w
      | some h =>
        if s.lockedAt h.key || (s.plane.refresh && keyType h.key == 4) then
          { s with agenda := s.agenda ++ [.remoteWriteArrival w] }
        else s.farWrite w.src h w.data)

/-- Entries held after a write of RPTR (R228). -/
def Tile.cntAfter (t : Tile) (r : Nat) : Nat :=
  if t.trcMode = 0 then
    if (t.trcW + 256 - r) % 256 = 0 ∧ t.trcCnt = 256 ∧ r = t.trcR then 256
    else (t.trcW + 256 - r) % 256
  else t.trcCnt - (r + 256 - t.trcR) % 256

/-- TRC_WRITE (R228): MODE 3 and a reserved bit reject the write (R11); DIV, FOV and ROV clear on 1. DESIGN CHOICE
(log 47): writes that replay mode holds stay held when MODE is written away from 2, until a flush or a mode-2
arrival performs them; HOLD reads 0 meanwhile. -/
def execTrcWrite (tile : Nat) (x : Word) (s : State) : Host.Outcome State Fault Refusal :=
  let r := bitsN x.toNat 18 8
  .next (s.answered (if bitsN x.toNat 0 2 = 3 ∨ bitsN x.toNat 34 30 ≠ 0 ∨ bitsN x.toNat 6 3 ≠ 0 then none
    else some (s.modTileAt tile fun t =>
      { t with
        trcR := r, trcCnt := t.cntAfter r, trcMode := bitsN x.toNat 0 2,
        trcDiv := t.trcDiv && !x.getLsbD 5, trcFov := t.trcFov && !x.getLsbD 4,
        trcRov := t.trcRov && !x.getLsbD 3 })))

end Sys2Proof.Machine
end

