-- ==== Sys2Proof/Machine/Engine.lean ====
section
/-! DEFINITION. The exchange engine up to its requests: the start of commands, resolution and
translation, faults, failed commands, the injection of requests (R218, R220, R234, R238 to R240, R242,
R246, R249, R255, R299 to R302, R305, R317, R318, R388). -/

namespace Sys2Proof.Machine

/-- A step that may be due: where it is not, the state stays. -/
def orStay (o : Option State) (s : State) : Host.Outcome State Fault Refusal := .next (o.getD s)

/-- Whether a tile's engine starts commands and sends requests: no park, freeze or halted plane, or a switch of
its group's setting, is asked for (R277, R356, R359, R380). -/
def State.engineGo (s : State) (tile : Nat) : Bool :=
  let t := s.tileAt tile
  t.parkSt == 0 && t.parkWhy == 0 && !t.freezeReq && !s.plane.halt && !s.switching tile

/-- Whether a command waits for its firing outside the active table (R238, R255). -/
def XAct.outside (a : XAct) : Bool := a.cmd.kind == .ctready && (a.nxt != 0 || a.counted != 0)

/-- Commands of the active table. -/
def Tile.active (t : Tile) : Nat := (t.xact.filter (!·.outside)).length

/-- Kinds that read, and kinds that write, a virtual address or an object. -/
def XKind.fromVirt (k : XKind) : Bool :=
  match k with
  | .get | .cpy | .mc | .ld | .ldlq => true
  | _ => false
def XKind.toVirt (k : XKind) : Bool :=
  match k with
  | .put | .cpy | .st | .send | .xop _ => true
  | _ => false

/-- Removes an active command and frees its strand's record where that is due (R180). -/
def State.endCmd (s : State) (tile no ri : Nat) : State :=
  (s.modTileAt tile fun t => { t with xact := t.xact.filter fun a => a.cmd.no != no }).reap tile ri

/-! ### The bytes a command touches (R218) -/

/-- The tiles that a multicast entry names, ascending; none where it is invalid (R243). -/
def State.mcTiles (s : State) (tile entry : Nat) : List Nat :=
  let g := groupOfTile tile
  let e := (s.groupAt g).mcast.val 0 entry
  if e.getLsbD 63 then ((List.range 32).filter e.getLsbD).map fun t => g * 32 + t else []

/-- The translation of an address that a command has made, or that the TLBs or a walk give now. -/
def State.viewOf (s : State) (tile : Nat) (a : XAct) (va : Nat) : Option Xlate :=
  match s.pageOf tile a va with
  | some x => some x
  | none => (s.leafFor tile (s.asidOf tile) va).map (mkXlate (s.asidOf tile) va)

/-- Bytes from byte `off` of a side to the end of its page; objects and local ranges are one piece. -/
def State.runLen (s : State) (tile : Nat) (a : XAct) (dst : Bool) (off : Nat) : Nat :=
  match a.cmd.side dst with
  | .virt va =>
    let sz := match s.viewOf tile a (va + off) with
      | some x => 2 ^ x.log
      | none => 65536
    sz - (va + off) % sz
  | _ => 2 ^ 33

/-- KEYID and key of byte `off` of a side, through the translations made or else those of now. -/
def State.spotNow (s : State) (tile : Nat) (a : XAct) (dst : Bool) (off : Nat) : Option (Nat × Nat) :=
  match a.cmd.side dst with
  | .virt va => (s.viewOf tile a (va + off)).bind fun x => s.underLeaf x.leaf (va + off)
  | _ => s.spot tile a dst off

/-- Keys and lengths of bytes [off, stop) of a side as far as they translate, k pieces at most. -/
def State.spansFrom (s : State) (tile : Nat) (a : XAct) (dst : Bool) (off stop : Nat) :
    Nat → List (Nat × Nat)
  | 0 => []
  | k + 1 =>
    if stop ≤ off then []
    else
      let n := min (stop - off) (s.runLen tile a dst off)
      ((s.spotNow tile a dst off).map fun x => (x.2, n)).toList ++
        s.spansFrom tile a dst (off + n) stop k

/-- The page or object that the pointers of an operation may reach, as key and length (R247). -/
def State.opRange (s : State) (tile : Nat) (a : XAct) : Option (Nat × Nat) :=
  match s.spot tile a true 0 with
  | none => none
  | some (_, k) =>
    match a.cmd.dst with
    | .virt va =>
      (s.pageOf tile a va).map fun x => (k - va % 2 ^ x.log, 2 ^ x.log)
    | .obj _ o _ _ => a.dstO.map fun ob => (k - o, ob.size)
    | _ => none

/-- The bytes that a command touches for bytes [off, stop) of its transfer. -/
def State.touches (s : State) (tile : Nat) (a : XAct) (off stop : Nat) : List (Nat × Nat) :=
  let side (dst : Bool) := s.spansFrom tile a dst off stop ((stop - off) / 65536 + 2)
  match a.cmd.kind, a.cmd.src, a.cmd.dst with
  | .xop n, .loc b, _ =>
    (sramKey tile b, 128) :: (if 5 ≤ n then (s.opRange tile a).toList else side true)
  | .mc, _, .loc x =>
    (s.mcTiles tile a.cmd.arg).map (fun t => (sramKey t (x + off), stop - off)) ++ side false
  | _, _, _ => side false ++ side true

/-- Whether two lists of ranges share a byte. -/
def meets (xs ys : List (Nat × Nat)) : Bool :=
  xs.any fun x => ys.any fun y => decide (x.1 < y.1 + y.2) && decide (y.1 < x.1 + x.2)

/-- Whether two addresses name a common byte by name alone: bytes [i, i + n) and [j, j + m). -/
def addrMeets (x y : XAddr) (i n j m : Nat) : Bool :=
  match x, y with
  | .virt v, .virt w => decide (v + i < w + j + m) && decide (w + j < v + i + n)
  | .obj r o _ _, .obj q p _ _ =>
    sameObj r q && decide (o + i < p + j + m) && decide (p + j < o + i + n)
  | _, _ => false

/-- The first byte of a command that is not yet performed. -/
def XAct.leftFrom (a : XAct) : Nat :=
  (a.reqs.filter fun r => r.phase != .done || r.lost).foldl (fun m r => min m r.off) a.nxt

/-- Whether some byte that a command has still to perform has no place yet: its page is not present, or its object not
resolved. What comes may lie under any byte (R218). -/
def State.unseen (s : State) (tile : Nat) (b : XAct) : Bool :=
  let left := b.leftFrom
  let dark (va : Nat) : Bool :=
    (List.range (((va + left) % 65536 + (b.cmd.len - left) + 65535) / 65536)).any fun i =>
      (s.viewOf tile b (max (va + left) ((va + left) / 65536 * 65536 + 65536 * i))).isNone
  (b.held.isSome || b.lim.isSome) && [false, true].any fun d =>
    match b.cmd.side d with
    | .virt va => dark va
    | .obj _ _ _ _ => (if d then b.dstO else b.srcO).isNone
    | _ => false

/-- Whether an earlier command b of the strand bars an access to some bytes: it touches one of them and has still
to perform it, or is not yet translated (R218, R238). -/
def State.barsBytes (s : State) (tile : Nat) (b : XAct) (xs : List (Nat × Nat)) : Bool :=
  (!b.prep && b.held.isNone && (b.cmd.kind.fromVirt || b.cmd.kind.toVirt)) ||
    meets xs (s.touches tile b b.leftFrom b.cmd.len)

/-- Whether an earlier command b of the strand bars bytes [off, off + n) of a command: where b is held, the
addresses that both name count too (R218). -/
def State.bars (s : State) (tile : Nat) (a b : XAct) (off n : Nat) : Bool :=
  let left := b.leftFrom
  let byName := [a.cmd.src, a.cmd.dst].any fun x => [b.cmd.src, b.cmd.dst].any fun y =>
    addrMeets x y off n left (b.cmd.len - left)
  s.unseen tile b || (b.held.isSome && byName) || s.barsBytes tile b (s.touches tile a off (off + n))

/-- Whether an earlier command b of the strand keeps a later one, which may write, from its next access: an
acquire has still to read (R220), a release awaits it (R219, R220), writes follow one another (R217). -/
def State.keepsBack (s : State) (tile : Nat) (b : XAct) (c : XCmd) (writes : Bool) : Bool :=
  (b.cmd.acq && b.reading) || (c.rel && s.awaits tile c.scp b) || (writes && b.unwritten)

/-- Whether a strand has a local access before a place of its program order that is not yet performed: its own, and the
drains of the strands whose `spawn` it came from (R179). -/
def State.localLeft (s : State) (tile r pos : Nat) : Bool :=
  let st := s.strandAt tile r
  st.localLeft pos || st.elders.any fun e => (s.strandAt tile e.1).drainsBefore e.2

/-- The earlier active commands of a command's strand; a `ctready` accesses nothing. -/
def Tile.earlier (t : Tile) (a : XAct) : List XAct :=
  t.xact.filter fun b => b.cmd.ri == a.cmd.ri && decide (b.cmd.no < a.cmd.no) && b.cmd.kind != .ctready

/-- Whether the order of the strand's accesses lets a request of a command go, which writes or not, for bytes
[off, off + n): behind earlier commands (R217, R218, R220), and behind earlier local accesses where it writes,
releases or touches the own SRAM (R217, R218, R220). -/
def State.orderLets (s : State) (tile : Nat) (a : XAct) (writes : Bool) (off n : Nat) : Bool :=
  (((s.tileAt tile).earlier a).all fun b =>
    !s.keepsBack tile b a.cmd writes && !s.bars tile a b off n) &&
  !(s.localLeft tile a.cmd.ri a.cmd.pos &&
    (writes || a.cmd.rel ||
      (s.touches tile a off (off + n)).any fun x => keyType x.1 == 0 && x.1 / 2 ^ 20 == tile))

/-! ### Commands that end without delivering (R388) -/

/-- The destination of bytes not yet counted, chunk by chunk and page by page: their tile, where they
translate to tile SRAM, and how many (R388). -/
def State.undelivered (s : State) (tile : Nat) (c : XCmd) (off : Nat) :
    Nat → List (Option Nat × Nat)
  | 0 => []
  | k + 1 =>
    if c.len ≤ off then []
    else
      match c.dst with
      | .virt va =>
        let n := min (c.len - off) (min (2048 - off % 2048) (65536 - (va + off) % 65536))
        let t := (s.leafFor tile (s.asidOf tile) (va + off)).bind fun e =>
          if pteTT e = 0 then (s.physOf e ((va + off) % 2 ^ 56)).map fun x => keyPa x / 2 ^ 20
          else none
        (t, n) :: s.undelivered tile c (off + n) k
      | _ => [(none, c.len - off)]

/-- The remote counts of a command that ends undelivered (R388). -/
def State.remoteLeft (s : State) (tile : Nat) (a : XAct) : List (Option Nat × Nat) :=
  if a.cmd.rsw.isNone then []
  else if a.cmd.kind = .mc then
    (s.mcTiles tile a.cmd.arg).map fun t => (some t, a.cmd.len - a.counted)
  else s.undelivered tile a.cmd a.counted ((a.cmd.len - a.counted) / 1024 + 4)

/-- Sets a flag of a command's own sync word. -/
def State.flagOwn (s : State) (tile : Nat) (c : XCmd) (bit : Nat) : State :=
  match c.sw with
  | some w => s.swFlag tile w bit
  | none => s

/-- Counts bytes into a command's own sync word. -/
def State.countOwn (s : State) (tile : Nat) (c : XCmd) (n : Nat) (pois : Bool) : State :=
  match c.sw with
  | some w => (s.arrive tile w n pois).1
  | none => s

/-- Counts bytes into a command's remote word in a tile; a dropped arrival sets ERR in its own word
(R233). -/
def State.countRemote (s : State) (tile : Nat) (c : XCmd) (t n : Nat) (pois : Bool) : State :=
  match c.rsw with
  | none => s
  | some w =>
    let r := s.arrive t w n pois
    if r.2 then r.1.flagOwn tile c 3 else r.1

/-- The remote counts of a command that ends with a flag. -/
def State.countLeft (s : State) (tile : Nat) (a : XAct) (flag : Nat) : State :=
  (s.remoteLeft tile a).foldl (fun s x =>
    match x.1, a.cmd.rsw with
    | some t, some w => (s.countRemote tile a.cmd t x.2 false).swFlag t w flag
    | _, _ => s.flagOwn tile a.cmd 3) s

/-- Takes a command off the waits of every miss table. -/
def State.leaveMisses (s : State) (tile no : Nat) : State :=
  { s with dies := s.dies.mapVals fun _ d =>
      { d with miss := d.miss.mapVals fun _ m => { m with waits := m.waits.erase (tile, no) } } }

/-- The place that a command reserved in a load queue is withdrawn. DESIGN CHOICE (log 35): R388 does not say what
becomes of the place of a failed `xld.lq`, so no value ever lands there. -/
def Tile.unplace (t : Tile) (r no : Nat) : Tile := t.mapPlaces r fun q => q.filter (· != .land no)

/-- The landing slots of some requests of a command return (R249). -/
def State.freeSlots (s : State) (tile no : Nat) (p : XReq → Bool) : State :=
  match (s.tileAt tile).act? no with
  | none => s
  | some a =>
    let ks := (a.reqs.filter p).filterMap (·.cls)
    s.modTileAt tile fun t =>
      { t.modAct no (fun a => { a with reqs := a.reqs.map fun r => if p r then { r with cls := none } else r }) with
        land := ks.foldl (fun l k => l.put k (l.val 0 k - 1)) t.land }

/-- A command that has ended leaves the table once its requests in flight have come to rest (R389). -/
def State.leaveCmd (s : State) (tile no : Nat) : State :=
  match (s.tileAt tile).act? no with
  | none => s
  | some a =>
    if a.reqs.all (·.atRest) then (s.freeSlots tile no fun _ => true).endCmd tile no a.cmd.ri
    else (s.freeSlots tile no (·.atRest)).modAct tile no fun a =>
      { a with
        ended := true, counted := a.cmd.len, nxt := a.cmd.len, wnxt := a.cmd.len, held := none,
        walking := false, replay := false, evict := none, prep := true, checked := true, lim := none,
        reqs := a.reqs.filter (!·.atRest) }

/-- Ends a command without delivering the rest (R388): flag 2 is STALE, 3 is ERR. What it had sent is still
performed (R389). -/
def State.failCmd (s : State) (tile no flag : Nat) : State :=
  match (s.tileAt tile).act? no with
  | none => s
  | some a =>
    let c := a.cmd
    let n := if c.kind.isXop then 8 else c.len - a.counted
    let s1 := if a.held.isSome then s.heldCount tile c false else s
    let s2 := (s1.countOwn tile c (n + a.relCnt) a.relPois).flagOwn tile c flag
    let s3 := a.relRem.foldl (fun s x => s.countRemote tile c x.1 x.2.1 x.2.2) s2
    let s4 := s3.countLeft tile a flag
    let s5 := (s4.leaveMisses tile no).modTileAt tile fun t => t.unplace c.ri no
    s5.leaveCmd tile no

/-! ### Starting commands (R238, R234, R246, R255) -/

/-- Writes a register of a command's strand. -/
def State.putReg (s : State) (tile : Nat) (c : XCmd) (x : Word) (p : Bool) : State :=
  match c.d with
  | some d => s.modTileAt tile fun t => t.lateG c.ri d x p
  | none => s

/-- `swset` at the SRAM port (R234); the engine keeps the reserved bits. -/
def State.swSet (s : State) (tile addr : Nat) (setGen : Bool) (x : Nat) : State :=
  let y := s.ldNum tile (addr + 8) 8
  let y1 := if setGen then y / 2 ^ 32 * 2 ^ 32 + bitsN x 32 32 else y
  let y2 := y1 - bitsN y1 32 4 * 2 ^ 32 - bitsN y1 40 8 * 2 ^ 40
  (s.stNum tile addr 8 (x % 2 ^ 32) false).stNum tile (addr + 8) 8 y2 (s.ldPois tile (addr + 8) 8)

/-- The word that `swget` reads (R234). -/
def State.swRead (s : State) (tile addr : Nat) (hi : Bool) : Word :=
  let x := s.ldNum tile addr 16
  BitVec.ofNat 64 (if hi then bitsN x 96 32 * 2 ^ 32 + bitsN x 0 32 else
    bitsN x 64 32 * 2 ^ 32 + bitsN x 32 32)

/-- A command enters the active table at its restart point. -/
def State.activate (s : State) (tile : Nat) (c : XCmd) (block : List PByte) : State :=
  s.modTileAt tile fun t =>
    { t with xact := t.xact ++ [{ cmd := c, counted := c.from0, nxt := c.from0, wnxt := c.from0,
                                  block := block }] }

/-- The start of an operation (R246): the block is read; a poisoned one ends it at once. -/
def State.startXop (s : State) (tile b : Nat) (c : XCmd) : State :=
  let s1 := s.meetFlips tile b 128
  let blk := s1.rdP 0 (sramKey tile b) 128
  if anyP blk then (s1.stNum tile b 8 5 false).countOwn tile c 8 false
  else s1.activate tile c blk

/-- The effect of starting a command. -/
def State.startCmd (s : State) (tile : Nat) (c : XCmd) : State :=
  match c.kind, c.src with
  | .swset g, _ => s.swSet tile (c.sw.getD 0) g c.arg
  | .swget hi, _ =>
    let s1 := s.meetFlips tile (c.sw.getD 0) 16
    s1.putReg tile c (s1.swRead tile (c.sw.getD 0) hi) (s1.ldPois tile (c.sw.getD 0) 16)
  | .ctarm st, _ =>
    s.modEntry c.arg fun e =>
      { e with armed := c.sw.map fun a => (tile, a, (s.tileAt tile).kernel.getD 0),
               stamp := if st then (c.ops.getD 2 0).truncate 32 else e.stamp }
  | .ctstat, _ => s.putReg tile c (s.entryAt c.arg).word false
  | .ctready, _ => s.activate tile c []
  | .xop _, .loc b => s.startXop tile b c
  | _, _ => if c.len = 0 then s else s.activate tile c []

/-- The local bytes that a command reads or writes at its start. -/
def XCmd.startBytes (c : XCmd) : Option (Nat × Nat) :=
  match c.kind, c.src with
  | .swset _, _ => c.sw.map fun a => (a, 16)
  | .swget _, _ => c.sw.map fun a => (a, 16)
  | .xop _, .loc b => some (b, 128)
  | _, _ => none

/-- Whether a command writes at its start. -/
def XKind.startWrites (k : XKind) : Bool :=
  match k with
  | .swset _ => true
  | _ => false

/-- Whether the head of a strand's exchange queue can start: the bytes it touches at its start are awake, the
local accesses before it are performed (R218), and no earlier command keeps it back or has still to touch
those bytes (R196, R217, R220, R238). -/
def State.headReady (s : State) (tile : Nat) (st : Strand) : Bool :=
  match st.xq with
  | [] => false
  | c :: _ =>
    match c.startBytes with
    | none => true
    | some (b, n) =>
      !s.landWaits tile b n && !s.localLeft tile c.ri c.pos &&
        ((s.tileAt tile).earlier { cmd := c }).all fun e =>
          !s.keepsBack tile e c c.kind.startWrites && !s.barsBytes tile e [(sramKey tile b, n)]

/-- The next start of a tile's engine, if one is due (R238). -/
def State.startX? (s : State) (tile : Nat) : Option State :=
  let t := s.tileAt tile
  let cs := t.strands.filter fun p => s.headReady tile p.2
  if !s.engineGo tile || decide (16 ≤ t.active) then none
  else
    match leastRecent t.xlast (fun st => st.slot.getD 8) cs with
    | none => none
    | some (r, st) =>
      match st.xq with
      | [] => none
      | c :: rest =>
        let s1 := s.modTileAt tile fun t =>
          { t.modStrand r (fun st => { st with xq := rest }) with
            xlast := (t.xlast.filter (· != r)) ++ [r] }
        some ((s1.startCmd tile c).reap tile r)

/-- EXCHANGE_COMMAND_START (R238). -/
def execExchangeCommandStart (tile : Nat) (s : State) : Host.Outcome State Fault Refusal :=
  orStay (s.startX? tile) s

/-! ### Resolution of an object (R317, R318) -/

/-- What the resolution of a command's object finds. -/
inductive Lookup where
  | ok (s : State)
  | wait
  | bad (s : State) (r : FaultRec)
  deriving DecidableEq, Repr

/-- ACC of a fault on a side of a command (R302). -/
def XCmd.acc (c : XCmd) (dst : Bool) : Nat := if c.kind.isXop then 2 else b2n dst

/-- The record of a heap fault (R317). -/
def State.heapFault (s : State) (tile : Nat) (c : XCmd) (dst : Bool) (ref : Word) (cause sub : Nat) :
    FaultRec :=
  { asid := (s.heapAt (refRg ref)).asid, ref := some (BitVec.ofNat 64 (ref.toNat % 2 ^ 60)),
    cause := cause, sub := sub, acc := c.acc dst, lvl := 7, tile := tile }

/-- Heals after a resolution (R318): the register, and the heal-back word. -/
def State.healed (s : State) (tile : Nat) (c : XCmd) (ref : Word) (reg : Nat) (hb : Option Nat) (new : Word) :
    State :=
  let s1 := s.modStrandAt tile c.ri fun st => st.heal reg ref new
  match hb with
  | some x => s1.healBack tile x ref new
  | none => s1

/-- Resolves the object of a side of a command, heals and checks it, in the order of R317 (R317, R318). -/
def State.lookUp (s : State) (tile : Nat) (a : XAct) (dst : Bool) : Lookup :=
  match a.cmd.side dst with
  | .obj ref off reg hb =>
    let bad (s : State) (c sub : Nat) : Lookup := .bad s (s.heapFault tile a.cmd dst ref c sub)
    match s.resolve (s.openTo tile) ref with
    | .wait => .wait
    | .bad c sub => bad s c sub
    | .ok r e =>
      if (hb.map fun x => s.landWaits tile x 8).getD false then .wait
      else
        let h := s.heapAt (refRg r)
        let s1 := s.healed tile a.cmd ref reg hb r
        if !s.holdsKey (s.asidOf tile) h.key then bad s1 2 2
        else if refK ref && dst then bad s1 2 1
        else if e.size < off + a.cmd.len then bad s1 3 0
        else if a.cmd.kind = .mc then bad s1 4 5
        else
          let ob : XObj := { ref := r, key := s.copyKey e.w1, size := e.size, kid := h.key }
          .ok (s1.modAct tile a.cmd.no fun a =>
            if dst then { a with dstO := some ob } else { a with srcO := some ob })
  | _ => .ok s

/-! ### Translation (R240, R299, R300) -/

/-- Whether a virtual range is wholly canonical and does not pass 2^64 (R240 cause 3). -/
def spanOk (va n : Nat) : Bool :=
  canonical va && canonical (va + n - 1) && decide (va < 2 ^ 55) == decide (va + n - 1 < 2 ^ 55)

/-- The tile whose memory a key of tile SRAM or of an instruction store names. -/
def tileOfKey (k : Nat) : Option Nat :=
  if keyType k = 0 ∨ keyType k = 6 then some (keyPa k / 2 ^ 20) else none

/-- The evicted tile that an access of a tile to a key reaches, if any (R281): the frames of a tile that
its context has lost to another kernel are not present for that context. -/
def State.evictedAt (s : State) (tile k : Nat) : Option Nat :=
  (tileOfKey k).filter fun t => (s.tileAt t).kernel != (s.tileAt tile).kernel &&
    s.saves.any fun x => x.tile == t && (s.kernAt x.kernel).asid == s.asidOf tile

/-- Whether bytes of a tile's SRAM are protected from a tile (R240 cause 5): the pool from a tenant, a
gated bank from all. -/
def State.protected_ (s : State) (tile k n : Nat) : Bool :=
  let t := keyPa k / 2 ^ 20
  let off := keyPa k % 2 ^ 20
  keyType k == 0 &&
    ((!(s.kernOf tile).sup && decide (poolBase < off + n)) ||
      s.gatedAt t off n)

/-- Cause and subcause with which bytes [va, va + n) of one page fault under a leaf (R240, R299). -/
def State.leafFault (s : State) (tile : Nat) (c : XCmd) (dst : Bool) (e : BitVec 64) (va n : Nat) :
    Option (Nat × Nat) :=
  let tt := pteTT e
  let x := c.kind.isXop
  if !s.holdsKey (s.asidOf tile) (pteKey e) then some (2, 2)
  else if (!dst || x) && !pteR e then some (2, 0)
  else if dst && (!pteW e || (tt == 5 && !x) || (tt == 6 && !x && !pteX e)) then some (2, 1)
  else
    match s.physOf e (va % 2 ^ 56) with
    | none => some (4, 0)
    | some k =>
      if x ∧ 5 ≤ tt then some (4, 6)
      else if tt = 6 ∧ (!dst ∨ va % 64 ≠ 0 ∨ n % 64 ≠ 0) then some (4, 4)
      else if c.kind = .mc ∧
          !(decide (tt ≤ 1) && levelOfKey tile k ≤ 2) then some (4, 5)
      else if s.protected_ tile k n then some (5, 0)
      else if !s.reaches (pkgOfKey k) then some (7, 0)
      else none

/-- LVL of a check that fails under a leaf (R300, R302; log 14): the permission checks of R299 narrow the
entry to the level at which the walk stopped, that of the leaf; the others are found by no walk. -/
def checkLvl (cause : Nat) (e : BitVec 64) : Nat := if cause = 2 then ptePS e - 1 else 7

/-- What the translation of a side finds: all of it, a walk to make, a fault at an address, a page of an
evicted tile. -/
inductive Scan where
  | all
  | walk (va : Nat)
  | fault (va cause sub lvl : Nat)
  | away (va tile : Nat)
  deriving DecidableEq, Repr

/-- Translates the pages of [va, stop) of a side in ascending order, k pages at most (R240). -/
def State.scan (s : State) (tile no : Nat) (dst : Bool) (va stop : Nat) : Nat → State × Scan
  | 0 => (s, .all)
  | k + 1 =>
    match (s.tileAt tile).act? no with
    | none => (s, .all)
    | some a =>
      if stop ≤ va then (s, .all)
      else
        let asid := s.asidOf tile
        let known := s.pageOf tile a va
        let (x, s1) := if known.isSome then (known, s) else s.tlbLookup tile asid va
        match x with
        | none => (s1, .walk va)
        | some x =>
          let s2 := if known.isSome then s1
            else s1.modAct tile no fun a => { a with pages := a.pages ++ [x] }
          let n := min (stop - va) (2 ^ x.log - va % 2 ^ x.log)
          match (s2.physOf x.leaf (va % 2 ^ 56)).bind (s2.evictedAt tile) with
          | some t => (s2, .away va t)
          | none =>
            match s2.leafFault tile a.cmd dst x.leaf va n with
            | some (c, sub) => (s2, .fault va c sub (checkLvl c x.leaf))
            | none => s2.scan tile no dst (va + n) stop k

/-- Whether a command still has its stamp to check (R242). -/
def XAct.stampLeft (a : XAct) : Bool := a.cmd.gen && !a.checked && a.counted == 0

/-- The virtual range of a side that has still to be performed, the stamp word included, up to the chunk at which a
fault stands. -/
def XAct.range (a : XAct) (dst : Bool) : Option (Nat × Nat) :=
  match a.cmd.side dst with
  | .virt va =>
    some (if a.stampLeft && !dst then va - 8 else va + a.counted, va + a.lim.getD a.cmd.len)
  | _ => none

/-- Whether a side's virtual range is bad (R240 cause 3). -/
def XAct.rangeBad (a : XAct) (dst : Bool) : Bool :=
  match a.cmd.side dst with
  | .virt va =>
    if a.stampLeft && !dst then decide (va < 8) || !spanOk (va - 8) (a.cmd.len + 8)
    else !spanOk va a.cmd.len
  | _ => false

/-- The scan of a side. -/
def State.scanSide (s : State) (tile no : Nat) (a : XAct) (dst : Bool) : State × Scan :=
  match a.range dst with
  | some (lo, hi) => s.scan tile no dst lo hi ((hi - lo) / 65536 + 2)
  | none => (s, .all)

/-- The first byte of the chunk of an address of a side: the fault of causes 1, 2 and 7 stands there
(R240). -/
def XAct.chunkOf (a : XAct) (dst : Bool) (va : Nat) : Nat :=
  match a.cmd.side dst with
  | .virt base => max a.counted ((va - base) / 2048 * 2048)
  | _ => a.counted

/-- The record of a fault that a check finds (R302). -/
def State.faultRec (s : State) (tile : Nat) (c : XCmd) (dst : Bool) (va cause sub lvl : Nat) : FaultRec :=
  { asid := s.asidOf tile, va := faultVa lvl va, cause := cause, sub := sub, acc := c.acc dst, lvl := lvl,
    tile := tile }

/-- A command meets a fault: it is held, or fails where a replay asks for that (R300, R305). Where the
miss table is full it waits. -/
def State.meetFault? (s : State) (tile no : Nat) (r : FaultRec) (stop : Nat) : Option State :=
  match (s.tileAt tile).act? no with
  | none => none
  | some a =>
    if a.failing then some (s.failCmd tile no 3)
    else
      match s.enterFault tile no r stop with
      | (s1, true) => some s1
      | (_, false) => none

/-- A fault stands at byte `stop` of a command that has chunks before it still to send: these go first (R240). -/
def XAct.ahead (a : XAct) (stop : Nat) : Bool := !a.failing && decide (a.nxt < stop)

/-- Sends a command's chunks before byte `stop`, where a fault stands (R240). -/
def State.sendBefore (s : State) (tile no stop : Nat) : State :=
  s.modAct tile no fun a => { a with lim := some stop, walking := false, prep := false }

/-- A command misses the TLBs (R300): it joins the entry that stands for the miss, or starts a walk; where the entry
is a fault's, the chunks before it go first (R240). -/
def State.startWalk? (s : State) (tile no va stop counted : Nat) (failing : Bool) : Option State :=
  let d := dieOfTile tile
  let asid := s.asidOf tile
  let waiting (s : State) : State := s.modAct tile no fun a => { a with walking := true, stop := stop }
  match (s.dieAt d).miss.find? (fun p => p.2.stands asid va) with
  | some (i, m) =>
    match m.fault with
    | none => some (waiting (s.joinMiss d i (tile, no)))
    | some r =>
      let at_ := if r.cause = 4 then counted else stop
      if failing then some (s.failCmd tile no 3)
      else if (((s.tileAt tile).act? no).map fun a => a.ahead at_) = some true then some (s.sendBefore tile no at_)
      else some ((s.joinMiss d i (tile, no)).holdAct tile no r at_)
  | none =>
    match (s.dieAt d).freeMiss with
    | none => none
    | some i =>
      some (waiting (s.modDie d fun di =>
        { di with miss := di.miss.put i { asid := asid, va := va % 2 ^ 56, waits := [(tile, no)] } }))

/-- Whether a fault is found before any byte moves: causes 3 to 6 (R240). -/
def Scan.whole (x : Scan) : Bool :=
  match x with
  | .fault _ c _ _ => decide (3 ≤ c ∧ c ≤ 6)
  | _ => false

/-- Where a fault of causes 1, 2 or 7 stands; past every byte where there is none. -/
def Scan.stand (x : Scan) (a : XAct) (dst : Bool) : Nat :=
  match x with
  | .fault va _ _ _ => a.chunkOf dst va
  | .away va _ => a.chunkOf dst va
  | _ => 2 ^ 33

/-- What a command does with what a side's scan found: where a fault of causes 1, 2 or 7 stands behind chunks that can
go, these go first (R240). -/
def State.scanned? (s : State) (tile no : Nat) (a : XAct) (dst : Bool) (x : Scan) : Option State :=
  match x with
  | .all => some (s.modAct tile no fun a => { a with prep := true, failing := false })
  | .walk va => s.startWalk? tile no va (a.chunkOf dst va) a.counted a.failing
  | .fault va c sub lvl =>
    if !x.whole && a.ahead (a.chunkOf dst va) then some (s.sendBefore tile no (a.chunkOf dst va))
    else s.meetFault? tile no (s.faultRec tile a.cmd dst va c sub lvl)
      (if x.whole then a.counted else a.chunkOf dst va)
  | .away va t =>
    if a.ahead (a.chunkOf dst va) then some (s.sendBefore tile no (a.chunkOf dst va))
    else some ((s.holdAct tile no (s.faultRec tile a.cmd dst va 1 0 7) (a.chunkOf dst va)).modAct tile no
      fun a => { a with evict := some t })

/-- Translates both sides of a command (R240): a fault that leaves no partial effect goes first, then
the one that stands lowest. -/
def State.translate? (s : State) (tile no : Nat) (a : XAct) : Option State :=
  let (s1, x) := s.scanSide tile no a false
  match x with
  | .walk _ => s1.scanned? tile no a false x
  | _ =>
    let (s2, y) := s1.scanSide tile no a true
    match y with
    | .walk _ => s2.scanned? tile no a true y
    | _ =>
      if x.whole then s2.scanned? tile no a false x
      else if y.whole then s2.scanned? tile no a true y
      else if x.stand a false ≤ y.stand a true then s2.scanned? tile no a false x
      else s2.scanned? tile no a true y

/-- Prepares a command from its restart point: ranges, objects, translations (R240, R299, R317). -/
def State.prepare? (s : State) (tile no : Nat) (a : XAct) : Option State :=
  if a.rangeBad false then
    s.meetFault? tile no (s.faultRec tile a.cmd false ((a.range false).getD (0, 0)).1 3 0 7) a.counted
  else if a.rangeBad true then
    s.meetFault? tile no (s.faultRec tile a.cmd true ((a.range true).getD (0, 0)).1 3 0 7) a.counted
  else
    match s.lookUp tile a false with
    | .wait => none
    | .bad s1 r => s1.meetFault? tile no r a.counted
    | .ok s1 =>
      match s1.lookUp tile a true with
      | .wait => none
      | .bad s2 r => s2.meetFault? tile no r a.counted
      | .ok s2 => s2.translate? tile no a

/-! ### Injection (R218, R239, R242, R249, R255) -/

/-- Where the stamp of a `.gen` command lies: KEYID and key (R242). -/
def State.stampSpot (s : State) (tile : Nat) (a : XAct) : Option (Nat × Nat) :=
  match a.cmd.src with
  | .loc x => some (0, sramKey tile (x - 8))
  | .virt va => (s.pageOf tile a (va - 8)).bind fun x => s.underLeaf x.leaf (va - 8)
  | _ => none

/-- Whether bytes at a home must wait: a page that moves, a bank that wakes (R196, R307). -/
def State.homeWaits (s : State) (k n : Nat) : Bool :=
  s.lockedAt k || (keyType k == 0 && s.portWaits (k / 2 ^ 20) (k % 2 ^ 20) n)

/-- The stamp check of a `.gen` command (R242, R388). -/
def State.stampCheck? (s : State) (tile no : Nat) (a : XAct) : Option State :=
  match s.stampSpot tile a with
  | none => none
  | some (kid, k) =>
    if s.homeWaits k 8 || ((s.tileAt tile).earlier a).any (fun b =>
        s.keepsBack tile b a.cmd false || s.barsBytes tile b [(k, 8)]) ||
        (s.localLeft tile a.cmd.ri a.cmd.pos &&
          (a.cmd.rel || (keyType k == 0 && k / 2 ^ 20 == tile))) then none
    else
      let s1 := if keyType k = 0 then s.meetFlips (k / 2 ^ 20) (k % 2 ^ 20) 8 else s
      if s1.rdNum kid k 4 = a.cmd.arg then some (s1.modAct tile no fun a => { a with checked := true })
      else
        some ((s1.failCmd tile no 2).addCond a.cmd.scp (s1.domOf a.cmd.scp tile) 0x41 tile)

/-- Bytes from a byte of a side to the next 128-byte boundary of its address (R239). -/
def XCmd.toLine (c : XCmd) (dst : Bool) (off : Nat) : Nat :=
  match c.side dst with
  | .virt va => 128 - (va + off) % 128
  | .obj _ o _ _ => 128 - (o + off) % 128
  | _ => 128

/-- Bytes of the next request, at the side that it reads or writes at its home (R239, R299): to the end of its chunk, or
to the next 128-byte boundary of its virtual address. -/
def XAct.pieceLen (a : XAct) : Nat :=
  let left := a.cmd.len - a.nxt
  let chunk := min (2048 - a.nxt % 2048) left
  match a.cmd.kind with
  | .put | .st | .send => min (a.cmd.toLine true a.nxt) chunk
  | .xop _ => left
  | _ => min (a.cmd.toLine false a.nxt) chunk

/-- The bytes of an aligned 8 bytes that remain from key x on, of m bytes at most (R222). -/
def cellRest (x m : Nat) : Nat := min ((8 - x % 8) % 8) m

/-- What a request for bytes [off, off + n) reads at key x: bytes that were read together with those before them stay as
they were read (R222). -/
def State.readCut (s : State) (a : XAct) (off n kid x : Nat) : List PByte :=
  let f := (((a.frags.find? fun f => f.1 == off).map (·.2)).getD []).take n
  f ++ s.rdP kid (x + f.length) (n - f.length)

/-- The bytes behind those of a request that share an aligned 8 bytes with them: they are read with it (R222). -/
def State.fragsAfter (s : State) (a : XAct) (off n kid x : Nat) : List (Nat × List PByte) :=
  let m := cellRest (x + n) (a.cmd.len - (off + n))
  if m = 0 then [] else [(off + n, s.rdP kid (x + n) m)]

/-- Where the local source of a `xput` or `xst` lies. -/
def XAct.source? (a : XAct) : Option Nat :=
  match a.cmd.kind, a.cmd.src with
  | .put, .loc x => some x
  | .st, .loc x => some x
  | _, _ => none

/-- The data that a request carries: the local source or the packet's words. -/
def State.carried (s : State) (tile : Nat) (a : XAct) (n : Nat) : List PByte :=
  match a.source? with
  | some x => s.readCut a a.nxt n 0 (sramKey tile (x + a.nxt))
  | none => if a.cmd.kind = .send then (a.cmd.words.drop a.nxt).take n else []

/-- Whether a request awaits data and so takes a landing slot (R249). -/
def XKind.lands (k : XKind) : Bool :=
  match k with
  | .get | .cpy | .ld | .ldlq | .xop _ => true
  | _ => false

/-- The landing-slot class of a request, by where its home lies (R249). -/
def State.slotClass (s : State) (tile : Nat) (a : XAct) : Option Nat :=
  if a.cmd.kind.lands then
    (s.spot tile a a.cmd.kind.isXop a.nxt).map fun x => landClass tile x.2
  else none

/-- Whether both sides of a command are known at its next byte. -/
def State.sidesKnown (s : State) (tile : Nat) (a : XAct) : Bool :=
  [false, true].all fun d => a.cmd.side d == .none || (s.spot tile a d a.nxt).isSome

/-- The bytes of a command that stand in the engine from byte `off` on, without a gap: what its reads have
brought, in order (R222, R242). -/
def XAct.inBuffer (a : XAct) (off : Nat) : Nat → List PByte
  | 0 => []
  | k + 1 =>
    match a.reqs.find? fun r => r.phase == .buffered && decide (r.off ≤ off) && decide (off < r.off + r.len) with
    | none => []
    | some r => r.data.drop (off - r.off) ++ a.inBuffer (r.off + r.len) k

/-- Whether a copy has still to read one of n bytes that it is about to write (R242). -/
def State.copyWaits (s : State) (tile : Nat) (a : XAct) (k n : Nat) : Bool :=
  let first := (a.reqs.filter fun r => r.coming && r.data.isEmpty).foldl (fun m r => min m r.off) a.nxt
  meets [(k, n)] (s.spansFrom tile a false first a.cmd.len ((a.cmd.len - first) / 65536 + 2))

/-- The next write of a copy out of its buffer, if it can go: whole to the next 128-byte boundary of the
destination or to the end of the chunk (R230, R239, R242). -/
def State.sendOut? (s : State) (tile no : Nat) (a : XAct) : Option State :=
  let n := min (a.cmd.toLine true a.wnxt) (min (2048 - a.wnxt % 2048) (a.cmd.len - a.wnxt))
  let bs := (a.inBuffer a.wnxt 129).take n
  if a.cmd.kind ≠ .cpy ∨ n = 0 ∨ bs.length < n then none
  else
    match s.spot tile a true a.wnxt with
    | none => none
    | some (_, k) =>
      if s.copyWaits tile a k n || !s.orderLets tile a true a.wnxt n then none
      else
        let keep (r : XReq) : Bool := r.phase != .buffered || decide (a.wnxt + n < r.off + r.len)
        let cut (r : XReq) : XReq :=
          if r.phase = .buffered ∧ r.off < a.wnxt + n then
            { r with off := a.wnxt + n, len := r.off + r.len - (a.wnxt + n),
                     data := r.data.drop (a.wnxt + n - r.off) }
          else r
        some (s.modTileAt tile fun t =>
          { t.modAct no (fun a =>
              { a with
                reqs := (a.reqs.filter keep).map cut ++
                  [{ off := a.wnxt, len := n, seq := t.xseq, data := bs }],
                wnxt := a.wnxt + n }) with
            xseq := t.xseq + 1 })

/-- The next request of a prepared command, if it can go (R218, R239, R249). -/
def State.inject? (s : State) (tile no : Nat) (a : XAct) : Option State :=
  if a.cmd.len ≤ a.nxt then none
  else if a.stampLeft then s.stampCheck? tile no a
  else
    let n := a.pieceLen
    let writes := a.cmd.kind.writes && a.cmd.kind != .cpy
    let cls := s.slotClass tile a
    let full := (cls.map fun k => decide (8 ≤ (s.tileAt tile).land.val 0 k)).getD false
    let asleep := (a.source?.map fun x => s.landWaits tile (x + a.nxt) n).getD false
    if full || asleep || !s.sidesKnown tile a || !s.orderLets tile a writes a.nxt n then none
    else
      let s1 := (a.source?.map fun x => s.meetFlips tile (x + a.nxt) n).getD s
      let fs := (a.source?.map fun x => s1.fragsAfter a a.nxt n 0 (sramKey tile (x + a.nxt))).getD []
      let r : XReq :=
        { off := a.nxt, len := n, seq := (s1.tileAt tile).xseq, data := s1.carried tile a n, cls := cls }
      some (s1.modTileAt tile fun t =>
        { t.modAct no (fun a => { a with reqs := a.reqs ++ [r], nxt := a.nxt + n, frags := a.frags ++ fs }) with
          xseq := t.xseq + 1,
          land := match cls with
            | some k => t.land.put k (t.land.val 0 k + 1)
            | none => t.land })

/-- Counts a `ctready` once every earlier access of its strand has been performed (R255). -/
def State.ready? (s : State) (tile no : Nat) (a : XAct) : Option State :=
  if a.nxt ≠ 0 ∨ a.counted ≠ 0 ∨ !((s.tileAt tile).earlier a).isEmpty ∨
      s.localLeft tile a.cmd.ri a.cmd.pos then none
  else
    let s1 := s.countReady tile no
    if (((s1.tileAt tile).act? no).map (·.nxt)).getD 0 = 0 then none else some (s1.fire a.cmd.arg)

/-- Whether a command has sent all that goes before a fault that was found ahead (R240). -/
def XAct.atLim (a : XAct) : Bool :=
  a.lim.any fun m => decide (m ≤ a.nxt) && (a.cmd.kind != .cpy || decide (m ≤ a.wnxt))

/-- The next step of an active command in its engine. -/
def State.engine? (s : State) (tile no : Nat) : Option State :=
  match (s.tileAt tile).act? no with
  | none => none
  | some a =>
    if !s.engineGo tile || a.replay || a.walking || a.redir || a.held.isSome || a.ended then none
    else if a.cmd.kind = .ctready then s.ready? tile no a
    else if a.atLim then some (s.modAct tile no fun a => { a with lim := none, prep := false })
    else if !a.prep then s.prepare? tile no a
    else
      match s.sendOut? tile no a with
      | some s1 => some s1
      | none => if a.lim = some a.nxt then none else s.inject? tile no a

/-- REQUEST_INJECT (R239, R249): the command is prepared, or its next request is sent. -/
def execRequestInject (tile no : Nat) (s : State) : Host.Outcome State Fault Refusal :=
  orStay (s.engine? tile no) s

end Sys2Proof.Machine
end

