-- ==== Sys2Proof/Machine/Access.lean ====
section
/-! DEFINITION. Requests at their homes and back: home accesses, operations, multicast, landings,
acknowledgements, chunks, redirects, page walks and replays (R208, R218, R219, R225, R239 to R249, R298 to
R302, R305, R307, R331). -/

namespace Sys2Proof.Machine

/-! ### Requests on their way (R248) -/

/-- Whether a request of a copy carries its data to the destination. -/
def XReq.second (r : XReq) (k : XKind) : Bool := k == .cpy && !r.data.isEmpty

/-- The byte that a request goes to: KEYID and key. -/
def State.goal (s : State) (tile : Nat) (a : XAct) (r : XReq) : Option (Nat × Nat) :=
  match a.cmd.kind with
  | .cpy => s.spot tile a (r.second .cpy) r.off
  | k => s.spot tile a k.toVirt r.off

/-- Whether a request waits behind a migration that has not committed (R307). -/
def State.atLock (s : State) (tile : Nat) (a : XAct) (r : XReq) : Bool :=
  r.phase == .queued && ((s.goal tile a r).map fun g => s.lockedAt g.2).getD false

/-- Whether a request is the next at its home: one that a migration has forwarded there comes in the order of its queue,
any other is behind every forwarded one and is the first of those that its tile sent there (R248, R307). -/
def State.nextAtHome (s : State) (tile : Nat) (r : XReq) (home : Nat) : Bool :=
  s.tiles.all fun p => p.2.xact.all fun b => b.reqs.all fun q =>
    !q.coming || s.atLock p.1 b q || ((s.goal p.1 b q).map fun g => homeOf g.2) != some home ||
      (if r.phase == .queued then q.phase != .queued || decide (r.qno ≤ q.qno)
       else q.phase != .queued && (p.1 != tile || decide (r.seq ≤ q.seq)))

/-- The next place in the queues of migrations (R307). -/
def State.nextQno (s : State) : Nat :=
  s.tiles.foldl (fun m p => p.2.xact.foldl (fun m b => b.reqs.foldl (fun m q =>
    if q.phase = .queued then max m (q.qno + 1) else m) m) m) 0

/-- The requests of a command that have left bytes to the one at byte `off`: aligned 8 bytes that their end cuts
(R222). -/
def XAct.owed (a : XAct) (off : Nat) : List XReq :=
  a.reqs.filter fun p => p.owes != 0 && decide (p.off + p.len ≤ off) && decide (off < p.off + p.len + 8)

/-- A request ends without being performed, its slot free; those that have left bytes to it are to be performed again
too. -/
def State.dropReq (s : State) (tile no off : Nat) : State :=
  (s.freeSlots tile no (·.off == off)).modAct tile no fun a =>
    let lose := (a.owed off).map (·.off)
    { a with reqs := a.reqs.map fun r =>
        if r.off = off then { r with phase := .done, lost := true, cnt := 0 }
        else if lose.contains r.off then { r with phase := .done, lost := true, cnt := 0, owes := 0 }
        else r }

/-- A request that finds its home away (R240 cause 7, R281): the command is held at its chunk; one that a fault
holds already stays there, the request lost. -/
def State.homeAway? (s : State) (tile no : Nat) (a : XAct) (r : XReq) (k : Nat) : Option State :=
  let dst := if a.cmd.kind = .cpy then r.second .cpy else a.cmd.kind.toVirt
  let va := match a.cmd.side dst with
    | .virt va => va + r.off
    | _ => 0
  let stop := max a.counted (r.off / 2048 * 2048)
  if a.held.isSome then
    some ((s.dropReq tile no r.off).modAct tile no fun a => { a with stop := min a.stop stop })
  else
  match s.evictedAt tile k with
  | some t =>
    some (((s.dropReq tile no r.off).holdAct tile no (s.faultRec tile a.cmd dst va 1 0 7) stop).modAct tile
      no fun a => { a with evict := some t })
  | none => (s.dropReq tile no r.off).meetFault? tile no (s.faultRec tile a.cmd dst va 7 0 7) stop

/-- What stands before a request at its home, if anything does: its order, a home away, a lock, a port that waits, HBM
in self-refresh (R384). -/
def State.gate (s : State) (tile no : Nat) (a : XAct) (r : XReq) (k : Nat) : Option (Option State) :=
  if !r.coming || s.atLock tile a r || !s.nextAtHome tile r (homeOf k) then some none
  else if !s.reaches (pkgOfKey k) || (s.evictedAt tile k).isSome then some (s.homeAway? tile no a r k)
  else if s.lockedAt k then
    some (some (s.modReq tile no r.off fun r => { r with phase := .queued, qno := s.nextQno }))
  else if (keyType k == 0 && s.portWaits (k / 2 ^ 20) (k % 2 ^ 20) r.len) || (s.plane.refresh && keyType k == 4) then
    some none
  else none

/-! ### Reads and writes at the home (R208, R225, R239, R241) -/

/-- A read at its home: the data is on its way back. -/
def State.readAt (s : State) (tile no : Nat) (a : XAct) (r : XReq) (kid k : Nat) : State :=
  let s1 := if keyType k = 0 then s.meetFlips (k / 2 ^ 20) (k % 2 ^ 20) r.len else s
  s1.modAct tile no fun b =>
    { b.modReq r.off fun r => { r with data := s1.readCut a r.off r.len kid k, phase := .performed } with
      frags := b.frags ++ s1.fragsAfter a r.off r.len kid k }

/-- The data that a copy writes: bytes that its source also holds are undefined afterwards (R242). -/
def State.copyData (s : State) (tile : Nat) (a : XAct) (k : Nat) (bs : List PByte) : List PByte :=
  let src := s.spansFrom tile a false 0 a.cmd.len (a.cmd.len / 65536 + 2)
  bs.zipIdx.map fun x =>
    if meets [(k + x.2, 1)] src then ((s.free x.2).truncate 8, x.1.2) else x.1

/-- The request that follows one and can write with it, on its way to the home. -/
def XAct.next? (a : XAct) (r : XReq) : Option XReq :=
  a.reqs.find? fun q => q.off == r.off + r.len && q.coming && (a.cmd.kind == .mc || !q.data.isEmpty)

/-- How many of its last bytes a request leaves to the next one: those of an aligned 8 bytes at key x that its end cuts
(R222). Nothing where the next one will not be sent: the command is stopped there (R239). -/
def XAct.leaves (a : XAct) (r : XReq) (x : Nat) : Nat :=
  if r.off + r.len < a.cmd.len ∧ (a.next? r).isSome then min ((x + r.len) % 8) r.len else 0

/-- Whether a request waits at its home for the next one, with which it shares an aligned 8 bytes (R222). -/
def State.awaitsNext (s : State) (tile : Nat) (a : XAct) (r : XReq) (x : Nat) : Bool :=
  decide (r.off + r.len < a.cmd.len) && (x + r.len) % 8 != 0 && (a.next? r).isNone && s.engineGo tile &&
    a.held.isNone && !a.ended && !a.replay &&
    !a.reqs.any fun q => q.off == r.off + r.len && (a.cmd.kind == .mc || !q.data.isEmpty)

/-- Bytes of a request written at its home (R208, R225, R229); none where the port takes no write. -/
def State.deliver? (s : State) (tile no : Nat) (r : XReq) (kid k : Nat) (bs : List PByte) : Option State :=
  let h : HeldWrite :=
    { w := { tile := k / 2 ^ 20, src := tile, addr := k % 2 ^ 20, kind := 0, data := bs },
      src := some (tile, no, r.off) }
  if keyType k = 0 then
    match s.portIn h with
    | (s1, .performed) => some (s1.released h)
    | (s1, .held) => some s1
    | (_, .refused) => none
  else if keyType k = 6 then some ((s.wrP kid k bs).released h)
  else some ((s.homeWrite tile kid k bs).released h)

/-- The bytes that a request has left, written with those of the next one (R222). -/
def State.deliverOwed? (s : State) (tile no : Nat) (a : XAct) (p : XReq) : Option State :=
  match s.goal tile a p with
  | none => none
  | some (kid, k) =>
    (s.modReq tile no p.off fun p => { p with owes := 0, wait := p.wait + 1 }).deliver? tile no p kid
      (k + p.len - p.owes) (p.data.drop (p.len - p.owes))

/-- A write at its home, with the bytes that the requests before it have left; what it counts is noted with the
request. Without `.rel` an acknowledgement may be counted when the home accepts the write (R219); the model counts only
what has been performed, so a write held at a port counts after its release (DESIGN CHOICE, log 35). -/
def State.writeAt? (s : State) (tile no : Nat) (a : XAct) (r : XReq) (kid k : Nat) : Option State :=
  let copy := a.cmd.kind == .cpy
  let bs := if copy then s.copyData tile a k r.data else r.data
  let s0 := if copy then { s with freeCtr := s.freeCtr + r.len } else s
  let isTile := keyType k == 0
  let left := a.leaves r k
  let pois := isTile && anyP bs
  let gated := isTile && s0.gatedAt (k / 2 ^ 20) (k % 2 ^ 20) r.len
  let note (s : State) : State := s.modReq tile no r.off fun r =>
    { r with
      phase := if gated then .written else .atPort, cnt := r.len,
      err := gated || (a.cmd.rsw.isSome && !isTile), pois := pois, data := bs,
      owes := if gated then 0 else left, wait := if gated ∨ left = r.len then 0 else 1,
      rem := if a.cmd.rsw.isSome && isTile && !gated then [(k / 2 ^ 20, r.len, pois)] else [] }
  if s.awaitsNext tile a r k then none
  else
    let s1 := (a.owed r.off).foldl (fun s p => s.bind fun s => s.deliverOwed? tile no a p) (some (note s0))
    if gated ∨ left = r.len then s1
    else s1.bind fun s => s.deliver? tile no r kid k (bs.take (r.len - left))

/-- The step of a request at its home. -/
def State.home? (s : State) (tile no : Nat) (a : XAct) (r : XReq) : Option State :=
  match s.goal tile a r with
  | none => none
  | some (kid, k) =>
    match s.gate tile no a r k with
    | some x => x
    | none =>
      if a.cmd.kind.toVirt && (a.cmd.kind != .cpy || r.second .cpy) then
        (s.writeAt? tile no a r kid k).map (·.crossed k)
      else some ((s.readAt tile no a r kid k).crossed k)

/-- The first of a command's requests that can take a step. -/
def XAct.first (a : XAct) (f : XReq → Option State) : Option State := a.reqs.findSome? f

/-- HOME_ACCESS (R208): a read or write request performed at its home. -/
def State.homeAccess? (s : State) (tile no : Nat) : Option State :=
  match (s.tileAt tile).act? no with
  | none => none
  | some a => if a.cmd.kind.isXop || a.cmd.kind = .mc then none else a.first (s.home? tile no a)

def execHomeAccess (tile no : Nat) (s : State) : Host.Outcome State Fault Refusal :=
  orStay (s.homeAccess? tile no) s

/-! ### Operations and multicast (R223, R243, R246) -/

/-- An operation at its home. -/
def State.opAt? (s : State) (tile no : Nat) (a : XAct) (r : XReq) : Option State :=
  match s.goal tile a r with
  | none => none
  | some (_, k) =>
    match s.gate tile no a r k with
    | some x => x
    | none =>
      if keyType k = 0 then
        let h : HeldWrite :=
          { w := { tile := k / 2 ^ 20, src := tile, addr := k % 2 ^ 20, kind := 2,
                   data := clean (natToBytes a.cmd.len 0) },
            src := some (tile, no, r.off), op := true }
        match (s.modReq tile no r.off fun r => { r with wait := 1, phase := .atPort }).portIn h with
        | (_, .refused) => none
        | (s1, _) => some (s1.crossed k)
      else some ((s.opRun tile no).crossed k)

/-- XOP_EXECUTE (R246). -/
def State.xopExecute? (s : State) (tile no : Nat) : Option State :=
  match (s.tileAt tile).act? no with
  | none => none
  | some a => if a.cmd.kind.isXop then a.first (s.opAt? tile no a) else none

def execXopExecute (tile no : Nat) (s : State) : Host.Outcome State Fault Refusal :=
  orStay (s.xopExecute? tile no) s

/-- Whether a port cannot take a multicast delivery now. -/
def State.portShut (s : State) (t addr n : Nat) : Bool :=
  s.portWaits t addr n || decide (16 ≤ (s.tileAt t).heldW.length)

/-- Delivers bytes of a multicast packet into tiles, at a local address. -/
def State.castTo (s : State) (tile no : Nat) (r : XReq) (addr : Nat) (bs : List PByte) (ts : List Nat) : State :=
  ts.foldl (fun s t =>
    let h : HeldWrite :=
      { w := { tile := t, src := tile, addr := addr, kind := 3, data := bs }, src := some (tile, no, r.off) }
    match s.portIn h with
    | (s1, .performed) => s1.released h
    | (s1, _) => s1) s

/-- The bytes that a packet has left, delivered to its own tiles with the next packet (R222, R243). -/
def State.castOwed (s : State) (tile no x : Nat) (p : XReq) : State :=
  (s.modReq tile no p.off fun p => { p with owes := 0, wait := p.wait + p.live.length }).castTo tile no p
    (x + p.off + p.len - p.owes) (p.data.drop (p.len - p.owes)) p.live

/-- A packet of a multicast at its source home (R243): it replicates by a snapshot of the entry, the bytes of the
packets before it that share an aligned 8 bytes with it delivered with it (R222). -/
def State.packetAt? (s : State) (tile no x : Nat) (a : XAct) (r : XReq) : Option State :=
  match s.goal tile a r with
  | none => none
  | some (kid, k) =>
    match s.gate tile no a r k with
    | some x => x
    | none =>
      let addr := x + r.off
      let ts := s.mcTiles tile a.cmd.arg
      let live := ts.filter fun t => !s.landDrops t addr r.len
      let old := a.owed r.off
      let full := (live ++ old.flatMap (·.live)).any fun t =>
        decide (16 ≤ (s.tileAt t).heldW.length + old.length)
      let shut := old.any fun p => p.live.any fun t => s.portShut t (x + p.off) p.len
      if full || shut || (live.any fun t => s.portShut t addr r.len) || s.awaitsNext tile a r addr then none
      else
        let s1 := if keyType k = 0 then s.meetFlips (k / 2 ^ 20) (k % 2 ^ 20) r.len else s
        let bs := s1.readCut a r.off r.len kid k
        let left := if live.isEmpty then 0 else a.leaves r addr
        let s2 := s1.modAct tile no fun b =>
          { b.modReq r.off fun r =>
              { r with
                cnt := if ts.isEmpty then r.len else r.len * ts.length,
                err := decide (live.length ≠ ts.length) || ts.isEmpty,
                pois := anyP bs && !live.isEmpty, wait := if left = r.len then 0 else live.length,
                rem := if a.cmd.rsw.isSome then live.map fun t => (t, r.len, anyP bs) else [],
                phase := if live.isEmpty then .written else .atPort, data := bs, owes := left, live := live } with
            frags := b.frags ++ s1.fragsAfter a r.off r.len kid k }
        let s3 := old.foldl (fun s p => s.castOwed tile no x p) s2
        some (if left = r.len then s3 else s3.castTo tile no r addr (bs.take (r.len - left)) live)

/-- MULTICAST_PACKET (R243). -/
def State.multicast? (s : State) (tile no : Nat) : Option State :=
  match (s.tileAt tile).act? no with
  | none => none
  | some a =>
    match a.cmd.kind, a.cmd.dst with
    | .mc, .loc x => a.first fun r => s.packetAt? tile no x a r
    | _, _ => none

def execMulticastPacket (tile no : Nat) (s : State) : Host.Outcome State Fault Refusal :=
  orStay (s.multicast? tile no) s

/-! ### Landings and acknowledgements (R242, R244, R246, R249) -/

/-- A request ends with what it counts; its slot is free. -/
def State.finishReq (s : State) (tile no : Nat) (r : XReq) (n : Nat) : State :=
  (s.freeSlots tile no (·.off == r.off)).modReq tile no r.off fun r =>
    { r with phase := .done, cnt := n, pois := anyP r.data }

/-- Writes a response into the own SRAM (R225, KIND 1). -/
def State.landBytes (s : State) (tile addr : Nat) (bs : List PByte) : State :=
  (s.portIn { w := { tile := tile, src := tile, addr := addr, kind := 1, data := bs } }).1

/-- A value lands in the place a command reserved; a place that is gone discards it (R57, R105). -/
def Tile.landPlace (t : Tile) (r no : Nat) (bs : List PByte) : Tile :=
  t.mapPlaces r fun q => q.map fun x =>
    if x = .land no then .held (BitVec.ofNat 64 (numAt bs 0 8)) (anyP bs) else x

/-- Whether a park of a tile has begun and is not yet at rest: answers other than those of operations are
discarded (R279). -/
def State.parkOn (s : State) (tile : Nat) : Bool :=
  (s.tileAt tile).parkWhy != 0 && (s.tileAt tile).parkSt == 0

/-- What an `xget` has in the engine goes into the own SRAM at address x, without a gap and by whole aligned 8
bytes up to the end of the transfer (R222). The landing slot of a response returns once all of it but a cut aligned 8
bytes, which wait in the engine for the next response, stand in the SRAM (R249; log 35). -/
def State.writeIn (s : State) (tile no x : Nat) : State :=
  match (s.tileAt tile).act? no with
  | none => s
  | some a =>
    let run := a.inBuffer a.wnxt (a.reqs.length + 1)
    let last := a.wnxt + run.length
    let stop := max a.wnxt (if last = a.cmd.len then last else last - (x + last) % 8)
    let s1 := if stop = a.wnxt then s else s.landBytes tile (x + a.wnxt) (run.take (stop - a.wnxt))
    let s2 := s1.freeSlots tile no fun r => r.phase == .buffered && decide (r.off + r.len < stop + 8)
    s2.modAct tile no fun a =>
      { a with
        wnxt := stop
        reqs := a.reqs.map fun r =>
          if r.phase = .buffered ∧ r.off + r.len ≤ stop then { r with phase := .done } else r }

/-- A response lands (R249). -/
def State.land? (s : State) (tile no : Nat) (a : XAct) (r : XReq) : Option State :=
  if r.phase ≠ .performed then none
  else if s.parkOn tile && !a.cmd.kind.isXop then some (s.dropReq tile no r.off)
  else
    match a.cmd.kind, a.cmd.dst, a.cmd.src with
    | .cpy, _, _ =>
      some ((s.finishReq tile no r 0).modReq tile no r.off fun q => { q with phase := .buffered })
    | .get, .loc x, _ =>
      if s.landWaits tile (x + a.wnxt) (r.off + r.len - a.wnxt) then none
      else
        some ((s.modReq tile no r.off fun q =>
          { q with phase := .buffered, cnt := r.len, pois := anyP q.data }).writeIn tile no x)
    | .ldlq, _, _ =>
      some ((s.modTileAt tile fun t => t.landPlace a.cmd.ri no r.data).finishReq tile no r r.len)
    | .xop _, _, .loc b =>
      if s.landWaits tile b 40 then none
      else some ((s.landBytes tile b r.data).finishReq tile no r 8)
    | _, .loc x, _ =>
      if s.landWaits tile (x + r.off) r.len then none
      else some ((s.landBytes tile (x + r.off) r.data).finishReq tile no r r.len)
    | _, _, _ => none

/-- RESPONSE_LANDING (R249). -/
def State.landing? (s : State) (tile no : Nat) : Option State :=
  match (s.tileAt tile).act? no with
  | none => none
  | some a => a.first (s.land? tile no a)

def execResponseLanding (tile no : Nat) (s : State) : Host.Outcome State Fault Refusal :=
  orStay (s.landing? tile no) s

/-- ACKNOWLEDGEMENT_RECEIVED (R242, R279): a write has been performed at its home. -/
def State.acked? (s : State) (tile no : Nat) : Option State :=
  match (s.tileAt tile).act? no with
  | none => none
  | some a => a.first fun r =>
      if r.phase = .written then
        some (s.modReq tile no r.off fun r => { r with phase := .done, lost := s.parkOn tile })
      else none

def execAcknowledgementReceived (tile no : Nat) (s : State) : Host.Outcome State Fault Refusal :=
  orStay (s.acked? tile no) s

/-! ### Chunks (R219, R239) -/

/-- The end of the first chunk not yet counted. -/
def XAct.chunkEnd (a : XAct) : Nat := min (a.counted / 2048 * 2048 + 2048) a.cmd.len

/-- The sync words that a command counts into: tile and address. -/
def XAct.words (a : XAct) (tile : Nat) (rem : List (Nat × Nat × Bool)) : List (Nat × Nat) :=
  (a.cmd.sw.map fun w => (tile, w)).toList ++
    rem.filterMap fun x => a.cmd.rsw.map fun w => (x.1, w)

/-- Counts bytes, flags and remote arrivals of a command. -/
def State.count (s : State) (tile : Nat) (c : XCmd) (n : Nat) (pois err : Bool)
    (rem : List (Nat × Nat × Bool)) : State :=
  let s1 := s.countOwn tile c n pois
  let s2 := if err then s1.flagOwn tile c 3 else s1
  rem.foldl (fun s x => s.countRemote tile c x.1 x.2.1 x.2.2) s2

/-- The end of a command whose bytes have been counted without being delivered (R388, R389). -/
def State.rest? (s : State) (tile no : Nat) (a : XAct) : Option State :=
  if a.ended && a.reqs.all (·.atRest) then some (s.leaveCmd tile no) else none

/-- Counts a completed chunk in order; under `.rel` one arrival counts the whole command (R219). -/
def State.chunk? (s : State) (tile no : Nat) : Option State :=
  match (s.tileAt tile).act? no with
  | none => none
  | some a =>
    let e := a.chunkEnd
    let rs := a.reqs.filter fun r => decide (r.off < e)
    let rem := rs.flatMap (·.rem)
    if a.ended then s.rest? tile no a
    else if a.cmd.kind = .ctready ∨ a.cmd.len ≤ a.counted ∨ a.nxt < e ∨ (a.cmd.kind = .cpy ∧ a.wnxt < e) ∨
        rs.any (fun r => r.phase != .done || r.lost) ∨ (a.held.isSome ∧ a.stop < e) ∨
        (a.cmd.sw.isSome ∧ s.localLeft tile a.cmd.ri a.cmd.pos) ∨
        ((a.words tile (a.relRem ++ rem)).any fun w => s.landWaits w.1 w.2 16) then none
    else
      let n := a.relCnt + (rs.map (·.cnt)).sum
      let pois := a.relPois || rs.any (·.pois)
      let err := a.relErr || rs.any (·.err)
      let rem := a.relRem ++ rem
      let now := !a.cmd.rel || e == a.cmd.len
      let s1 := if now then s.count tile a.cmd n pois err rem else s
      if e = a.cmd.len then some (s1.endCmd tile no a.cmd.ri)
      else
        some (s1.modAct tile no fun a =>
          { a with
            counted := e, reqs := a.reqs.filter fun r => decide (e ≤ r.off),
            relCnt := if now then 0 else n, relPois := if now then false else pois,
            relErr := if now then false else err, relRem := if now then [] else rem })

/-- CHUNK_COMPLETE (R239). -/
def execChunkComplete (tile no : Nat) (s : State) : Host.Outcome State Fault Refusal :=
  orStay (s.chunk? tile no) s

/-! ### Redirects, replays and walks (R300 to R302, R305, R307, R331) -/

/-- REDIRECT_NOTICE_RECEIVED (R331): a command on an object resolves again. -/
def State.redirected? (s : State) (tile no : Nat) : Option State :=
  match (s.tileAt tile).act? no with
  | none => none
  | some a =>
    if a.redir then
      some (s.modAct tile no fun a =>
        { a with redir := false, prep := a.prep && a.srcO.isNone && a.dstO.isNone })
    else none

def execRedirectNoticeReceived (tile no : Nat) (s : State) : Host.Outcome State Fault Refusal :=
  orStay (s.redirected? tile no) s

/-- REPLAY_RETRANSLATE (R305): a freed command starts again from its restart point. -/
def State.replay? (s : State) (tile no : Nat) : Option State :=
  match (s.tileAt tile).act? no with
  | none => none
  | some a =>
    if a.replay && a.reqs.all (·.atRest) then
      let s1 := if a.held.isSome then s.heldCount tile a.cmd false else s
      some ((s1.freeSlots tile no fun _ => true).modAct tile no fun a =>
        { a with held := none, replay := false, evict := none, nxt := a.counted, wnxt := a.counted,
                 reqs := [], frags := [], lim := none,
                 pages := [], srcO := none, dstO := none, prep := false, stop := 0 })
    else none

def execReplayRetranslate (tile no : Nat) (s : State) : Host.Outcome State Fault Refusal :=
  orStay (s.replay? tile no) s

/-- Removes a miss-table entry. -/
def State.freeMissAt (s : State) (d i : Nat) : State :=
  s.modDie d fun di => { di with miss := di.miss.del i }

/-- A walk that reached a leaf (R296): the TLBs of its waiters are filled, and they go on. -/
def State.walkFill (s : State) (d i : Nat) (m : Miss) (x : Xlate) : State :=
  let s1 := (s.freeMissAt d i).fillLast d x
  m.waits.foldl (fun s w =>
    (s.fillGroup (groupOfTile w.1) x).modAct w.1 w.2 fun a => { a with walking := false }) s1

/-- ACC of the access that waits for a page (R302): a read where the page lies in the source. -/
def State.walkAcc (s : State) (w : Nat × Nat) (va : Nat) : Nat :=
  match (s.tileAt w.1).act? w.2 with
  | none => 0
  | some a =>
    let inSide (dst : Bool) : Bool := match a.range dst with
      | some (lo, hi) => decide (lo % 2 ^ 56 / 2 ^ 16 ≤ va / 2 ^ 16) &&
          decide (va / 2 ^ 16 ≤ (hi - 1) % 2 ^ 56 / 2 ^ 16)
      | none => false
    a.cmd.acc (!inSide false)

/-- Holds a waiter of a fault entry. -/
def State.holdWaiter (s : State) (r : FaultRec) (w : Nat × Nat) : State :=
  match (s.tileAt w.1).act? w.2 with
  | none => s
  | some a => s.holdAct w.1 w.2 r (if r.cause = 4 then a.counted else a.stop)

/-- A walk that ends in a fault (R300, R301): waiters that a replay wants failed fail, those with chunks before the
fault send these first (R240), the others are held; the entry becomes a fault entry, or joins the one that stands for
it. -/
def State.walkFault (s : State) (d i : Nat) (m : Miss) (cause sub lvl : Nat) : State :=
  let is (p : XAct → Bool) (w : Nat × Nat) : Bool := (((s.tileAt w.1).act? w.2).map p).getD false
  let bad := m.waits.filter (is (·.failing))
  let early := m.waits.filter (is fun a => cause != 4 && a.ahead a.stop)
  let stay := m.waits.filter fun w => !bad.contains w && !early.contains w
  let s0 := bad.foldl (fun s w => s.failCmd w.1 w.2 3) s
  let s1 := early.foldl (fun s w => s.sendBefore w.1 w.2 ((((s.tileAt w.1).act? w.2).map (·.stop)).getD 0)) s0
  match m.waits.filter (!bad.contains ·) with
  | [] => s1.freeMissAt d i
  | w :: _ =>
    let r : FaultRec :=
      { asid := m.asid, va := faultVa lvl m.va, cause := cause, sub := sub, acc := s1.walkAcc w m.va,
        lvl := lvl, tile := w.1 }
    let s2 := match (s1.dieAt d).sameFault r with
      | some j => stay.foldl (fun s w => s.joinMiss d j w) (s1.freeMissAt d i)
      | none =>
        (s1.modDie d fun di =>
          { di with miss := di.miss.put i { fault := some r, asid := r.asid, va := r.va,
                                            waits := stay } }).recordFault (groupOfTile w.1) d i r
    stay.foldl (fun s w => s.holdWaiter r w) s2

/-- What a waiter of a walk accesses in the page that the walk has found: whether at its destination, from where, how
many bytes. -/
def XAct.waitSpan (a : XAct) (va log : Nat) : Bool × Nat × Nat :=
  let part (dst : Bool) : Option (Nat × Nat) := (a.range dst).bind fun r =>
    let start := va / 2 ^ log * 2 ^ log
    let x := if start ≤ r.1 % 2 ^ 56 then r.1 else r.1 + (start - r.1 % 2 ^ 56)
    if x < r.2 ∧ x % 2 ^ 56 / 2 ^ log = va / 2 ^ log then
      some (x, min (r.2 - x) (2 ^ log - x % 2 ^ log)) else none
  match part false with
  | some p => (false, p)
  | none => (true, (part true).getD (va, 1))

/-- The permission check that a waiter's access fails under the leaf that its walk has found (R299, R300). -/
def State.waitFault (s : State) (va : Nat) (e : BitVec 64) (w : Nat × Nat) : Option (Nat × Nat) :=
  ((s.tileAt w.1).act? w.2).bind fun a =>
    let p := a.waitSpan va (psLog (ptePS e))
    (s.leafFault w.1 a.cmd p.1 e p.2.1 p.2.2).filter fun c => c.1 == 2

/-- The fault entry of a command that has chunks before the fault to send: it is made and recorded where the fault is
found, and the command waits on it later (R240, R300, R336). -/
def State.noteFault (s : State) (tile : Nat) (r : FaultRec) : State :=
  let d := dieOfTile tile
  match (s.dieAt d).sameFault r, (s.dieAt d).freeMiss with
  | none, some i =>
    (s.modDie d fun di =>
      { di with miss := di.miss.put i { fault := some r, asid := r.asid, va := r.va } }).recordFault
      (groupOfTile tile) d i r
  | _, _ => s

/-- A waiter whose access the leaf does not permit (R299, R300, R336): the fault is recorded as the walk stops. -/
def State.waiterFault (s : State) (va lvl : Nat) (w : Nat × Nat) (c : Nat × Nat) : State :=
  match (s.tileAt w.1).act? w.2 with
  | none => s
  | some a =>
    let r := s.faultRec w.1 a.cmd (a.waitSpan va (lvlLog lvl)).1 va c.1 c.2 lvl
    if a.failing then s.failCmd w.1 w.2 3
    else if a.ahead a.stop then (s.noteFault w.1 r).sendBefore w.1 w.2 a.stop
    else
      match s.enterFault w.1 w.2 r a.stop with
      | (s1, true) => s1
      | (s1, false) => s1.modAct w.1 w.2 fun a => { a with walking := false }

/-- A walk that reached a leaf (R296, R299): the waiters that it permits go on, with the TLBs filled; the others
fault. -/
def State.walkLeft (s : State) (d i : Nat) (m : Miss) (e : BitVec 64) (lvl : Nat) : State :=
  let bad := m.waits.filter fun w => (s.waitFault m.va e w).isSome
  let fine := m.waits.filter fun w => (s.waitFault m.va e w).isNone
  let s1 := if fine.isEmpty && !bad.isEmpty then s.freeMissAt d i
    else s.walkFill d i { m with waits := fine } (mkXlate m.asid m.va e)
  bad.foldl (fun s1 w => s1.waiterFault m.va lvl w ((s.waitFault m.va e w).getD (2, 0))) s1

/-- The end of a walk (R294 to R299); the walkers of a halted plane stand (R356). -/
def State.walkDone? (s : State) (d i : Nat) : Option State :=
  match if s.plane.halt then none else (s.dieAt d).miss.val? i with
  | none => none
  | some m =>
    if m.fault.isSome then none
    else
      match s.walk m.asid m.va with
      | .leaf e lvl _ =>
        if s.keyAlias d e then some (s.walkFault d i m 2 3 lvl)
        else some (s.walkLeft d i m e lvl)
      | .bad c sub lvl => some (s.walkFault d i m c sub lvl)

/-- PAGE_WALK_COMPLETE (R300). -/
def execPageWalkComplete (die entry : Nat) (s : State) : Host.Outcome State Fault Refusal :=
  orStay (s.walkDone? die entry) s

end Sys2Proof.Machine
end

