-- ==== Sys2Proof/Machine/Retire.lean ====
section
/-! DEFINITION. The end of a kernel, the flush of held writes, the membership block and the step log's
stream (R229, R285, R291, R362, R364 to R367, R370, R374). -/

namespace Sys2Proof.Machine

/-! ### Held writes (R229) -/

/-- Sets DONE on every ring entry of the present group superstep. -/
def Tile.doneAll (t : Tile) : Tile :=
  let ps := (List.range t.trcCnt).map fun i => (t.trcR + i) % 256
  let mine := ps.filter fun p => thySsc (t.ring.val 0 p) == (t.ssc.val 0 2).toNat
  { t with ring := mine.foldl (fun r p => r.put p (markDone (r.val 0 p))) t.ring }

/-- Performs the held writes of a tile in arrival order; the order asked for is broken (R229). -/
def State.flushHeld (s : State) (tile : Nat) : State :=
  let hs := (s.tileAt tile).heldW
  let s1 := s.modTileAt tile fun t => { t with heldW := [] }
  let s2 := hs.foldl (fun s h => (s.portDo h).released h) s1
  s2.modTileAt tile fun t => { t with trcDiv := true }.doneAll.passDone 256

/-! ### The end of a kernel (R285, R291) -/

/-- The tiles that a kernel holds, by identifier. -/
def State.tilesOf (s : State) (k : Nat) : List Nat :=
  (s.tiles.filter fun p => p.2.kernel == some k).map (·.1)

/-- A tile that its kernel has left: its memory stays as it is until the next launch (R196). -/
def Tile.freed (t : Tile) : Tile :=
  { t with
    strands := [], kernel := none, ready := [], vwait := [], mwait := [], xact := [], restart := [],
    land := [], heldW := [], lateArm := [], parkSt := 0, parkWhy := 0, parkAsk := 0, parkBy := false,
    parkCnt := 0, tlast := [], xlast := [], vwin := none }

/-- Frees a tile: its records become free, in the directory and in their bytes (R174). -/
def State.freeTile (s : State) (tile : Nat) : State :=
  (((s.tileAt tile).strands.filter fun p => decide (p.1 < 64)).foldl
    (fun s p => s.stNum tile (recAddr p.1 + 16) 8 0 false) s).modTileAt tile Tile.freed

/-- Whether a journal's record was written by a kernel. -/
def Undo.byKernel (u : Undo) (k : Nat) : Bool :=
  u.kern == some k

/-- Takes a kernel off the machine: tiles, groups, domains, saved contexts and undo records. -/
def State.freeKernel (s : State) (k : Nat) : State :=
  let ts := s.tilesOf k
  let s1 := ts.foldl (fun s t => if (s.tileAt t).heldW.isEmpty then s else s.flushHeld t) s
  let dies := s1.dies.mapVals fun _ d =>
    { d with
      journal := d.journal.filter fun u => !u.byKernel k,
      miss := d.miss.mapVals fun _ m => { m with waits := m.waits.filter fun w => !ts.contains w.1 } }
  let s2 := ts.foldl (fun s t => s.freeTile t) { s1 with dies := dies }
  { s2 with
    groups := s2.groups.mapVals fun _ g =>
      if g.holder = some k then { g with holder := none, parking := 0 } else g,
    doms := s2.doms.filter fun p => p.1 / 8 / 2 ^ 18 != k,
    saves := s2.saves.filter fun x => x.kernel != k,
    kernels := s2.kernels.del k }

/-- The tiles of a kernel, those in save slots among them. -/
def State.placesOf (s : State) (k : Nat) : List Nat :=
  s.tilesOf k ++ (s.saves.filter fun x => x.kernel == k).map (·.tile)

/-- The retirement of a kernel (R285): its groups are free, NKERN falls, a context without kernels is idle, an
event is posted. Parks that waited for those of its tiles begin (R283). -/
def State.retireKernel (s : State) (k : Nat) : State :=
  let kr := s.kernAt k
  let ts := s.placesOf k
  let s1 := (s.freeKernel k).modCtx kr.asid fun c =>
    { c with
      nkern := c.nkern - 1, st := if c.nkern ≤ 1 then 1 else c.st, stop := if c.nkern ≤ 1 then 0 else c.stop,
      stoppers := c.stoppers.filter fun w => !ts.contains w.1 }
  (s1.postEvent kr.asid 3 0 (BitVec.ofNat 64 kr.ticket) 0 0).startParks

/-- Cancels every firing of a kernel's entries (R263). -/
def State.cancelFirings (s : State) (k : Nat) : State :=
  (s.kernAt k).entries.foldl (fun s i => s.cancelFiring i) s

/-- The end of a kernel by an escalated code (R291). -/
def State.endKernel (s : State) (k code origin : Nat) : State :=
  let kr := s.kernAt k
  let s1 := (s.cancelFirings k).modCtx kr.asid fun c => { c with escode := BitVec.ofNat 8 code }
  (s1.postEvent kr.asid 6 0 (BitVec.ofNat 64 kr.ticket)
    (BitVec.ofNat 64 (origin % 2 ^ 18 * 256 + code % 256)) 0).retireKernel k

/-! ### The membership block (R362, R364, R366, R367) -/

/-- The 64 bytes of the block after a change. -/
def memberBlock (mask : BitVec 256) (mepoch : BitVec 32) (low gone came : Nat) (ssc5 : BitVec 32) :
    List Byte :=
  natToBytes 32 mask.toNat ++ natToBytes 4 mepoch.toNat ++
    natToBytes 4 (low % 256 + gone % 256 * 256 + came % 256 * 65536) ++ natToBytes 4 ssc5.toNat ++
    natToBytes 20 0

/-- A change of a kernel's membership mask: MEPOCH rises, the block is written and performed, an event is
posted. -/
def State.changeMask (s : State) (k : Nat) (gone came : List Nat) : State :=
  let kr := s.kernAt k
  let drop := gone.foldl (fun (m : BitVec 256) x => m &&& ~~~ (1#256 <<< x)) kr.mmask
  let mask := came.foldl (fun (m : BitVec 256) x => m ||| (1#256 <<< x)) drop
  let low := gone.foldl min 255
  let s1 := s.modKern k fun x => { x with mmask := mask, mepoch := x.mepoch + 1 }
  let bs := memberBlock mask (kr.mepoch + 1) (if gone.isEmpty then 0 else low) gone.length came.length
    (s1.domAt 5 (k * 2 ^ 18)).ssn
  let s2 := if kr.mbva = 0 then s1
    else
      match s1.planeKey kr.asid kr.mbva.toNat true with
      | some a => s1.wrP (s1.planeKid kr.asid kr.mbva.toNat) a (clean bs)
      | none => s1
  s2.postEvent kr.asid 8 0 ((kr.mepoch + 1).zeroExtend 64)
    (BitVec.ofNat 64 (bytesToNat ((bs.drop 36).take 8))) 0

/-- A change of the members of a package's slots at a pod completion (R362): MMASK of every kernel has the slots of
ST 1, so it changes in each that it moves, and in the kernel whose completion it is. -/
def State.changeMasks (s : State) (k : Nat) (gone came : List Nat) : State :=
  let moves (m : BitVec 256) : Bool := gone.any m.getLsbD || came.any fun x => !m.getLsbD x
  s.kernels.foldl (fun s p => if p.1 = k ∨ moves p.2.mmask then s.changeMask p.1 gone came else s) s

/-! ### The step log at a pod completion (R370, R374) -/

/-- Reads the log area. -/
def State.logRead (s : State) (o n : Nat) : List Byte :=
  (s.rdP 0 (hbmKey s.own (s.slog.base * 4096 + o)) n).map (·.1)

/-- The records of b bytes of the log from place o on, pads left out (R371). -/
def State.logRecords (s : State) (o b : Nat) : Nat → List (List Byte)
  | 0 => []
  | k + 1 =>
    let area := s.slog.area
    if b < 32 ∨ area = 0 then []
    else
      let h := bytesToNat (s.logRead o 32)
      if h.testBit 47 then s.logRecords 0 (b - (area - o)) k
      else
        let n := min b (32 + (4 * bitsN h 96 32 + 31) / 32 * 32)
        s.logRead o n :: s.logRecords ((o + n) % area) (b - n) k

/-- Sends the committed steps that a stream has still to send (R374). -/
def State.streamSteps (s : State) : State :=
  match s.slog.stream with
  | none => s
  | some (slot, frm) =>
    let l := s.slog
    let go := l.steps.foldl (fun (acc : List (Nat × List Byte) × Nat × Nat) (x : Nat × Nat × Bool) =>
      let recs := if frm ≤ x.1 ∧ x.2.2 then
          (s.logRecords acc.2.1 x.2.1 (x.2.1 / 32 + 1)).map fun r => (slot, r) else []
      (acc.1 ++ recs, if l.area = 0 then 0 else (acc.2.1 + x.2.1) % l.area,
        if frm ≤ x.1 ∧ x.2.2 then x.1 + 1 else acc.2.2)) ([], l.rd, frm)
    { s with logOut := s.logOut ++ go.1, slog := { l with stream := some (slot, go.2.2) } }

/-- A normal pod completion commits the step's records; the stream sends them (R370, R374). -/
def State.commitLog (s : State) (step : Nat) : State :=
  { s with slog := { s.slog with
      steps := s.slog.steps.map fun (x : Nat × Nat × Bool) => if x.1 = step then (x.1, x.2.1, true) else x } }.streamSteps

/-- An aborted pod completion discards the step's records (R370). -/
def StepLog.discard (l : StepLog) (step : Nat) : StepLog :=
  let mine (x : Nat × Nat × Bool) : Bool := x.1 == step && !x.2.2
  let gone := ((l.steps.filter mine).map (·.2.1)).sum
  { l with
    steps := l.steps.filter (!mine ·),
    wr := if l.area = 0 then 0 else (l.wr + l.area - gone) % l.area }

end Sys2Proof.Machine
end

