-- ==== Sys2Proof/Machine/Barriers.lean ====
section
/-! DEFINITION. The completion of barriers, normal and aborted, their timeouts and the changes of the pod's
membership at them (R197 to R209, R224, R229, R262, R263, R266, R291, R308, R332, R362 to R367, R370, R374 to
R376, R389). A domain is named by level and kernel × 2^18 + unit. -/

namespace Sys2Proof.Machine

/-! ### Parties (R197, R198, R362, R375) -/

/-- The kernel of a domain number. -/
def domKern (dom : Nat) : Nat := dom / 2 ^ 18

/-- The domain that encloses a domain of a level (R197). -/
def outerDom (level dom : Nat) : Nat :=
  let u := dom % 2 ^ 18
  domKern dom * 2 ^ 18 + (match level with
    | 1 => u / 32
    | 2 => u / 8
    | 3 => u / 4
    | _ => 0)

/-- The strands of a domain that run on: tile, record, strand; followers and exited strands are none. -/
def State.domStrands (s : State) (level dom : Nat) : List (Nat × Nat × Strand) :=
  (s.domTiles level dom).flatMap fun t =>
    (t.2.strands.filter fun p => !p.2.folw && !p.2.exiting).map fun p => (t.1, p.1, p.2)

/-- Whether the own package's tiles of a domain have all arrived. -/
def State.ownArrived (s : State) (level dom : Nat) : Bool :=
  (s.domTiles level dom).all fun t => t.2.arrived level

/-- Whether the own slot in a kernel is a spare that waits to join (R375). -/
def State.isSpare (s : State) (k : Nat) : Bool := (s.routes.val {} (s.slotOf k)).st == 3

/-- The slots of other packages that the pod barrier of a kernel awaits (R362). -/
def State.awaitedSlots (s : State) (k : Nat) : List Nat :=
  (slotsOf (s.kernAt k).mmask).filter fun x => x != s.slotOf k && !(s.routes.val {} x).kind

/-- The members of a kernel that have been found lost (R363). -/
def State.lostOf (s : State) (k : Nat) : List Nat :=
  (slotsOf (s.kernAt k).mmask).filter fun x =>
    x != s.slotOf k && (s.lost.contains x || (s.routes.val {} x).st == 2)

/-- Whether every other package of a pod barrier has arrived, is lost, or is found slow by its probe after the expiry of
the timer (R363). -/
def State.peersIn (s : State) (level dom : Nat) : Bool :=
  let d := s.domAt level dom
  level != 5 ||
    (s.awaitedSlots (domKern dom)).all fun x =>
      (d.peers.any fun p => p.slot == x) || (s.lostOf (domKern dom)).contains x ||
        (d.expired && d.conds.contains (0x44, (s.routes.val {} x).pkg * 1024))

/-- Whether some strand has arrived by `sync`, here or in another package. -/
def State.bySync (s : State) (level dom : Nat) : Bool :=
  ((s.domTiles level dom).any fun t => t.2.bySync level) ||
    (level == 5 && (s.domAt level dom).peers.any fun p => p.op.isSome)

/-- Whether the barriers inside a domain have completed: none has still to count a `sync` of one of its strands
(R198). -/
def State.innerDone (s : State) (level dom : Nat) : Bool :=
  (s.domStrands level dom).all fun x =>
    (List.range level).all fun l => l == 0 || !x.2.2.synced.getLsbD l

/-- Whether the timer's expiry stops the parties that are missing (R206): at the pod barrier once the probe of every
missing package has ended (R363). -/
def State.cutShort (s : State) (level dom : Nat) : Bool :=
  let d := s.domAt level dom
  d.expired && !d.conds.isEmpty && s.peersIn level dom

/-- Whether a strand that has not arrived must first reach a preemption point (R85, R206). -/
def State.canStop (s : State) (level dom : Nat) : Bool :=
  (s.domStrands level dom).all fun x => x.2.2.reached.getLsbD level || x.2.2.pkt.isNone

/-! ### The drain (R201, R262) -/

/-- Whether the only segments that a firing misses come from lost slots (R364). -/
def State.lostOnly (s : State) (k i : Nat) : Bool :=
  let e := s.entryAt i
  let gone := s.lostOf k
  e.running && !gone.isEmpty && e.missing.all fun b =>
    if e.op = 3 then gone.contains e.root
    else if e.homeSlot b = e.own then
      (slotsOf e.eff).all fun x =>
        x == e.own || (e.folds.val {} b).order.contains x || gone.contains x
    else gone.contains (e.homeSlot b)

/-- The active commands of a domain that its drain awaits: tile and command. -/
def State.undrained (s : State) (level dom : Nat) : List (Nat × XAct) :=
  (s.domTiles level dom).flatMap fun t =>
    (t.2.xact.filter fun a =>
      decide (a.cmd.scp ≤ level) &&
        !(a.cmd.kind == .ctready && s.lostOnly (domKern dom) a.cmd.arg)).map fun a => (t.1, a)

/-- Whether a domain has a command queued or kept for restart that its drain awaits: exchange commands of its scope, and
moves of the table engine, which are local accesses from before the `sync` (R201, R216). -/
def State.unstarted (s : State) (level dom : Nat) : Bool :=
  (s.domTiles level dom).any fun t =>
    (t.2.strands.any fun p => p.2.xq.any (fun c => decide (c.scp ≤ level)) || p.2.tq.any fun c => c.plan?.isSome) ||
      t.2.restart.any fun c => decide (c.scp ≤ level)

/-- Whether the drain of a barrier is done. -/
def State.drainDone (s : State) (level dom : Nat) : Bool :=
  (s.undrained level dom).isEmpty && !s.unstarted level dom &&
    (level != 2 || (s.domTiles level dom).all fun t => t.2.heldW.isEmpty)

/-- Whether the parties of a barrier have all arrived, or the expiry of the timer has stopped those that are
missing (R198, R206). -/
def State.partiesIn (s : State) (level dom : Nat) : Bool :=
  (s.ownArrived level dom && s.peersIn level dom && s.bySync level dom) ||
    (s.cutShort level dom && s.canStop level dom)

/-- Whether a barrier can complete (R198, R201): inner barriers first, but for those that the expiry of the timer
cuts off with the parties that are missing (R206). -/
def State.canComplete (s : State) (level dom : Nat) : Bool :=
  decide (1 ≤ level) && decide (level ≤ 5) && !(s.domTiles level dom).isEmpty && s.partiesIn level dom &&
    (s.innerDone level dom || s.cutShort level dom) && s.drainDone level dom && s.noneAway level dom

/-- Whether some write of a tile's commands is held at a port, or waits for a port that holds 16 (R229). -/
def State.atPorts (s : State) (tile : Nat) : Bool :=
  (s.tileAt tile).xact.any fun a => a.reqs.any fun r =>
    r.phase == .atPort || (r.coming && (s.goal tile a r).any fun g =>
      keyType g.2 == 0 && decide (16 ≤ (s.tileAt (g.2 / 2 ^ 20)).heldW.length))

/-- Whether a command has nothing left but writes that are held, its own or those before it (R229). -/
def State.behindPort (s : State) (tile : Nat) (a : XAct) : Bool :=
  let no := a.cmd.no
  a.cmd.kind != .ctready && a.held.isNone && !a.walking && !a.replay && !a.redir && s.atPorts tile &&
    [s.engine? tile no, s.homeAccess? tile no, s.xopExecute? tile no, s.multicast? tile no, s.landing? tile no,
     s.acked? tile no, s.chunk? tile no].all (·.isNone)

/-- Whether only held writes stand before a group barrier (R229). -/
def State.onlyHeld (s : State) (dom : Nat) : Bool :=
  s.partiesIn 2 dom && (s.innerDone 2 dom || s.cutShort 2 dom) &&
    ((s.domTiles 2 dom).all fun t =>
      t.2.restart.all (fun c => decide (2 < c.scp)) &&
        (t.2.strands.all (fun p => p.2.xq.all fun c => decide (2 < c.scp)) ||
          ((s.startX? t.1).isNone && s.atPorts t.1))) &&
    (s.undrained 2 dom).all fun x => s.behindPort x.1 x.2

/-- THYME_HELD_FLUSH (R229). -/
def execThymeHeldFlush (tile : Nat) (s : State) : Host.Outcome State Fault Refusal :=
  let t := s.tileAt tile
  let due := !t.heldW.isEmpty && (t.parkWhy != 0 || s.onlyHeld (s.domOf 2 tile))
  .next (if due then s.flushHeld tile else s)

/-! ### Codes (R204, R205, R266, R364) -/

/-- What a peer brought, as an arrival. -/
def peerArrival (p : PeerArrival) (op : SyncOp) : Arrival :=
  { scp := 5, op := op, fmt := p.fmt, f32 := p.f32, x := p.value, px := p.poison, code := p.code }

/-- The contributions that named a completion, with their tiles: those of the own strands, unless the
package is a spare (R375), and of other packages. -/
def State.shares (s : State) (level dom : Nat) : List (Nat × Arrival) :=
  let own := (s.domStrands level dom).filterMap fun x =>
    match x.2.2.arrival with
    | some a => if a.scp = level then some (x.1, a) else none
    | none => none
  let far := if level = 5 then
      (s.domAt 5 dom).peers.filterMap fun p =>
        if (s.awaitedSlots (domKern dom)).contains p.slot then p.op.map fun op => (p.origin, peerArrival p op)
        else none
    else []
  (if level = 5 ∧ s.isSpare (domKern dom) then [] else own) ++ far

/-- Whether contributions differ in operator, format or F32 (R204). -/
def mixed (xs : List (Nat × Arrival)) : Bool :=
  match xs.filter fun x => x.2.val with
  | [] => false
  | (_, a) :: t => t.any fun x => x.2.op != a.op || x.2.fmt != a.fmt || x.2.f32 != a.f32

/-- The origin of code 0x42 (R364). -/
def State.lossOrigin (s : State) (k : Nat) : Nat :=
  let near := (s.lostOf k).filter fun x => !(s.routes.val {} x).kind
  if near.isEmpty then
    ((s.domAt 5 (k * 2 ^ 18)).peers.filter fun p => (s.awaitedSlots k).contains p.slot).foldl (fun m p => min m p.low)
      ((s.placesOf k).foldl min (2 ^ 18 - 1))
  else near.foldl (fun m x => min m ((s.routes.val {} x).pkg * 1024)) (2 ^ 18 - 1)

/-- The codes that a completion combines, with their origins (R205). -/
def State.codes (s : State) (level dom : Nat) : List (Nat × Nat) :=
  let d := s.domAt level dom
  let xs := s.shares level dom
  let low := (xs.filter fun x => x.2.val).foldl (fun m x => min m x.1) (2 ^ 18 - 1)
  (xs.map fun x => (x.2.code.toNat, x.1)) ++
    ((d.conds ++ (d.peers.filter fun p => (s.awaitedSlots (domKern dom)).contains p.slot).flatMap (·.conds)).map fun c => (c.1.toNat, c.2)) ++
    (if d.pend = 0 then [] else [(d.pend.toNat, d.porg)]) ++
    (if mixed xs then [(0x46, low)] else []) ++
    (if level = 5 ∧ !(s.lostOf (domKern dom)).isEmpty then [(0x42, s.lossOrigin (domKern dom))] else [])

/-- The winning code and its origin: the highest code, the lowest tile that reports it (R205, R266). -/
def winner (xs : List (Nat × Nat)) : Nat × Nat :=
  let c := xs.foldl (fun m x => max m x.1) 0
  (c, (xs.filter fun x => x.1 == c).foldl (fun m x => min m x.2) (2 ^ 18 - 1))

/-- The verdict of a completion (R205). -/
def State.verdict (s : State) (level dom : Nat) : Nat × Nat := winner (s.codes level dom)

/-- The final code of an abort and its origin (R205, R209). -/
def Domain.final (d : Domain) (w : Nat × Nat) : Nat × Nat :=
  let x := if d.nab then (0xc3, d.norg) else w
  (if d.pol then x.1 ||| 0x80 else x.1, x.2)

/-! ### The reduction (R204) -/

/-- One step of an integer reduction. -/
def foldInt (op : SyncOp) (unsig : Bool) (x y : Word) : Word :=
  match op with
  | .add => x + y
  | .min => if (if unsig then decide (x ≤ y) else decide (x.toInt ≤ y.toInt)) then x else y
  | .max => if (if unsig then decide (y ≤ x) else decide (y.toInt ≤ x.toInt)) then x else y
  | .and => x &&& y
  | .or => x ||| y

/-- The reduction of FP32 contributions. -/
def foldFp (op : SyncOp) (xs : List Nat) : Nat :=
  match op with
  | .add =>
    let c := xs.foldl (fun (c : BitVec 192 × Bool) x => fixAdd c.1 c.2 x) (0, false)
    fixRd c.1 c.2
  | .min =>
    match xs with
    | [] => 0
    | x :: t => t.foldl (fltMin fp32) (fltMin fp32 x x)
  | _ =>
    match xs with
    | [] => 0
    | x :: t => t.foldl (fltMax fp32) (fltMax fp32 x x)

/-- The reduction over the contributions of a normal completion, with its poison. -/
def reduceShares (xs : List (Nat × Arrival)) : Word × Bool :=
  match xs.filter fun x => x.2.val with
  | [] => (0, false)
  | (t, a) :: rest =>
    let all := (t, a) :: rest
    let p := all.any fun x => x.2.px
    if a.f32 then (BitVec.ofNat 64 (foldFp a.op (all.map fun x => x.2.x.toNat % 2 ^ 32)), p)
    else (rest.foldl (fun acc x => foldInt a.op (a.fmt == 7) acc x.2.x) a.x, p)

/-! ### Completions (R199, R204, R208) -/

/-- The superstep of a level ends: SSC advances in every tile of the domain, the domain's own record of
it clears; the race filters clear with the group's (R199, R200, R207, R209, R226). -/
def State.endStep (s : State) (level dom : Nat) : State :=
  let ts := (s.domTiles level dom).map (·.1)
  let s1 := ts.foldl (fun s t => s.modTileAt t fun t =>
    { t with ssc := t.ssc.put level (t.ssc.val 0 level + 1),
             filter := if level = 2 then [] else t.filter }) s
  s1.modDom level dom fun d =>
    { d with ssn := d.ssn + 1, pend := 0, porg := 0, nab := false, norg := 0, conds := [],
             expired := false, trun := false, peers := [] }

/-- Whether an undo record was written by a domain (R208). -/
def wroteIn (level dom : Nat) (u : Undo) : Bool :=
  u.kern == some (domKern dom) && (if 2 ^ 18 ≤ u.tile then level == 5 else unitOf level u.tile == dom % 2 ^ 18)

/-- The records of level M that a normal completion of level M releases. -/
def State.releaseUndo (s : State) (level dom : Nat) : State :=
  { s with dies := s.dies.mapVals fun _ d =>
      { d with journal := d.journal.filter fun u => !(u.lvl == level && wroteIn level dom u) } }

/-- Members join at a normal pod completion: those whose arrival came while their slot was joining, the
own slot of a spare among them (R375, R376). -/
def State.joins (s : State) (k : Nat) (peers : List PeerArrival) : State :=
  let news := peers.flatMap (·.pcnts)
  let came := (s.routes.filter fun r =>
    r.2.st == 3 && (peers.any (fun p => p.slot == r.1) || r.1 == s.slotOf k)).map (·.1)
  if came.isEmpty then s
  else
    let in_ (x : Nat) (r : Route) : Route :=
      if came.contains x then { r with st := 1, pcnt := 0 } else r
    let s1 := { s with routes := s.routes.mapVals in_ }
    let s2 := if !came.contains (s.slotOf k) then s1
      else
        match peers with
        | [] => s1
        | p :: _ =>
          (s1.tilesOf k).foldl (fun s t => s.modTileAt t fun t =>
            { t with ssc := t.ssc.put 5 (p.ssn + 1) })
            ({ s1 with routes := s1.routes.mapVals fun x r =>
                if came.contains x then r else { r with pcnt := SMap.val news r.pcnt x } }.modDom 5 (k * 2 ^ 18) fun d => { d with ssn := p.ssn + 1 })
    let s3 := s2.changeMasks k [] came
    match s3.slog.stream with
    | some (x, _) => if came.contains x then { s3 with slog := { s3.slog with stream := none } } else s3
    | none => s3

/-- A normal completion (R199, R204). -/
def State.complete (s : State) (level dom : Nat) : State :=
  let k := domKern dom
  let d := s.domAt level dom
  let all := s.domStrands level dom
  let (x, p) := reduceShares (s.shares level dom)
  let s1 := s.endStep level dom
  let s2 := s1.releaseUndo level dom
  let s3 := if level = 5 then (s2.commitLog d.ssn.toNat).joins k d.peers else s2
  let s4 := all.foldl (fun s y => s.modStrandAt y.1 y.2.1 fun st =>
    { st with synced := st.synced &&& ~~~ (1#6 <<< level) }) s3
  all.foldl (fun s y =>
    match y.2.2.arrival with
    | some a =>
      if a.scp = level then
        ((s.modStrandAt y.1 y.2.1 fun st =>
          { st with arrival := none, reached := 0, acode := 0, resume := [(a.d, x, p)] }).makeReady y.1 y.2.1
          ).writeDesc y.1 y.2.1
      else s
    | none => s) s4

/-! ### Aborts (R206 to R209, R263, R291, R308, R364) -/

/-- A rollback's restore of a line: its bytes, KEYID and mark as they were; a migration that has copied
the chunk copies it again (R208, R224, R308). A record that an uncorrectable error has struck restores its line
poisoned, and is logged (R357). -/
def State.restore (s : State) (u : Undo) : State :=
  let s := if u.bad then s.logErr 2 9 (locLine u.line) else s
  { s with
    mem := wrBytes s.mem u.line u.data,
    marks := if u.pois || u.bad then setMark s.marks u.line else clearMark s.marks u.line,
    lineKey := if s.keyOf u.line = u.kid then s.lineKey else s.lineKey.put (u.line / 32) u.kid
  }.soilFrames u.line 32

/-- The copies of an object being relocated stay equal below the cursor (R332). -/
def State.evenLine (s : State) (line : Nat) : State :=
  match s.mirrorOf line with
  | some (rg, b) =>
    let kid := s.keyOf line
    s.wrP (s.heapAt rg).key b (s.rdP kid line 32)
  | none => s

/-- Whether an undo record matches a level-L superstep (R206, R208). -/
def undoes (level dom : Nat) (ssn : BitVec 32) (u : Undo) : Bool :=
  decide (level ≤ u.lvl) && wroteIn level dom u && u.sscs[level - 1]? == some ssn

/-- The rollback: matching records restore their lines from the newest to the oldest; of a superstep with
NAB they are only released (R208, R209). -/
def State.rollback (s : State) (level dom : Nat) : State :=
  let d := s.domAt level dom
  let mine := s.dies.flatMap fun x => x.2.journal.filter (undoes level dom d.ssn)
  let s1 := if d.nab then s
    else mine.foldl (fun s u => s.evenLine u.line) (mine.foldl State.restore s)
  { s1 with dies := s1.dies.mapVals fun _ x =>
      { x with journal := x.journal.filter fun u => !undoes level dom d.ssn u } }

/-- The abort record of a tile (R210). -/
def abortRecord (ssn : BitVec 32) (origin code : Nat) : Word :=
  BitVec.ofNat 64 (ssn.toNat * 2 ^ 32 + origin % 2 ^ 18 * 256 + code % 256)

/-- A strand resumes at its abort PC (R206): a suspended one becomes runnable, with D zero and then `g1` the code,
after the results that an earlier completion has queued for it (R204); one in its slot goes on there, but for one that
has suspended and waits there for its vector commands (R176). -/
def State.resumeAbort (s : State) (tile r code : Nat) : State :=
  let st := s.strandAt tile r
  let c : Word := BitVec.ofNat 64 code
  let zero := match st.arrival with
    | some a => if a.val then [(a.d, (0 : Word), false)] else []
    | none => []
  if st.slot.isSome && !st.leaving then
    s.modTileAt tile fun t =>
      { t.modStrand r (fun st => { st.closeRegion.wg 1 c false with
          pc := st.abortPc, acode := BitVec.ofNat 8 code, target := none, rpt := false, repidx := 0,
          vreq := none, hold := 0, stall := none, fence := none, tlbinv := none, reached := 0, synced := 0 }) with
        vwait := t.vwait.filter (· != r) }
  else
    (((s.modStrandAt tile r fun st =>
      { st with
        pc := st.abortPc, acode := BitVec.ofNat 8 code, arrival := none, reached := 0, synced := 0, rpt := false,
        resume := (if st.kind = 1 then st.resume else []) ++ zero ++ [((1 : BitVec 8), c, false)] }).makeReady tile r).writeDesc tile r).stNum tile
      (recAddr r) 8 st.abortPc.toNat false

/-- The barriers inside an aborted domain stand before a new superstep: the arrivals that had started their timers
are withdrawn (R206). The timer of an outer barrier goes on, whichever arrival started it (DESIGN CHOICE, log 36). -/
def State.restTimers (s : State) (level tile : Nat) : State :=
  (List.range (level - 1)).foldl (fun s l =>
    s.modDom (l + 1) (s.domOf (l + 1) tile) fun d =>
      { d with trun := false, expired := false,
               conds := if d.expired then d.conds.filter (·.1 != 0x44) else d.conds }) s

/-- A code merges into PEND, its origin into PORG (R207, R266). -/
def Domain.raise (d : Domain) (c : BitVec 8) (origin : Nat) : Domain :=
  if d.pend < c then { d with pend := c, porg := origin }
  else if c = d.pend ∧ c ≠ 0 then { d with porg := min d.porg origin }
  else d

/-- An escalated code joins the enclosing domain's PEND, or ends the kernel (R207, R266, R291). -/
def State.escalate (s : State) (level dom code origin : Nat) : State :=
  if code < 0x80 then s
  else if 5 ≤ level then s.endKernel (domKern dom) code origin
  else s.modDom (level + 1) (outerDom level dom) fun d => d.raise (BitVec.ofNat 8 (code - 0x80)) origin

/-- Lost members at an aborted pod completion: their slots take ST 2 (R364, R365). -/
def State.loseMembers (s : State) (gone : List Nat) : State :=
  { s with
    routes := s.routes.mapVals fun x r => if gone.contains x then { r with st := 2 } else r,
    lost := s.lost.filter (!gone.contains ·),
    slog := match s.slog.stream with
      | some (x, _) => if gone.contains x then { s.slog with stream := none } else s.slog
      | none => s.slog }

/-- An aborted completion (R206): rollback, SSC, abort records, then the strands resume. The arrival of a spare is held
until a normal one (R375, R376). -/
def State.abort (s : State) (level dom : Nat) : State :=
  let k := domKern dom
  let d := s.domAt level dom
  let fin := d.final (s.verdict level dom)
  let gone := if level = 5 then s.lostOf k else []
  let all := s.domStrands level dom
  let ts := (s.domTiles level dom).map (·.1)
  let s1 := s.rollback level dom
  let s2 := if level = 5 then
      { (s1.loseMembers gone).cancelFirings k with
        slog := (s1.loseMembers gone).slog.discard d.ssn.toNat }
    else s1
  let s3 := (s2.endStep level dom).modDom level dom fun x =>
    { x with peers := d.peers.filter fun p => level == 5 && (s2.routes.val {} p.slot).st == 3 }
  let s4 := ts.foldl (fun s t => s.modTileAt t fun t =>
    { t with arec := t.arec.put level (abortRecord d.ssn fin.2 fin.1) }) s3
  let s5 := if gone.isEmpty then s4 else s4.changeMasks k gone []
  let s6 := all.foldl (fun s x => s.resumeAbort x.1 x.2.1 fin.1) s5
  (ts.foldl (fun s t => s.restTimers level t) s6).escalate level dom fin.1 fin.2

/-- A members' abort as a waiting spare meets it (R362, R376): the losses that it has found take effect, and its own
arrival stays held. -/
def State.spareAbort (s : State) (dom : Nat) : State :=
  let k := domKern dom
  let gone := s.lostOf k
  let s1 := (s.loseMembers gone).modDom 5 dom fun d => { d with peers := [], conds := [], expired := false }
  if gone.isEmpty then s1 else s1.changeMasks k gone []

/-! ### The steps -/

/-- What another package's record of the pod's domain adds to the own one: its PEND and its NAB (R209, R266). -/
def Domain.hear (d : Domain) (p : PeerArrival) : Domain :=
  let d := d.raise p.pend p.porg
  if p.nab then { d with nab := true, norg := if d.nab then min d.norg p.norg else p.norg } else d

/-- Whether a JOIN may set a slot to joining (R374). -/
def Route.joinable (r : Route) : Bool := r.v && r.st != 1

/-- Takes in what other packages bring to a pod barrier, the entries readied there (R263) and the slots set to
joining there (R374), which also come before an arrival; a fenced slot brings nothing (R365). A JOIN that names the own
slot finds a spare: it was launched before it, and is no member (R375). -/
def State.takePeers (s : State) (level dom : Nat) (ps : List PeerArrival) : State :=
  let heard := ps.filter fun p => (s.routes.val {} p.slot).st != 2
  let new := heard.filter (·.arrived)
  let own := s.slotOf (domKern dom)
  if level ≠ 5 ∨ heard.isEmpty then s
  else
    let come (x : Kernel) : Kernel := { x with entries := (x.entries ++ new.flatMap (·.entries)).eraseDups }
    let called := (heard.flatMap (·.joining)).filter fun x => (s.routes.val {} x).joinable || x == own
    let s1 := { s with
      kernels := s.kernels.mapVals fun k x =>
        let x := if called.contains own then { x with mmask := x.mmask &&& ~~~ (1#256 <<< own) } else x
        if k = domKern dom then come x else x,
      routes := s.routes.mapVals fun x r => if called.contains x then { r with st := 3 } else r,
      lost := s.lost.filter (!called.contains ·) }
    s1.modDom 5 dom fun d => new.foldl Domain.hear
      { d with peers := (d.peers.filter fun p => !new.any fun q => q.slot == p.slot) ++ new }

/-- Whether a package that the others have lost reaches its next pod arrival (R365). -/
def State.outcast (s : State) (level dom : Nat) : Bool :=
  let own := s.slotOf (domKern dom)
  level == 5 && ((s.routes.val {} own).st == 2 || s.lost.contains own) && !(s.domTiles 5 dom).isEmpty &&
    s.ownArrived 5 dom

/-- The held commands of a drain, and its firings that are incomplete (R389). -/
def State.heldIn (s : State) (level dom : Nat) : List (Nat × XAct) :=
  (s.undrained level dom).filter fun x => x.2.held.isSome
def State.firingsIn (s : State) (level dom : Nat) : List Nat :=
  (((s.undrained level dom).filter fun x =>
    x.2.cmd.kind == .ctready && (x.2.nxt != 0 || x.2.counted != 0)).map fun x => x.2.cmd.arg).eraseDups

/-- An expired timer ends a drain (R389): every held command fails with 0x45, and every firing that is incomplete
is cancelled with 0x47. -/
def State.cutDrain (s : State) (level dom : Nat) : State :=
  let held := s.heldIn level dom
  let firing := s.firingsIn level dom
  let s1 := held.foldl (fun s x => (s.addCond level dom 0x45 x.1).failCmd x.1 x.2.cmd.no 3) s
  firing.foldl (fun s i =>
    (if s.lostOnly (domKern dom) i then s else s.addCond level dom 0x47 (s.readyOrigin i)).cancelFiring i
      |>.modEntry i fun e => { e with timedOut := true }) s1

/-- Whether a drain under an expired timer has something that the timer ends: a command held since, or, where
the completion is to abort anyhow, a firing (R389). -/
def State.drainCut (s : State) (level dom : Nat) : Bool :=
  (s.domAt level dom).expired && s.partiesIn level dom &&
    (!(s.heldIn level dom).isEmpty || (s.cutShort level dom && !(s.firingsIn level dom).isEmpty))

/-- Whether a completion is due and normal; a spare is released with the members' normal one. -/
def State.completeDue (s : State) (level dom : Nat) : Bool :=
  s.canComplete level dom && (s.verdict level dom).1 == 0 && !s.outcast level dom

/-- Whether an aborted completion is due, or its drain is to be ended first; an abort does not release a spare
(R375, R389). -/
def State.abortDue (s : State) (level dom : Nat) : Bool :=
  s.outcast level dom || s.drainCut level dom || (s.canComplete level dom && (s.verdict level dom).1 != 0)

/-- BARRIER_COMPLETE (R204). -/
def execBarrierComplete (level dom : Nat) (ps : List PeerArrival) (s : State) :
    Host.Outcome State Fault Refusal :=
  let s1 := s.takePeers level dom ps
  .next (if s1.completeDue level dom then s1.complete level dom else s1)

/-- ABORTED_COMPLETION (R206); a package that was lost ends its kernel with 0xc2 (R365); to a spare the
members' abort brings nothing (R376). -/
def execAbortedCompletion (level dom : Nat) (ps : List PeerArrival) (s : State) :
    Host.Outcome State Fault Refusal :=
  let s1 := s.takePeers level dom ps
  .next (if !s1.abortDue level dom then s1
    else if s1.outcast level dom then s1.endKernel (domKern dom) 0xc2 (s1.own * 1024)
    else if s1.drainCut level dom then s1.cutDrain level dom
    else if level = 5 ∧ s1.isSpare (domKern dom) then s1.spareAbort dom
    else s1.abort level dom)

/-- The expiry of a timer (R206, R389): with own parties missing 0x44; in the drain it ends the drain. -/
def State.expire (s : State) (level dom : Nat) : State :=
  let s0 := s.modDom level dom fun d => { d with trun := false, expired := true }
  if !s.ownArrived level dom then
    let missing := (s.domTiles level dom).filter fun t => !t.2.arrived level
    s0.addCond level dom 0x44 (missing.foldl (fun m t => min m t.1) (2 ^ 18 - 1))
  else if !s.peersIn level dom then s0
  else s0.cutDrain level dom

/-- BARRIER_TIMEOUT (R206, R389): the timer runs from the first arrival of the superstep. -/
def execBarrierTimeout (level dom : Nat) (s : State) : Host.Outcome State Fault Refusal :=
  let d := s.domAt level dom
  .next (if d.trun && d.tmo != 0 && !d.expired && !s.preempted level dom then s.expire level dom else s)

/-- Whether a slot is probed: a pod timer has expired without its arrival, or with its segments
unacknowledged (R363, R369). -/
def State.probed (s : State) (slot : Nat) : Bool :=
  (s.kernels.any fun p =>
    let d := s.domAt 5 (p.1 * 2 ^ 18)
    d.expired && (s.awaitedSlots p.1).contains slot && !d.peers.any fun q => q.slot == slot) ||
    s.tt.any fun e => e.2.unreached slot &&
      (s.entryKern e.1).any fun k => (s.domAt 5 (k * 2 ^ 18)).expired

/-- Whether a slot is the package's own: in a kernel here, or by the words for the next one (R360). -/
def State.isOwn (s : State) (slot : Nat) : Bool :=
  if s.kernels.isEmpty then s.oslot == slot else s.kernels.any fun p => s.slotOf p.1 == slot

/-- A package that answered its probe is slow: condition 0x44 joins the completions whose timer it let
expire (R363). -/
def State.slow (s : State) (slot : Nat) : State :=
  s.kernels.foldl (fun s p =>
    let d := s.domAt 5 (p.1 * 2 ^ 18)
    if d.expired ∧ (s.awaitedSlots p.1).contains slot ∧ !d.peers.any (fun q => q.slot == slot) then
      s.addCond 5 (p.1 * 2 ^ 18) 0x44 ((s.routes.val {} slot).pkg * 1024)
    else s) s

/-- LIVENESS_PROBE_EXPIRY (R363): no answer within the probe's time loses the member; for the own slot it
is the news that the others have lost this package (R365). -/
def execLivenessProbeExpiry (slot : Nat) (answered : Bool) (s : State) :
    Host.Outcome State Fault Refusal :=
  .next (if s.isOwn slot then
      (if answered then s
       else { s with routes := s.routes.put slot { s.routes.val {} slot with st := 2 } })
    else if !s.probed slot then s
    else if answered then s.slow slot
    else if s.lost.contains slot then s
    else { s with lost := s.lost ++ [slot] })

end Sys2Proof.Machine
end

