-- ==== Sys2Proof/Machine/Chervil.lean ====
section
/-! DEFINITION. Chervil: page migrations, the relocation of heap objects, compactions, the freeing of
forwards, and the writing of a region descriptor (R306 to R308, R311, R327 to R332). A chunk of a page is
4 KiB. -/

namespace Sys2Proof.Machine

/-! ### Copying -/

/-- Copies n bytes with their poison from one place and KEYID to another, as one access. -/
def State.copyBytes (s : State) (kid a kid2 b n : Nat) : State := s.wrP kid2 b (s.rdP kid a n)

/-- The bytes of an undo record as a read under a KEYID of its line would give them (R343). -/
def State.undoReadAs (s : State) (u : Undo) (kid : Nat) : List Byte :=
  if !encrypted u.line || u.kid == kid then u.data
  else (List.range 32).map fun i => Config.xts (s.writerKey u.kid) (s.keyVal kid) (u.line / 32) u.data i

/-- Moves the undo records of the lines of [a, a + n), read under one KEYID, to the same lines from b on, under
another; the journal of a new line's home takes them behind its own, in their order (R307, R331). -/
def State.repoint (s : State) (kid a n kid2 b : Nat) : State :=
  let mine (u : Undo) : Bool := decide (a ≤ u.line) && decide (u.line < a + n)
  let moved := (s.dies.flatMap fun d => d.2.journal.filter mine).map fun u =>
    { u with line := b + (u.line - a), kid := if encrypted b then kid2 else 0, data := s.undoReadAs u kid }
  let s1 := { s with dies := s.dies.mapVals fun _ d =>
    { d with journal := d.journal.filter fun u => !mine u } }
  moved.foldl (fun s u => s.modDie (journalDie u.line) fun d => { d with journal := d.journal ++ [u] }) s1

/-- Notices go to the active commands that match (R307, R331). -/
def State.notify (s : State) (p : Nat → XAct → Bool) : State :=
  { s with tiles := s.tiles.mapVals fun i t =>
      { t with xact := t.xact.map fun a => if p i a then { a with redir := true } else a } }

/-- Whether every notice has been received. -/
def State.noticed (s : State) : Bool := s.tiles.all fun t => t.2.xact.all fun a => !a.redir

/-- Changes or removes a request of Chervil. -/
def State.putReq (s : State) (i : Nat) (c : Chervil) : State := { s with chervil := s.chervil.put i c }
def State.delReq (s : State) (i : Nat) : State := { s with chervil := s.chervil.del i }

/-! ### Migrations (R307) -/

/-- The chunk that a migration copies next, if any is left. -/
def Migr.chunk (m : Migr) (pages : Nat) : Option Nat :=
  if m.cur < pages then some m.cur else m.again.head?

/-- Chunks of the page of a migration. -/
def Migr.chunks (m : Migr) : Nat := 2 ^ psLog (ptePS m.old) / 4096

/-- Whether the home of a migration's new frame can be reached. -/
def State.newHome (s : State) (m : Migr) : Bool := s.reaches (pkgOfKey (s.frameOf m.new).1)

/-- The request that Chervil carries out in a slot: none while the plane is halted (R356). -/
def State.request? (s : State) (i : Nat) : Option Chervil := if s.plane.halt then none else s.chervil.val? i

/-- The migration of a request slot, while it has not committed and its new home is reached or not. -/
def State.migrAt (s : State) (i : Nat) (committed : Bool) : Option Migr :=
  match s.request? i with
  | some (.migr m) => if m.committed = committed then some m else none
  | _ => none

/-- The copy of one chunk: poison marks go with it. -/
def State.migrCopy? (s : State) (i : Nat) : Option State :=
  (s.migrAt i false).bind fun m =>
    if !s.newHome m then none
    else
      (m.chunk m.chunks).map fun j =>
        let s1 := s.copyBytes (pteKey m.old) ((s.frameOf m.old).1 + 4096 * j) (pteKey m.new)
          ((s.frameOf m.new).1 + 4096 * j) 4096
        s1.putReq i (.migr (if m.cur < m.chunks then { m with cur := m.cur + 1 }
          else { m with again := m.again.drop 1 }))

/-- MIGRATION_COPY_CHUNK (R307). -/
def execMigrationCopyChunk (i : Nat) (s : State) : Host.Outcome State Fault Refusal :=
  orStay (s.migrCopy? i) s

/-- A leaf of the old frame rewritten: the page itself takes the new leaf; another page inside the frame
takes its target, key and place in the new one (R307). -/
def State.rewrite (s : State) (m : Migr) (x : Xlate) : Xlate :=
  if x.covers m.asid m.va then mkXlate x.asid x.va (withMl m.new false)
  else
    let f := pteFrame m.new + ((s.frameOf x.leaf).1 - (s.frameOf m.old).1) / 2 ^ 16
    { x with leaf := setBits (setBits (setBits x.leaf 60 3 (pteTT m.new)) 47 13 (pteKey m.new)) 0 31 f }

/-- The part of a larger page that the old frame is, as a page of its own in the new frame. -/
def State.cutOut (s : State) (m : Migr) (x : Xlate) : Xlate :=
  let leaf := setBits (setBits (setBits (setBits x.leaf 60 3 (pteTT m.new)) 47 13 (pteKey m.new)) 44 3
    (ptePS m.new)) 0 31 (pteFrame m.new)
  { asid := x.asid, va := x.va + ((s.frameOf m.old).1 - (s.frameOf x.leaf).1), leaf := leaf, shut := x.shut }

/-- A list of translations after a commit: those that name the old frame are rewritten; one whose page
is larger than the frame leaves a TLB, and in what a command or a firing holds is kept behind the part that has
moved. -/
def State.rewriteAll (s : State) (m : Migr) (keep : Bool) (xs : List Xlate) : List Xlate :=
  xs.flatMap fun x =>
    if !s.sameFrame x.leaf m.old then [x]
    else if psLog (ptePS m.old) < x.log then (if keep then [s.cutOut m x, x] else [])
    else [s.rewrite m x]

/-- What TLBs, commands and firings hold of the old frame, rewritten. -/
def State.rewritten (s : State) (m : Migr) : State :=
  let fix := s.rewriteAll m false
  let hold := s.rewriteAll m true
  { s with
    groups := s.groups.mapVals fun _ (g : Group) => { g with tlb := fix g.tlb },
    dies := s.dies.mapVals fun _ (d : Die) => { d with tlb := fix d.tlb },
    tiles := s.tiles.mapVals fun _ (t : Tile) =>
      { t with xact := t.xact.map fun (a : XAct) => { a with pages := hold a.pages } },
    tt := s.tt.mapVals fun _ (e : TtEntry) =>
      { e with srcX := e.srcX.map hold, dstX := e.dstX.map hold } }

/-- The commit: the entry at its home, the TLBs, what commands and firings hold, the undo records. -/
def State.migrCommit? (s : State) (i : Nat) : Option State :=
  (s.migrAt i false).bind fun m =>
    if (m.chunk m.chunks).isSome then none
    else
      let s1 := s.putLeaf m.leafKey (withMl m.new false)
      let s2 := s1.notify fun _ a => a.pages.any fun x => s.sameFrame x.leaf m.old
      let s3 := s2.rewritten m
      let f := s.frameOf m.old
      some ((s3.repoint (pteKey m.old) f.1 f.2 (pteKey m.new) (s.frameOf m.new).1).putReq i (.migr { m with committed := true }))

/-- MIGRATION_COMMIT (R307). -/
def execMigrationCommit (i : Nat) (s : State) : Host.Outcome State Fault Refusal :=
  orStay (s.migrCommit? i) s

/-- The end of a migration: its issuer's word counts 8 bytes, and the request leaves. -/
def State.endMigr (s : State) (i : Nat) (m : Migr) (err : Bool) : State :=
  let s1 := match m.sw with
    | some w => s.arriveAt m.kern m.tile w 8 false (if err then [3] else []) false
    | none => s
  s1.delReq i

/-- The release, when every notice has been received. -/
def State.migrRelease? (s : State) (i : Nat) : Option State :=
  (s.migrAt i true).bind fun m => if s.noticed then some (s.endMigr i m false) else none

/-- MIGRATION_RELEASE (R307). -/
def execMigrationRelease (i : Nat) (s : State) : Host.Outcome State Fault Refusal :=
  orStay (s.migrRelease? i) s

/-- A migration is abandoned when its new home cannot be reached before the commit. -/
def State.migrAbandon? (s : State) (i : Nat) : Option State :=
  (s.migrAt i false).bind fun m =>
    if s.newHome m then none
    else some ((s.putLeaf m.leafKey (withMl m.old false)).endMigr i m true)

/-- MIGRATION_ABANDON (R307). -/
def execMigrationAbandon (i : Nat) (s : State) : Host.Outcome State Fault Refusal :=
  orStay (s.migrAbandon? i) s

/-! ### Relocations (R327, R330, R331) -/

/-- The old storage of a region's objects that have moved out and is not yet released (R331). -/
def State.leavingStore (s : State) (rg : Nat) : List (Nat × Nat) :=
  s.chervil.filterMap fun p =>
    match p.2 with
    | .move r =>
      if r.committed ∧ r.rg = rg then
        some ((s.heapAt rg).chunkOf ((s.heapAt rg).wordAt r.old), chunksOf r.size)
      else none
    | _ => none

/-- The storage that stands in a region's arena but for the objects given: first chunk and chunks. What was
freed since the last compaction began is not free for it (R326), nor what a move has still to release. -/
def State.stored (s : State) (rg : Nat) (but : List Nat) : List (Nat × Nat) :=
  let h := s.heapAt rg
  ((List.range h.nobj).filterMap fun n =>
    let e := s.rdEnt rg n
    if (e.st = 1 ∨ e.st = 2) ∧ !but.contains n then some (h.chunkOf e.w1, chunksOf e.size) else none) ++
    s.leavingStore rg ++ h.dead

/-- Whether n chunks from k on are clear of some storage. -/
def clearOf (xs : List (Nat × Nat)) (k n : Nat) : Bool :=
  xs.all fun x => decide (k + n ≤ x.1) || decide (x.1 + x.2 ≤ k)

/-- The lowest place for a compacted object (R327): below its copy and clear of it, of pinned and placed
objects, and of every other storage that the compaction does not move. -/
def State.placeFor (s : State) (rg obj : Nat) (todo : List Nat) : Option Nat :=
  let e := s.rdEnt rg obj
  let at_ := (s.heapAt rg).chunkOf e.w1
  let n := chunksOf e.size
  let xs := s.stored rg (obj :: todo)
  let fits (k : Nat) : Bool := decide (k + n ≤ at_) && clearOf xs k n
  ((0 :: xs.map fun x => x.1 + x.2).filter fits).foldl
    (fun (m : Option Nat) k => some (min k (m.getD k))) none

/-- The next object of a compaction: pinned and moving objects, and those with no place, stay (R327). -/
def State.takeObj (s : State) (i rg obj : Nat) (todo : List Nat) : State :=
  let e := s.rdEnt rg obj
  let h := s.heapAt rg
  match (if e.st = 1 ∧ e.pin = 0 ∧ !e.mv then s.placeFor rg obj todo else none) with
  | none => s.putReq i (.compact rg todo none)
  | some k =>
    let r : Reloc :=
      { rg := rg, obj := obj, rg2 := rg, obj2 := obj, old := s.copyKey e.w1,
        new := s.copyKey (h.place k), size := e.size }
    (s.wrEnt rg obj { e with mv := true }).putReq i (.compact rg todo (some r))

/-- The relocation that a request slot carries out, and the request with it changed. -/
def Chervil.withReloc (c : Chervil) (r : Option Reloc) : Chervil :=
  match c, r with
  | .move _, some r => .move r
  | .compact rg todo _, r => .compact rg todo r
  | c, _ => c

/-- The relocation of a request slot. -/
def State.relocAt (s : State) (i : Nat) (committed : Bool) : Option (Chervil × Reloc) :=
  (s.request? i).bind fun c =>
    (c.reloc.filter fun r => r.committed == committed).map fun r => (c, r)

/-- A relocation that has not committed is abandoned because its new home cannot be reached: as for `hpin`,
and a move frees its destination entry (R332). -/
def State.relocAbandon (s : State) (i : Nat) : State :=
  match s.relocAt i false with
  | none => s
  | some (c, r) =>
    if s.reaches (pkgOfKey r.new) then s
    else
      match c with
      | .move _ =>
        let e := s.rdEnt r.rg r.obj
        let s1 := (s.wrEnt r.rg r.obj { e with mv := false }).freeEnt r.rg2 r.obj2
        (s1.releaseLines r.new (4096 * chunksOf r.size)).delReq i
      | _ => s.abandonCompact r.rg r.obj

/-- The copy of a relocation's next chunk, poison marks included, as one access at the old copy's home. -/
def State.chunkCopy? (s : State) (i : Nat) : Option State :=
  match s.request? i with
  | some (.compact rg (obj :: todo) none) => some (s.takeObj i rg obj todo)
  | _ =>
    (s.relocAt i false).bind fun x =>
      let r := x.2
      if !s.reaches (pkgOfKey r.new) then some (s.relocAbandon i)
      else if chunksOf r.size ≤ r.cur then none
      else
        some ((s.copyBytes (s.heapAt r.rg).key (r.old + 4096 * r.cur) (s.heapAt r.rg2).key
          (r.new + 4096 * r.cur) 4096).putReq i (x.1.withReloc (some { r with cur := r.cur + 1 })))

/-- RELOCATION_CHUNK_COPY (R330, R332): a compaction with no object under way takes its next one; a relocation whose new
home cannot be reached is abandoned. -/
def execRelocationChunkCopy (i : Nat) (s : State) : Host.Outcome State Fault Refusal :=
  orStay (s.chunkCopy? i) s

/-- The entries at the commit of a relocation (R331). -/
def State.commitEnts (s : State) (c : Chervil) (r : Reloc) : State :=
  match c with
  | .move _ =>
    let d := s.rdEnt r.rg2 r.obj2
    let s1 := s.wrEnt r.rg2 r.obj2 { d with st := 1 }
    let e := s1.rdEnt r.rg r.obj
    s1.wrEnt r.rg r.obj
      { e with st := 3, w1 := mkRef (s1.heapAt r.rg2).col r.rg2 r.obj2 d.gen,
               fep := (s1.heapAt r.rg).epoch.toNat, mv := false }
  | _ =>
    let e := s.rdEnt r.rg r.obj
    s.wrEnt r.rg r.obj { e with w1 := (s.heapAt r.rg).wordAt r.new, mv := false }

/-- Whether a command has resolved an object. -/
def XAct.uses (a : XAct) (rg obj : Nat) : Bool :=
  let on (o : Option XObj) : Bool := (o.map fun x => refRg x.ref == rg && refObj x.ref == obj).getD false
  on a.srcO || on a.dstO

/-- The key of an object that a command holds, after the commit of a relocation: its new copy, under the reference of a
move's destination (R331). -/
def XObj.moved (o : XObj) (r : Reloc) (ref : Word) (kid : Nat) : XObj :=
  if o.key = r.old ∧ refRg o.ref = r.rg ∧ refObj o.ref = r.obj then { o with ref := ref, key := r.new, kid := kid } else o

/-- What the active commands hold of an object whose relocation commits: the new copy, whatever becomes of its entry
later (R326, R331). -/
def State.reseat (s : State) (r : Reloc) : State :=
  let kid := (s.heapAt r.rg2).key
  let fix (o : XObj) : XObj :=
    o.moved r (if r.rg = r.rg2 then o.ref else mkRef (s.heapAt r.rg2).col r.rg2 r.obj2 (s.rdEnt r.rg2 r.obj2).gen) kid
  { s with tiles := s.tiles.mapVals fun _ t =>
      { t with xact := t.xact.map fun a => { a with srcO := a.srcO.map fix, dstO := a.dstO.map fix } } }

/-- The commit of a relocation at the entry's home. -/
def State.relocCommit? (s : State) (i : Nat) : Option State :=
  (s.relocAt i false).bind fun x =>
    let r := x.2
    if r.cur < chunksOf r.size ∨ !s.reaches (pkgOfKey r.new) then none
    else
      let s0 := (s.commitEnts x.1 r).notify fun _ a => a.uses r.rg r.obj
      let s1 := s0.reseat r
      some ((s1.repoint (s.heapAt r.rg).key r.old (4096 * chunksOf r.size) (s.heapAt r.rg2).key r.new).putReq i
        (x.1.withReloc (some { r with committed := true })))

/-- RELOCATION_COMMIT (R331). -/
def execRelocationCommit (i : Nat) (s : State) : Host.Outcome State Fault Refusal :=
  orStay (s.relocCommit? i) s

/-- The release of the old storage, when every notice has been received. -/
def State.relocRelease? (s : State) (i : Nat) : Option State :=
  (s.relocAt i true).bind fun x =>
    if !s.noticed then none
    else
      match x.1 with
      | .compact rg todo _ => some (s.putReq i (.compact rg todo none))
      | _ => some (s.delReq i)

/-- RELOCATION_RELEASE (R331). -/
def execRelocationRelease (i : Nat) (s : State) : Host.Outcome State Fault Refusal :=
  orStay (s.relocRelease? i) s

/-- The end of a compaction (R327): NEXT is the end of the highest live storage. -/
def State.compactEnd? (s : State) (i : Nat) : Option State :=
  match s.request? i with
  | some (.compact rg [] none) =>
    let top := (s.stored rg []).foldl (fun m x => max m (x.1 + x.2)) 0
    some ((s.modHeap rg fun h => { h with next := top }).delReq i)
  | _ => none

/-- COMPACTION_END (R327). -/
def execCompactionEnd (i : Nat) (s : State) : Host.Outcome State Fault Refusal :=
  orStay (s.compactEnd? i) s

/-! ### Forwards (R329) -/

/-- A forward of a region that trails its epoch by two or more. -/
def State.oldForward (s : State) (rg : Nat) : Option Nat :=
  let h := s.heapAt rg
  (List.range h.nobj).find? fun n =>
    let e := s.rdEnt rg n
    e.st == 3 && decide (2 ≤ (h.epoch.toNat + 2 ^ 16 - e.fep) % 2 ^ 16)

/-- FORWARD_FREE (R329): one old forward is freed as `free` frees an entry; with none left the flip has
finished. -/
def execForwardFree (rg : Nat) (s : State) : Host.Outcome State Fault Refusal :=
  .next (if !(s.heapAt rg).flipping || s.plane.halt then s
    else
      match s.oldForward rg with
      | some n => s.freeEnt rg n
      | none => s.modHeap rg fun h => { h with flipping := false })

/-! ### The region descriptor (R311) -/

/-- Word n of a list. -/
def wordAt (xs : List (BitVec 64)) (n : Nat) : Nat := (xs.getD n 0).toNat

/-- Whether six words keep the rules of a descriptor. -/
def heapWordsOk (xs : List (BitVec 64)) : Bool :=
  let w (n : Nat) : Nat := wordAt xs n
  xs.length == 6 && bitsN (w 0) 0 30 == 0 && bitsN (w 3) 39 9 == 0 && bitsN (w 4) 47 17 == 0 &&
    (bitsN (w 0) 30 3 == 2 || bitsN (w 0) 30 3 == 3) && canonical (w 1) && w 1 % 2 ^ 16 == 0 &&
    bitsN (w 2) 32 32 != 0 && bitsN (w 3) 0 39 % 4096 == 0 && bitsN (w 4) 0 47 % 4096 == 0

/-- Whether a request of Chervil names a region. -/
def Chervil.names (c : Chervil) (rg : Nat) : Bool :=
  match c with
  | .migr _ => false
  | .move r => r.rg == rg || r.rg2 == rg
  | .compact r _ _ => r == rg

/-- Whether a region is at rest: no request names it, and no resident kernel has it open. -/
def State.heapIdle (s : State) (rg : Nat) : Bool :=
  !(s.chervil.any fun p => p.2.names rg) && !s.kernels.any fun p => p.2.heaps.getLsbD rg

/-- Chains the entries n to nobj − 1 of a region, k of them, onto the free list with GEN 0. -/
def State.chain (s : State) (rg nobj n : Nat) : Nat → State
  | 0 => s
  | k + 1 =>
    (s.wrEnt rg n
      { w1 := BitVec.ofNat 64 (if n + 1 = nobj then 2 ^ 32 - 1 else n + 1) }).chain rg nobj (n + 1) k

/-- The descriptor as six words give it: the colour, the epoch and NEXT start at 0. -/
def heapOfWords (xs : List (BitVec 64)) : Heap :=
  let w (n : Nat) : Nat := wordAt xs n
  { asid := bitsN (w 0) 48 16, key := bitsN (w 0) 35 13, v := (w 0).testBit 34,
    tt := bitsN (w 0) 30 3, win := BitVec.ofNat 64 (w 1), nobj := bitsN (w 2) 32 32, freeh := 0,
    otbase := bitsN (w 3) 0 39, abase := bitsN (w 4) 0 47, asize := bitsN (w 5) 0 32 }

/-- Writes a descriptor: RCOL follows the colour in every tile (R316). -/
def State.putHeap (s : State) (rg : Nat) (h : Heap) : State :=
  (({ s with heaps := s.heaps.put rg h }).colourAll rg false).chain rg h.nobj 0 h.nobj

/-- REGION_DESCRIPTOR_WRITE (R311): by the supervisor's session; rejected while the region is in use, and by a halted
plane (R356). -/
def execRegionDescriptorWrite (rg : Nat) (xs : List (BitVec 64)) (s : State) :
    Host.Outcome State Fault Refusal :=
  .next (s.answered
    (if s.plane.halt = false ∧ rg < 64 ∧ heapWordsOk xs ∧ s.heapIdle rg then some (s.putHeap rg (heapOfWords xs)) else none))

end Sys2Proof.Machine
end

