-- ==== Sys2Proof/Machine/Launch.lean ====
section
/-! DEFINITION. Launch queues, launch records and their checks, and the start of a kernel (R172, R196, R267 to
R274, R344, R360 to R362, R387, R390, R392). -/

namespace Sys2Proof.Machine

/-! ### Launch queues (R268 to R270) -/

/-- The notifications of a queue (R268): the records that it adds take tickets in ring order. -/
def State.notifyQueue (s : State) (q tail asid : Nat) : State :=
  let r := s.lq.val {} q
  let n := r.size.toNat
  let held := (r.tail.toNat + n - r.head.toNat) % n
  let add := (tail + n - r.tail.toNat) % n
  if 3 < q ∨ n = 0 ∨ n ≤ tail ∨ n - 1 < held + add then s
  else
    let tk := s.tickets.val 0 q
    let new := (List.range add).map fun i => ((tk + i) % 2 ^ 32, asid % 2 ^ 16)
    { s with
      lq := s.lq.put q { r with tail := BitVec.ofNat 16 tail, recs := r.recs ++ new },
      tickets := s.tickets.put q ((tk + add) % 2 ^ 32) }

/-- LAUNCH_NOTIFY (R268): a write of LQTAIL, for the context bound to the session; 0 for the supervisor's. A reserved
bit rejects it (R11); a TAIL that breaks the ring's rules is written and notifies nobody. A halted plane takes none
(R356). -/
def execLaunchNotify (queue tail asid : Nat) (s : State) : Host.Outcome State Fault Refusal :=
  stepIf (!s.plane.halt) s
    (s.answered (if 3 < queue ∨ 2 ^ 16 ≤ tail then none else some (s.notifyQueue queue tail asid)))

/-- A record at the head of a ring, if it holds one: ticket and context. A size of 0 disables the queue (R268). -/
def Ring.first (r : Ring) : Option (Nat × Nat) := if r.size = 0 then none else r.recs.head?

/-- A ring past its first record. -/
def Ring.pop (r : Ring) : Ring :=
  { r with head := BitVec.ofNat 16 ((r.head.toNat + 1) % max 1 r.size.toNat), recs := r.recs.drop 1 }

/-- Whether the record of the kernel launch queue is the older of two (R269): the one that took its
ticket longer ago. -/
def olderTicket (now a b : Nat) : Bool :=
  decide ((now + 2 ^ 32 - b) % 2 ^ 32 < (now + 2 ^ 32 - a) % 2 ^ 32)

/-- The next record in ticket order of a priority: whether the kernel queue holds it, ticket, context. -/
def State.nextOf (s : State) (q : Nat) : Option (Bool × Nat × Nat) :=
  match (s.lq.val {} q).first, (s.kq.val {} q).first with
  | none, none => none
  | some a, none => some (false, a)
  | none, some b => some (true, b)
  | some a, some b =>
    if olderTicket (s.tickets.val 0 q) b.1 a.1 then some (true, b) else some (false, a)

/-- The queue that is served next (R270). -/
def State.nextQueue (s : State) : Option Nat := (List.range 4).find? fun q => (s.nextOf q).isSome

/-! ### Reading for the control plane (R273) -/

/-- Reads n bytes of a context's memory, of HBM alone where that is asked, 64 at most at a time; what does not
translate reads as zero. -/
def State.planeRead (s : State) (asid va n : Nat) (hbm : Bool) : Nat → List PByte
  | 0 => []
  | k + 1 =>
    if n = 0 then []
    else
      let m := min n (64 - va % 64)
      (match s.planeKey asid va false hbm with
       | some a => s.rdP (s.planeKid asid va) a m
       | none => clean (natToBytes m 0)) ++ s.planeRead asid (va + m) (n - m) hbm k

/-- The bytes of n from va on. -/
def State.planeBytes (s : State) (asid va n : Nat) (hbm : Bool := true) : List Byte :=
  (s.planeRead asid va n hbm (n / 64 + 2)).map (·.1)

/-- Whether every page of n bytes from va on translates with read permission. -/
def State.planeSpan (s : State) (asid va n : Nat) (hbm : Bool := true) : Bool :=
  (List.range (n / 65536 + 2)).all fun i =>
    let a := if i = 0 then va else va / 65536 * 65536 + 65536 * i
    (i != 0 && decide (va + n ≤ a)) || (s.planeKey asid a false hbm).isSome

/-! ### The launch header (R271) -/

/-- The 8 bytes of a header from o on. -/
def hdrWord (h : List Byte) (o : Nat) : Nat := bytesToNat ((h.drop o).take 8)

/-- The fields of a header. -/
def hdrAsid (h : List Byte) : Nat := bitsN (hdrWord h 0) 48 16
def hdrKey (h : List Byte) : Nat := bitsN (hdrWord h 0) 35 13
def hdrPrio (h : List Byte) : Nat := bitsN (hdrWord h 0) 33 2
def hdrLines (h : List Byte) : Nat := bitsN (hdrWord h 16) 42 11
def hdrEntry (h : List Byte) : Nat := bitsN (hdrWord h 16) 28 14
def hdrAbort (h : List Byte) : Nat := bitsN (hdrWord h 16) 14 14
def hdrThpc (h : List Byte) : Nat := bitsN (hdrWord h 16) 0 14
def hdrGmask (h : List Byte) : Nat := bitsN (hdrWord h 40) 0 32
def hdrPkgs (h : List Byte) : BitVec 256 := BitVec.ofNat 256 (bytesToNat ((h.drop 48).take 32))
def hdrEvqLg (h : List Byte) : Nat := bitsN (hdrWord h 168) 0 5
def hdrSave (h : List Byte) : Nat := bitsN (hdrWord h 176) 0 30
def hdrDcode (h : List Byte) : Nat := bitsN (hdrWord h 184) 0 30
def hdrTtFirst (h : List Byte) : Nat := bitsN (hdrWord h 152) 0 13
def hdrTtCnt (h : List Byte) : Nat := bitsN (hdrWord h 152) 13 14
/-- The images to load: none where TTAB is 0. -/
def hdrImages (h : List Byte) : Nat := if hdrWord h 144 = 0 then 0 else hdrTtCnt h
def hdrTimg (h : List Byte) : Nat := hdrWord h 232
def hdrTimgN (h : List Byte) : Nat := if hdrTimg h = 0 then 0 else bitsN (hdrWord h 240) 0 32

/-- The code image of a header. -/
def State.hdrCode (s : State) (h : List Byte) : List Byte :=
  s.planeBytes (hdrAsid h) (hdrWord h 8) (64 * (hdrLines h + 1))

/-- Whether a field shown as zero is not zero, or HVER is not 1 (R273 status 1). -/
def hdrBad (h : List Byte) : Bool :=
  let z (o lo n : Nat) : Bool := bitsN (hdrWord h o) lo n != 0
  bitsN (hdrWord h 0) 0 16 != 1 || z 0 16 14 || z 16 53 11 || z 24 42 22 || z 40 32 32 || z 88 8 56 ||
    z 104 16 48 || z 120 32 32 || z 152 27 37 || z 168 5 59 || z 176 30 34 || z 184 30 34 ||
    z 240 32 32 || z 248 0 64

/-- The groups of each package that a header names: die × 8 + group, ascending. -/
def gmaskGroups (m : Nat) : List Nat := (List.range 32).filter m.testBit

/-- The dies that have a group, and the groups of a die. -/
def gmaskDies (m : Nat) : List Nat := (List.range 4).filter fun d => bitsN m (8 * d) 8 != 0
def gmaskOfDie (m d : Nat) : List Nat := (gmaskGroups m).filter fun g => g / 8 == d

/-- The packages of a header (R271): the own one where none is named. -/
def State.pkgsOf (s : State) (m : BitVec 256) : List Nat := if m = 0 then [s.own] else slotsOf m

/-- Whether a count of units fits a field's width (R172, R273 status 4). -/
def fitsField (widths i count : Nat) : Bool := decide (count ≤ 2 ^ bitsN widths (7 * i) 7)

/-- Whether the widths and unit counts agree. -/
def State.widthsOk (s : State) (h : List Byte) : Bool :=
  let w := hdrWord h 24
  let m := hdrGmask h
  decide (((List.range 6).map fun i => bitsN w (7 * i) 7).sum ≤ 64) && fitsField w 1 32 &&
    (gmaskDies m).all (fun d => fitsField w 2 (gmaskOfDie m d).length) &&
    fitsField w 3 (gmaskDies m).length && fitsField w 4 (s.pkgsOf (hdrPkgs h)).length &&
    fitsField w 5 (hdrWord h 32 + 1)

/-- Whether a PC of a header stands inside its image, and where asked at a slot with TGT set (R273 status
5). -/
def State.hdrPcOk (s : State) (h : List Byte) (pc : Nat) (tgt : Bool) : Bool :=
  let line := pc / 8
  let at_ := hdrWord h 8 + 64 * line
  let w : BitVec 32 := BitVec.ofNat 32 (bytesToNat (s.planeBytes (hdrAsid h) at_ 4))
  decide (line ≤ hdrLines h) && decide (pc % 8 ≤ 4) &&
    (!tgt || (s.planeKey (hdrAsid h) at_ false).isNone || lwTgt w (pc % 8))

/-- The segments of a tile image (R392): local address and data of each; none where it is malformed. -/
def tileSegs : Nat → List Byte → Option (List (Nat × List Byte))
  | 0, _ => none
  | _, [] => some []
  | k + 1, bs =>
    let w := hdrWord bs 0
    let n := bitsN w 20 20
    let o := bitsN w 0 20
    if bs.length < 8 + n ∨ n < 8 ∨ n % 8 ≠ 0 ∨ o % 8 ≠ 0 ∨ 2 ^ 40 ≤ w then none
    else (tileSegs k (bs.drop (8 + n))).map ((o, (bs.drop 8).take n) :: ·)

/-- The tile image of a header. -/
def State.hdrTile (s : State) (h : List Byte) : Option (List (Nat × List Byte)) :=
  let n := hdrTimgN h
  tileSegs (n / 16 + 2) (s.planeBytes (hdrAsid h) (hdrTimg h) n)

/-- Whether the segments of a tile image stay below the pool and inside powered banks (R392). -/
def tileSegsOk (banks : Nat) (xs : List (Nat × List Byte)) : Bool :=
  xs.all fun x => decide (x.1 + x.2.length ≤ poolBase) &&
    !anyLine (fun o => !banks.testBit (bankOf o)) x.1 x.2.length (x.2.length / 32 + 2)

/-- Whether save region and code image lie in a die's memory, and are aligned (R273 status 10). -/
def savesOk (h : List Byte) : Bool :=
  hdrSave h % 2 ^ 21 == 0 && hdrDcode h % 64 == 0 &&
    decide (hdrDcode h + 64 * (hdrLines h + 1) ≤ 2 ^ 30) &&
    (gmaskGroups (hdrGmask h)).all fun g => decide (hdrSave h + 2 ^ 21 * (32 * (g % 8) + 32) ≤ 2 ^ 30)

/-- Whether the tables of a header translate, and its event queue (R273 status 7). -/
def State.tablesOk (s : State) (h : List Byte) : Bool :=
  let a := hdrAsid h
  let opt (o n : Nat) (hbm : Bool) : Bool := hdrWord h o == 0 || s.planeSpan a (hdrWord h o) n hbm
  s.planeSpan a (hdrWord h 8) (64 * (hdrLines h + 1)) && opt 136 512 false &&
    opt 144 (64 * hdrImages h) false && opt 232 (hdrTimgN h) true

/-- Whether the event queue of a header can be used. -/
def State.evqOk (s : State) (asid : Nat) (h : List Byte) : Bool :=
  s.planeSpan asid (hdrWord h 160) (32 * 2 ^ hdrEvqLg h) false && decide (4 ≤ hdrEvqLg h) &&
    decide (hdrEvqLg h ≤ 16)

/-- Tile-table image n of a header, as a number. -/
def State.hdrImage (s : State) (h : List Byte) (n : Nat) : Nat :=
  bytesToNat (s.planeBytes (hdrAsid h) (hdrWord h 144 + 64 * n) 64 false)

/-- Whether a tile-table image may be written to an entry (R252). -/
def State.imageFits (s : State) (i x : Nat) : Bool := !(s.entryAt i).running && s.imageOk x

/-- Whether the tile-table images may be loaded (R252, R273 status 8). -/
def State.imagesOk (s : State) (h : List Byte) : Bool :=
  decide (hdrTtFirst h + hdrTtCnt h ≤ 8192) &&
    (List.range (hdrImages h)).all fun n => s.imageFits (hdrTtFirst h + n) (s.hdrImage h n)

/-- Whether a context owns the heap regions of a mask (R273 status 9). -/
def State.ownsHeaps (s : State) (asid m : Nat) : Bool :=
  (List.range 64).all fun i => !m.testBit i || ((s.heapAt i).v && (s.heapAt i).asid == asid)

/-- The status of a record (R273): the first of the conditions in the table's order; 0 is accepted. -/
def State.hdrStatus (s : State) (h : List Byte) (who : Nat) : Nat :=
  let a := hdrAsid h
  let c := s.ctxOf a
  if hdrBad h then 1
  else if (s.ctxSlot a).isNone ∨ a ≠ who then 2
  else if hdrPrio h < c.pcap.toNat ∨ ((hdrWord h 0).testBit 32 ∧ !c.supok) ∨ !s.holdsKey a (hdrKey h) then 3
  else if !s.widthsOk h then 4
  else if !s.hdrPcOk h (hdrEntry h) true ∨ !s.hdrPcOk h (hdrAbort h) true ∨
      ((hdrWord h 0).testBit 30 ∧ !s.hdrPcOk h (hdrThpc h) false) then 5
  else if hdrGmask h = 0 ∨ hdrPkgs h &&& ~~~ s.pod ≠ 0 then 6
  else if !s.tablesOk h ∨ !s.evqOk a h then 7
  else if !s.imagesOk h then 8
  else if !s.ownsHeaps a (hdrWord h 128) then 9
  else if !savesOk h ∨ !((s.hdrTile h).map (tileSegsOk (hdrWord h 80))).getD false then 10
  else 0

/-! ### Acceptance (R273, R274, R344, R361, R390) -/

/-- The kernel of a header. -/
def kernelOf (h : List Byte) (ticket : Nat) : Kernel :=
  { asid := hdrAsid h, keyid := hdrKey h, sup := (hdrWord h 0).testBit 32,
    qsf := (hdrWord h 0).testBit 31, trt := (hdrWord h 0).testBit 30,
    thpc := BitVec.ofNat 64 (hdrThpc h), nlines := hdrLines h, prio := hdrPrio h,
    gmask := BitVec.ofNat 32 (hdrGmask h), pkgset := hdrPkgs h, f5 := BitVec.ofNat 64 (hdrWord h 32),
    banks := BitVec.ofNat 64 (hdrWord h 80), heaps := BitVec.ofNat 64 (hdrWord h 128),
    slice := hdrWord h 120, evq := BitVec.ofNat 64 (hdrWord h 160), evqlg := hdrEvqLg h,
    saveoff := hdrSave h, dcode := hdrDcode h, ticket := ticket, hdr := h }

/-- Extends the measurement of a context by an accepted launch (R344). -/
def State.measure (s : State) (h : List Byte) : State :=
  let d := Config.sm3 (s.hdrCode h ++ s.planeBytes (hdrAsid h) (hdrTimg h) (hdrTimgN h) ++
    h.take 192 ++ natToBytes 40 0 ++ h.drop 232)
  s.modCtx (hdrAsid h) fun c =>
    { c with cmr := Config.sm3 (natToBytes 32 c.cmr.toNat ++ natToBytes 32 d.toNat) }

/-- The default membership of a package whose route table is empty (R390). -/
def State.defaultRoutes (s : State) (pkgs : List Nat) : State :=
  if s.routes.any fun r => r.2.v then s
  else
    { s with
      mctl := setBits s.mctl 56 8 s.own,
      routes := pkgs.foldl (fun m p => m.put p { m.val {} p with v := true, kind := false, pkg := p })
        s.routes }

/-- The slots of a launch become members (R361): those of its packages, and routes beyond the pod. -/
def State.joinRoutes (s : State) (pkgs : List Nat) : State :=
  { s with routes := s.routes.mapVals fun _ r =>
      if r.v ∧ r.st = 0 ∧ (r.kind ∨ pkgs.contains r.pkg) then { r with st := 1 } else r }

/-- The mask of the slots that are members (R362). -/
def State.memberMask (s : State) : BitVec 256 :=
  s.routes.foldl (fun m r => if r.2.st = 1 then m ||| (1#256 <<< r.1) else m) 0

/-- The acceptance of a record: its kernel waits, at the header's priority and at none above `q`, which for a
record of `klaunch` is the priority of its queue (R271, R288). It takes the membership words written last before it; an
MBVA that does not translate under its own context stands as 0 (R360, log 53). -/
def State.acceptLaunch (s : State) (h : List Byte) (q ticket : Nat) : State :=
  let a := hdrAsid h
  let pkgs := s.pkgsOf (hdrPkgs h)
  let s1 := (s.defaultRoutes pkgs).joinRoutes pkgs
  let k := { kernelOf h ticket with
    prio := max q (hdrPrio h), waitNo := s1.nextWait, mmask := s1.memberMask, mctl := s1.mctl,
    mbva := if s1.imageAddr a s1.mbva.toNat then s1.mbva else 0 }
  let s2 := (s1.measure h).modCtx a fun c =>
    { c with nkern := c.nkern + 1, st := 2 }
  { s2 with kernels := s2.kernels.put s2.nextK k, nextK := s2.nextK + 1, nextWait := s2.nextWait + 1 }

/-- Whether a kernel waits for groups. -/
def Kernel.waiting (k : Kernel) : Bool := k.phase != 1

/-- Whether a kernel takes part in the own package. -/
def State.here (s : State) (k : Kernel) : Bool := (s.pkgsOf k.pkgset).contains s.own

/-- The own package's groups of a kernel. -/
def State.groupsOf (s : State) (k : Kernel) : List Nat :=
  if s.here k then (gmaskGroups k.gmask.toNat).map fun g => s.own * 32 + g else []

/-- Whether two kernels need a common group. -/
def State.contend (s : State) (x y : Kernel) : Bool := (s.groupsOf x).any (s.groupsOf y).contains

/-- The order among waiting kernels (R282). -/
def Kernel.before (x y : Kernel) : Bool :=
  decide (x.prio < y.prio) || (x.prio == y.prio &&
    ((x.phase == 3 && y.phase != 3) ||
      ((x.phase == 3) == (y.phase == 3) && decide (x.waitNo < y.waitNo))))

/-! ### Parks that the control plane asks for (R276, R282 to R284) -/

/-- Whether a tile has finished with its kernel, and all that it issued has drained (R180, R285). -/
def Tile.finished (t : Tile) : Bool := t.strands.isEmpty && t.xact.isEmpty && t.restart.isEmpty

/-- Whether every tile of a kernel that has started has finished with it, whatever park is asked for or made (R180,
R284, R285). -/
def State.retirable (s : State) (k : Nat) : Bool :=
  (s.kernAt k).phase != 0 && (s.saves.all fun x => x.kernel != k || x.img.finished) &&
    s.tiles.all fun t => t.2.kernel != some k || t.2.finished

/-- Asks for the park of a kernel's groups: it waits from now on (R282). -/
def State.parkKernel (s : State) (k why : Nat) : State :=
  let gs := s.groupsOf (s.kernAt k)
  let s1 := s.modKern k fun x => { x with phase := why, waitNo := s.nextWait }
  let s2 := gs.foldl (fun (s : State) g =>
    s.modGroup g fun x => { x with parking := max x.parking why }) s1
  { s2 with
    nextWait := s.nextWait + 1,
    tiles := s2.tiles.mapVals fun i t => if gs.contains (groupOfTile i) then t.askPark why false else t }.startParks

/-- Every kernel that holds a group which a waiting launch of higher priority needs parks with PREEMPT; one
that can retire retires instead (R282, R284). -/
def State.preempt (s : State) : State :=
  s.kernels.foldl (fun s h =>
    let x := s.kernAt h.1
    if x.phase = 1 ∧ !s.retirable h.1 ∧
        s.kernels.any (fun w => w.2.waiting && decide (w.2.prio < x.prio) && s.contend w.2 x) then
      s.parkKernel h.1 3
    else s) s

/-! ### LAUNCH_RECORD_TAKE (R270, R273) -/

/-- The record at the head of a queue: the host's ring lies in the notifying context's space, the kernel
queue in own HBM under KEYID 0. -/
def State.readRecord (s : State) (q : Nat) (kq : Bool) (who : Nat) : List Byte :=
  let r := if kq then s.kq.val {} q else s.lq.val {} q
  if kq then (s.rdP 0 (hbmKey s.own (r.base.toNat % 2 ^ 39 + 256 * r.head.toNat)) 256).map (·.1)
  else s.planeBytes who (r.base.toNat + 256 * r.head.toNat) 256

/-- The queue of a context is the one that its last record named (R271, R290). -/
def State.nameEvq (s : State) (asid : Nat) (h : List Byte) : State :=
  s.modCtx asid fun c => { c with evq := BitVec.ofNat 64 (hdrWord h 160), evqlg := hdrEvqLg h }

/-- What becomes of a record: a kernel that waits, or a rejection event (R273, R288). -/
def State.takeRecord (s : State) (h : List Byte) (q ticket who : Nat) : State :=
  let n := s.hdrStatus h who
  if n = 0 then ((s.acceptLaunch h q ticket).nameEvq (hdrAsid h) h).preempt
  else if s.evqOk who h then
    (s.nameEvq who h).postEvent who 4 n (BitVec.ofNat 64 ticket) 0 0
  else s

/-- LAUNCH_RECORD_TAKE (R273). -/
def execLaunchRecordTake (s : State) : Host.Outcome State Fault Refusal :=
  .next (if s.plane.halt then s
    else
      match s.nextQueue with
      | none => s
      | some q =>
        match s.nextOf q with
        | none => s
        | some (kq, tk, who) =>
          let h := s.readRecord q kq who
          let s1 := if kq then { s with kq := s.kq.put q (s.kq.val {} q).pop }
            else { s with lq := s.lq.put q (s.lq.val {} q).pop }
          s1.takeRecord h (if kq then q else 0) tk who)

/-! ### LAUNCH_START (R172, R196, R274, R387, R392) -/

/-- Whether no other waiting kernel goes before this one to a group it needs. -/
def State.turn (s : State) (k : Nat) : Bool :=
  s.kernels.all fun w => w.1 == k || !w.2.waiting || !s.contend w.2 (s.kernAt k) ||
    !w.2.before (s.kernAt k)

/-- Whether every group of a kernel is free, or held by itself. -/
def State.groupsFree (s : State) (k : Nat) : Bool :=
  (s.groupsOf (s.kernAt k)).all fun g =>
    (s.groupAt g).holder.isNone || (s.groupAt g).holder == some k

/-- A kernel takes its groups. -/
def State.takeGroups (s : State) (k : Nat) : State :=
  (s.groupsOf (s.kernAt k)).foldl (fun s g => s.modGroup g fun x =>
    { x with holder := some k, parking := 0 }) (s.modKern k fun x => { x with phase := 1 })

/-- The tiles of a group. -/
def tilesOfGroup (g : Nat) : List Nat := (List.range 32).map fun t => 32 * g + t

/-- Resets a group at a launch: it keeps SAGEP and the TLB entries of the context (R387). -/
def Group.launched (g : Group) (asid : Nat) (mcast : SMap Word) : Group :=
  { g with tlb := g.tlb.filter (fun x => x.asid == asid), fbuf := [], dropc := 0, drop := false,
           mcast := mcast }

/-- Whether a bank's bytes survive the start of a launch (R196): powered, and last used by the same
context; those of the pool need no power. -/
def Tile.keeps (t : Tile) (asid : Nat) (banks : BitVec 64) (off : Nat) : Bool :=
  t.lastAsid == some asid &&
    (decide (poolBase ≤ off) || (t.bankOn.getLsbD (bankOf off) && banks.getLsbD (bankOf off)))

/-- The memory of a tile at the start of a launch: what is not kept is zero and unpoisoned, its instruction
store too (R196, R274). -/
def State.clearTile (s : State) (tile asid : Nat) (banks : BitVec 64) : State :=
  let t := s.tileAt tile
  let lost (a : Nat) : Bool := keyType a == 0 && a / 2 ^ 20 == tile && !t.keeps asid banks (a % 2 ^ 20)
  { s with
    mem := memClear (s.mem.filter fun x => !lost x.1) (codeKey tile 0) (2 ^ 17),
    marks := s.marks.filter fun a => !lost a }

/-- TRC and its ring, which a launch of the same context keeps (R387). -/
def Tile.withTrc (t old : Tile) : Tile :=
  { t with ring := old.ring, trcW := old.trcW, trcR := old.trcR, trcCnt := old.trcCnt,
           trcDiv := old.trcDiv, trcFov := old.trcFov, trcRov := old.trcRov, trcMode := old.trcMode }

/-- A tile at the start of a launch (R196, R274, R387). -/
def State.freshTile (s : State) (old : Tile) (k : Nat) : Tile :=
  let kr := s.kernAt k
  let kept := if old.lastAsid = some kr.asid then old.bankOn &&& kr.banks else 0
  let t : Tile :=
    { kernel := some k, bankOn := kr.banks, bankWaking := kr.banks &&& ~~~ kept,
      lastAsid := some kr.asid, parkt := BitVec.ofNat 64 (hdrWord kr.hdr 112 % 2 ^ 33),
      rcol := s.colours, dirty := if kept = 0 then 0 else BitVec.allOnes 256,
      flips := old.flips.filter fun f => old.keeps kr.asid kr.banks f.1 }
  if old.lastAsid = some kr.asid then t.withTrc old else t

/-- The work identifier of the entry strand of a tile (R61, R172). -/
def State.entryWid (s : State) (kr : Kernel) (tile : Nat) : Word :=
  let w : Word := BitVec.ofNat 64 (hdrWord kr.hdr 24)
  let m := kr.gmask.toNat
  let g := tile / 32 % 32
  let pos (xs : List Nat) (x : Nat) : Nat := (xs.findIdx? (· == x)).getD 0
  let f : List Nat := [0, tile % 32, pos (gmaskOfDie m (g / 8)) g, pos (gmaskDies m) (g / 8),
    pos (s.pkgsOf kr.pkgset) s.own, kr.f5.toNat]
  (List.range 6).foldl (fun (x : Word) i => setBits x (fieldLo w i) (fieldW w i) (f.getD i 0)) 0

/-- The entry strand of a tile (R274). -/
def State.entryStrand (s : State) (kr : Kernel) (tile : Nat) : Strand :=
  let h := kr.hdr
  let wid := s.entryWid kr tile
  { kind := 1, pri := bitsN (hdrWord h 88) 5 3, pc := BitVec.ofNat 64 (hdrEntry h), wid := wid,
    widw := BitVec.ofNat 64 (hdrWord h 24), sup := kr.sup, rngs := rngsStart wid,
    abortPc := BitVec.ofNat 64 (hdrAbort h),
    g := (List.range 5).foldl (fun g i => g.put (i + 1) (BitVec.ofNat 64 (hdrWord h (192 + 8 * i)))) [] }

/-- Writes the code of a kernel into a tile's instruction store (R230, R274). -/
def State.loadCode (s : State) (tile : Nat) (code : List Byte) : State :=
  { s with mem := wrBytes s.mem (codeKey tile 0) code }

/-- Starts a kernel on a tile (R274 steps 1 to 4). -/
def State.startTile (s : State) (k : Nat) (code : List Byte) (segs : List (Nat × List Byte)) (tile : Nat) :
    State :=
  let kr := s.kernAt k
  let old := s.tileAt tile
  let s1 := (s.clearTile tile kr.asid kr.banks).modTileAt tile fun _ => s.freshTile old k
  let s2 := segs.foldl (fun s x => s.stBytes tile x.1 x.2 false) (s1.loadCode tile code)
  let s3 := (List.range 64).foldl (fun s r => s.stNum tile (recAddr r + 16) 8 0 false) s2
  let st := { s.entryStrand kr tile with since := s.freeCtr }
  (s3.modTileAt tile fun t => { t with strands := [(0, st)], ready := [0] }).writeRecord tile 0

/-- The domain of a level and unit at the start of a launch (R200). -/
def startDomain (h : List Byte) (level : Nat) : Domain :=
  { pol := (hdrWord h 88).testBit (level - 1),
    tmo := BitVec.ofNat 16 (if level = 5 then bitsN (hdrWord h 104) 0 16
      else bitsN (hdrWord h 96) (16 * (level - 1)) 16) }

/-- The domains of a kernel at its start. -/
def State.startDomains (s : State) (k : Nat) (tiles : List Nat) : State :=
  let h := (s.kernAt k).hdr
  tiles.foldl (fun s t => (List.range 5).foldl (fun s l =>
    s.modDom (l + 1) (k * 2 ^ 18 + unitOf (l + 1) t) fun _ => startDomain h (l + 1)) s) s

/-- A multicast entry (R243): V and MASK; its reserved bits read zero. -/
def mcastWord (x : Nat) : Word := BitVec.ofNat 64 (bitsN x 63 1 * 2 ^ 63 + bitsN x 0 32)

/-- The multicast entries that a launch loads (R243, R274). -/
def State.hdrMcast (s : State) (h : List Byte) : SMap Word :=
  if hdrWord h 136 = 0 then []
  else
    (List.range 64).foldl (fun m i =>
      m.put i (mcastWord (bytesToNat (s.planeBytes (hdrAsid h) (hdrWord h 136 + 8 * i) 8 false)))) []

/-- The code image in the memory of each die of a kernel, under the launch KEYID (R274 step 1, R343). -/
def State.dieCode (s : State) (k : Nat) (code : List Byte) : State :=
  let kr := s.kernAt k
  if s.here kr then
    (gmaskDies kr.gmask.toNat).foldl
      (fun s d => s.wrP kr.keyid (dieKey s.own d kr.dcode) (clean code)) s
  else s

/-- The load of an image at the start: one that R252 rejects by then is not written. -/
def State.loadImage (s : State) (i x : Nat) : State :=
  if s.imageFits i x then s.modEntry i fun e => e.withImage x else s

/-- The start of a launch on all its groups together (R274). -/
def State.startKernel (s : State) (k : Nat) : State :=
  let kr := s.kernAt k
  let h := kr.hdr
  let code := s.hdrCode h
  let mc := s.hdrMcast h
  let segs := (s.hdrTile h).getD []
  let gs := s.groupsOf kr
  let tiles := gs.flatMap tilesOfGroup
  let s1 := (s.takeGroups k).dieCode k code
  let s2 := gs.foldl (fun s g => s.modGroup g fun x => x.launched kr.asid mc) s1
  let s3 := (List.range (hdrImages h)).foldl (fun s n => s.loadImage (hdrTtFirst h + n) (s1.hdrImage h n)) s2
  tiles.foldl (fun s t => s.startTile k code segs t) (s3.startDomains k tiles)

/-- Whether a launch can start: its groups are free, and its context runs (R267, R274; log 38). -/
def State.startDue (s : State) (k : Nat) : Bool :=
  ((s.kernels.val? k).map fun x => x.phase == 0).getD false && s.turn k && s.groupsFree k &&
    (s.ctxOf (s.kernAt k).asid).st == 2 && !s.plane.halt

/-- LAUNCH_START (R274). -/
def execLaunchStart (k : Nat) (s : State) : Host.Outcome State Fault Refusal :=
  stepIf (s.startDue k) s (s.startKernel k)

end Sys2Proof.Machine
end

