-- ==== Sys2Proof/Machine/SaveSlot.lean ====
section
/-! DEFINITION. The save slot of a tile: the coded regions of its SRAM, its restart records and its tables
(R53, R155, R164, R277 to R281). -/

namespace Sys2Proof.Machine

/-! ### Register descriptors (R53, R155) -/

/-- A register descriptor from its fields (R53). -/
def descWord (gen src : Nat) (drop sovf : Bool) (sexp tag blk : Nat) : Word :=
  BitVec.ofNat 64 (gen * 2 ^ 48 + src * 2 ^ 43 + b2n drop * 2 ^ 42 + b2n sovf * 2 ^ 41 + sexp * 2 ^ 33 +
    tag * 2 ^ 8 + blk)

/-- The descriptors of `v`, `m`, `a` and `tb` registers (R53). -/
def VReg.desc (v : VReg) : Word := descWord 0 0 false false 0x80 v.tag.toNat v.blk.toNat
def MReg.desc (m : MReg) : Word := descWord m.gen.toNat 0 false false 0x80 m.tag.toNat m.blk.toNat
def AReg.desc (a : AReg) : Word := descWord 0 0 false a.sovf a.sexp.toNat 2 0x80
def TbReg.desc (t : TbReg) : Word :=
  descWord t.gen.toNat (t.src % 32) t.drop false 0x80 t.tag.toNat t.blk.toNat

/-- The build word of a `tb` register (R155). -/
def TbReg.build (t : TbReg) : Word :=
  BitVec.ofNat 64 (t.pois.toNat * 2 ^ 32 + b2n t.changed * 2 ^ 31 + b2n t.mode * 2 ^ 30 +
    t.q % 4 * 2 ^ 28 + t.sfmt.toNat * 2 ^ 24 + t.eb.toNat * 2 ^ 8 + t.et.toNat)

/-! ### What a slot holds -/

/-- KEYID and first byte of a tile's save slot (R280). -/
def State.slotAt (s : State) (k tile : Nat) : Nat × Nat :=
  let kr := s.kernAt k
  (kr.keyid, dieKey (pkgOfTile tile) (tile / 256 % 4) (kr.saveoff + 2 ^ 21 * (tile % 256)))

/-- Places in a slot that R277 leaves open (log 37): restart records, the tables of a claim, the other registers. -/
def slotRecords : Nat := 0x110000
def slotOthers : Nat := 0x140000
def slotTable (j : Nat) : Nat := 0x120000 + 0x3000 * j

/-- The bytes of a region of a tile's SRAM; those in gated banks are not saved (R278). -/
def State.regionOf (s : State) (tile i : Nat) : List PByte :=
  (s.rdP 0 (sramKey tile (4096 * i)) 4096).zipIdx.map fun x =>
    if (s.tileAt tile).gated (4096 * i + x.2) then (0, false) else x.1

/-- One poison mark for each eight bytes. -/
def markBits : List PByte → Nat
  | a :: _ :: _ :: _ :: _ :: _ :: _ :: _ :: rest => b2n a.2 + 2 * markBits rest
  | _ => 0

/-- Whether bytes repeat their first eight. -/
def repeats8 (bs : List Byte) : Bool := bs.drop 8 == bs.take (bs.length - 8)

/-- The kind of a region (R278): the first rule that fits it. -/
def regionKind (bs : List PByte) : Nat :=
  if bs.all fun b => b == (0, false) then 1
  else if (bs.all fun b => !b.2) && repeats8 (bs.map (·.1)) then 2
  else 3

/-- The header of a region (R278). -/
def regionHeader (kd i : Nat) : List Byte := natToBytes 8 (kd % 4 + 4 * (i % 256))

/-- A region as step 4 codes it, piece by piece (R278). -/
def regionPieces (i : Nat) (bs : List PByte) : List (List Byte) :=
  let kd := regionKind bs
  regionHeader kd i ::
    (match kd with
     | 1 => []
     | 2 => [(bs.take 8).map (·.1)]
     | _ => [bs.map (·.1), natToBytes 64 (markBits bs)])

/-- A restart record (R279). -/
def restartBytes (word : BitVec 96) (ri : Nat) (started held : Bool) (ops : List Word) (chunk : Nat) :
    List Byte :=
  natToBytes 12 word.toNat ++ natToBytes 4 (ri % 32 + 32 * b2n started + 64 * b2n held) ++
    ((List.range 4).flatMap fun i => natToBytes 8 (ops.getD i 0).toNat) ++ natToBytes 8 chunk ++ natToBytes 8 0

/-- The restart record of a queued table command (R169, R279). -/
def tableRecord (ri : Nat) (c : TCmd) : List Byte :=
  restartBytes ((encode c.instr).getD 0) ri false false [0, c.x.1, c.y.1, c.z.1] 0

/-- The records of a tile in their order: started exchange commands, then those queued by each strand. -/
def Tile.restartRecords (t : Tile) : List (List Byte) :=
  (t.restart.map fun c => restartBytes c.word c.ri true c.wasHeld c.ops (c.from0 / 2048)) ++
    t.strands.flatMap fun p =>
      (p.2.tq.map (tableRecord p.1)) ++
      p.2.xq.map fun c => restartBytes c.word p.1 false false c.ops 0

/-- The saved form of a table register (R164). -/
def Tile.savedTb (t : Tile) (b : TbReg) : List Byte :=
  natToBytes 8 b.desc.toNat ++ natToBytes 8 b.build.toNat ++
    (if b.tag = 0 then []
     else (if b.mode then (b.book ++ natToBytes 16 0).take 16 else []) ++
      if b.drop ∨ !t.sourceGone b then [] else natToBytes 10240 b.ents.toNat)

/-! ### The registers of a tile in its slot (R277 step 5; the form is the model's, log 37) -/

/-- A register in a slot: its kind, its number, the bytes that follow. -/
def slotReg (kind i : Nat) (bs : List Byte) : List Byte :=
  natToBytes 8 (kind % 256 + i % 2 ^ 16 * 2 ^ 8 + bs.length * 2 ^ 32) ++ bs

/-- Words of 8 bytes. -/
def slotWords (xs : List Nat) : List Byte := xs.flatMap (natToBytes 8)

/-- TRC (R228). -/
def Tile.trc (t : Tile) : Word :=
  BitVec.ofNat 64 (t.trcW % 256 * 2 ^ 26 + t.trcR % 256 * 2 ^ 18 + t.trcCnt * 2 ^ 9 +
    b2n t.trcDiv * 32 + b2n t.trcFov * 16 + b2n t.trcRov * 8 +
    b2n (t.trcMode == 2 && !t.heldW.isEmpty) * 4 + t.trcMode % 4)

/-- The park word (R276). -/
def Tile.parkWord (t : Tile) : Word :=
  BitVec.ofNat 64 (t.parkSt % 4 * 2 ^ 32 + if t.parkSt = 0 then 0 else t.parkWhy % 8)

/-- The state word of a reference register (R55). -/
def HReg.word (h : HReg) : BitVec 32 :=
  BitVec.ofNat 32 (b2n h.poi * 2 ^ 23 + b2n h.unh * 2 ^ 22 + b2n h.hbv * 2 ^ 21 + h.hba.toNat)

/-- A place of a load queue: its value, and whether it is poisoned, still to be pushed, or still to land. -/
def QPlace.saved (p : QPlace) : List Byte :=
  match p with
  | .held v p => slotWords [v.toNat, b2n p]
  | .load v p => slotWords [v.toNat, 2 + b2n p]
  | .land c => slotWords [c, 4]

/-- The registers of a thread slot (R58, R277). -/
def Strand.slotRegs (st : Strand) : List (List Byte) :=
  slotReg 2 0 (slotWords [st.pc.toNat, st.wid.toNat, st.widw.toNat, st.status.toNat, st.rngs.toNat, st.epc.toNat,
    st.ecause.toNat, st.abortPc.toNat, b2n st.frameRpt * 256 + st.frameIdx, st.repidx, st.gp.toNat]) ::
    (st.g.map fun x => slotReg 3 x.1 (slotWords [x.2.toNat])) ++
    (st.k.map fun x => slotReg 4 x.1 (slotWords [x.2.toNat])) ++
    (st.h.map fun x => slotReg 5 x.1 (slotWords [x.2.val.toNat, x.2.word.toNat])) ++
    (st.v.map fun x => slotReg 6 x.1 (natToBytes 256 x.2.lanes.toNat ++ slotWords [x.2.pois.toNat, x.2.desc.toNat])) ++
    (st.region.toList.map fun x => slotReg 7 0 (slotWords [x.entry.toNat, x.rngs.toNat, x.pkt, x.count]))

/-- The queue states of a strand (R62, R277): entries, pending drains, depths. -/
def Strand.slotQueues (st : Strand) : List (List Byte) :=
  (st.lq.map fun x => slotReg 8 x.1 (x.2.flatMap QPlace.saved)) ++
    (st.sq.map fun x => slotReg 9 x.1 (x.2.flatMap fun e => slotWords [e.1.toNat, b2n e.2])) ++
    (st.drains.map fun x => slotReg 10 x.1 (x.2.flatMap fun d => slotWords [d.ea, d.bytes, b2n d.ppass])) ++
    (st.dep.map fun x => slotReg 11 x.1 (slotWords [x.2]))

/-- The registers of a tile (R277 step 5): for each record its directory entry and, of a strand in a slot, its
registers; then claims with their `m` and `a` registers and stages, claim queues, PWL table, Thyme ring, TRC, race
filter, superstep counters and park word. -/
def Tile.slotRegs (t : Tile) : List (List Byte) :=
  (t.strands.flatMap fun p =>
    slotReg 1 p.1 (slotWords [p.2.slot.getD 8, p.2.kind, p.2.desc.toNat, p.2.claim.getD 4, b2n p.2.mreq.isSome]) ::
      (if p.2.slot.isSome then p.2.slotRegs else []) ++ p.2.slotQueues) ++
    (t.m.map fun x => slotReg 12 x.1 (natToBytes 4096 x.2.data.toNat ++ natToBytes 512 x.2.pois.toNat ++
      slotWords [x.2.desc.toNat])) ++
    (t.a.map fun x => slotReg 13 x.1 (natToBytes 4096 x.2.c.toNat ++ natToBytes 6144 x.2.stage.toNat ++
      natToBytes 128 x.2.pois.toNat ++ slotWords [x.2.desc.toNat])) ++
    [slotReg 14 0 (slotWords t.ready), slotReg 15 0 (slotWords t.mwait),
     slotReg 16 t.pwln (t.pwl.flatMap fun x => slotWords [x.1 * 2 ^ 32 + x.2.toNat])] ++
    (t.ring.map fun x => slotReg 17 x.1 (natToBytes 16 x.2.toNat)) ++
    [slotReg 18 0 (slotWords [t.trc.toNat]),
     slotReg 19 0 (slotWords (t.filter.map fun f => f.1 + f.2.1 * 2 ^ 15 + f.2.2.1 * 2 ^ 33 + b2n f.2.2.2 * 2 ^ 36)),
     slotReg 20 0 (slotWords (t.ssc.map fun x => x.1 * 2 ^ 32 + x.2.toNat)),
     slotReg 21 0 (slotWords [t.parkWord.toNat]), natToBytes 8 0]

/-- Writes pieces one after another. -/
def State.wrPieces (s : State) (kid a : Nat) : List (List Byte) → State
  | [] => s
  | x :: xs => (s.wrP kid a (x.map fun b => (b, false))).wrPieces kid (a + x.length) xs

/-- Writes a tile's save slot (R277 steps 4 and 5, R278 to R280): its dirty regions, its restart records, the
tables of its claims, its other registers. A restore takes these from the tile itself, or from `Saved`, which hold
the same (log 37). -/
def State.saveSlot (s : State) (k tile : Nat) : State :=
  let (kid, base) := s.slotAt k tile
  let is := (List.range 256).filter (s.tileAt tile).dirty.getLsbD
  let s1 := is.foldl (fun s i => s.meetFlips tile (4096 * i) 4096) s
  let t := s1.tileAt tile
  let recs := t.restartRecords
  let js := (List.range 8).filter fun j => t.strands.any fun p => p.2.claim == some (j / 2)
  let s2 := s1.wrPieces kid base ((is.flatMap fun i => regionPieces i (s1.regionOf tile i)) ++ [natToBytes 8 0])
  let s3 := s2.wrPieces kid (base + slotRecords) (natToBytes 8 recs.length :: recs)
  let s4 := js.foldl (fun s j => s.wrPieces kid (base + slotTable j) [t.savedTb (t.rtb j)]) s3
  s4.wrPieces kid (base + slotOthers) t.slotRegs

/-- Puts the marks of a region back: one for each eight bytes. -/
def putMarks (m : Marks) (a x : Nat) : Nat → Marks
  | 0 => m
  | n + 1 => putMarks (if x % 2 = 1 then setMark m a else m) (a + 8) (x / 2) n

/-- Puts the regions of a slot back from a header on, n at most (R278). -/
def State.putRegions (s : State) (tile kid a : Nat) : Nat → State
  | 0 => s
  | n + 1 =>
    let h := s.rdNum kid a 8
    let r := sramKey tile (4096 * bitsN h 2 8)
    match h % 4 with
    | 0 => s
    | 1 => s.putRegions tile kid (a + 8) n
    | 2 =>
      let w := (s.rdP kid (a + 8) 8).map (·.1)
      let bs := (List.range 512).flatMap fun _ => w
      { s with mem := wrBytes s.mem r bs }.putRegions tile kid (a + 16) n
    | _ =>
      let bs := (s.rdP kid (a + 8) 4096).map (·.1)
      { s with
        mem := wrBytes s.mem r bs,
        marks := putMarks s.marks r (s.rdNum kid (a + 4104) 64) 512 }.putRegions tile kid (a + 4168) n

/-- The SRAM of a tile as its save slot gives it: a clean region reads as zero (R278). -/
def State.restoreRegions (s : State) (k tile : Nat) : State :=
  let a := sramKey tile 0
  let (kid, base) := s.slotAt k tile
  { s with
    mem := memClear s.mem a (2 ^ 20),
    marks := s.marks.filter fun g => !(decide (a ≤ g) && decide (g < a + 2 ^ 20)) }.putRegions tile kid base 256

end Sys2Proof.Machine
end

