-- ==== Sys2Proof/Machine/Parks.lean ====
section
/-! DEFINITION. Retirement, parks, evictions and restores of tiles, the stop of a context, and the event
consumer word (R276 to R285, R290, R305, R333). -/

namespace Sys2Proof.Machine

/-! ### RETIREMENT and SLICE_EXPIRY (R282, R284, R285) -/

/-- RETIREMENT (R285): the freed groups go to whoever waits. -/
def execRetirement (k : Nat) (s : State) : Host.Outcome State Fault Refusal :=
  stepIf ((s.kernels.val? k).isSome && s.retirable k && !s.plane.halt) s (s.retireKernel k).preempt

/-- Whether a holder's slice may expire: it is sliced, another kernel of its priority waits for one of its
groups, and it does not retire instead (R282, R284). -/
def State.sliceDue (s : State) (k : Nat) : Bool :=
  let x := s.kernAt k
  (s.kernels.val? k).isSome && x.phase == 1 && x.slice != 0 && !s.retirable k && !s.plane.halt &&
    s.kernels.any fun w => w.2.waiting && w.2.prio == x.prio && s.contend w.2 x

/-- A slice boundary of a kernel's groups: a tile that `park` has parked may be restored from now on (R281). -/
def State.sliceBoundary (s : State) (k : Nat) : State :=
  { s with tiles := s.tiles.mapVals fun _ t => if t.kernel = some k then { t with parkBy := false } else t }

/-- SLICE_EXPIRY (R281, R282): the groups of a sliced holder come to a slice boundary, and park where another
kernel of its priority waits for one. -/
def execSliceExpiry (k : Nat) (s : State) : Host.Outcome State Fault Refusal :=
  stepIf ((s.kernels.val? k).isSome && (s.kernAt k).phase == 1 && (s.kernAt k).slice != 0 && !s.plane.halt) s
    (if s.sliceDue k then ((s.sliceBoundary k).parkKernel k 2).preempt else s.sliceBoundary k)

/-! ### TILE_PARK (R277 to R279) -/

/-- Whether every request that a tile sent has come back, and its open packets have closed (R277, R279). -/
def Tile.quiesced (t : Tile) : Bool :=
  t.strands.all (fun p => p.2.slot.isNone || (p.2.pkt.isNone && !t.lags p.2)) && t.heldW.isEmpty &&
    t.xact.all fun a => a.reqs.all (·.atRest) &&
      (!a.cmd.kind.isXop || a.reqs.isEmpty)

/-- The restart record of an active command (R279): its restart point; under `.rel` nothing has been counted,
so it starts again. -/
def XAct.restarts (a : XAct) : XCmd :=
  { a.cmd with from0 := if a.cmd.rel then 0 else a.counted, wasHeld := a.held.isSome }

/-- A park ends the pair of a strand after a compare, and closes its open region (R351, R355). -/
def State.closeForPark (s : State) (tile r : Nat) : State :=
  let st := s.strandAt tile r
  if st.slot.isNone ∨ st.folw then s
  else
    let s1 := if st.partner.isSome then
        (if s.pairAgrees tile r then s else s.pairMismatch tile r).endPair tile r else s
    s1.modStrandAt tile r Strand.closeRegion

/-- A table register at a park, as R164 restores it: one held with its source unchanged comes back dropped. -/
def Tile.parkTb (t : Tile) (b : TbReg) : TbReg :=
  if b.tag = 0 ∨ b.drop ∨ t.sourceGone b then b else b.dropped

/-- What a park does to a strand's own state: its vector grant is released and a request for one withdrawn
(R120, R121); a wait in the slot starts again (R108). -/
def Strand.parked (st : Strand) : Strand :=
  { st with vq := 0, vage := 0, vl := 0, vreq := none, stall := none, hold := 0, pktStop := none }

/-- What a park does to a tile's own state: table and exchange commands stay as restart records, started ones
among them; waiting claim requests are withdrawn until the restore (R147, R169, R265, R277, R279). -/
def Tile.parked (t : Tile) : Tile :=
  let gone := t.xact.filter (!·.outside)
  { t with
    parkSt := 1, restart := t.restart ++ gone.map XAct.restarts, xact := t.xact.filter (·.outside),
    land := [], vwin := none, vwait := [], mwait := [], tb := t.tb.mapVals fun _ b => t.parkTb b,
    strands := t.strands.mapVals fun _ st => st.parked,
    errinj := if errTgt t.errinj = 5 then t.errinj else errinjDropped t.errinj }

/-- The last steps of a park (R173, R277, R358): queued vector commands complete, the records of the strands in
slots are written, and the save slot. -/
def State.parkTile (s : State) (tile : Nat) : State :=
  let gone := (s.tileAt tile).xact.filter (!·.outside)
  let s1 := (s.tileAt tile).strands.foldl (fun s p => s.closeForPark tile p.1) s
  let s2 := gone.foldl (fun s a => s.leaveMisses tile a.cmd.no) s1
  let s4 := (s2.vecComplete tile).modTileAt tile Tile.parked
  let s5 := (s4.tileAt tile).strands.foldl
    (fun s p => if p.2.folw || p.2.slot.isNone then s else s.writeRecord tile p.1) s4
  s5.saveSlot ((s.tileAt tile).kernel.getD 0) tile

/-- Whether the park of a tile for a reason can end. -/
def State.parkDue (s : State) (tile reason : Nat) : Bool :=
  let t := s.tileAt tile
  t.parkSt == 0 && reason != 0 && t.parkWhy == reason && t.kernel.isSome && !t.freezeReq && t.quiesced

/-- TILE_PARK (R277): the next group of the die may then begin (R283). -/
def execTilePark (tile reason : Nat) (s : State) : Host.Outcome State Fault Refusal :=
  stepIf (s.parkDue tile reason) s (s.parkTile tile).startParks

/-! ### GROUP_EVICT (R278, R281) -/

/-- Takes a tile's share of a kernel off the tile: the slot is written as the tile stands now (R278, R281). -/
def State.evictTile (s : State) (k tile : Nat) : State :=
  let s1 := s.saveSlot k tile
  let x : Saved := { kernel := k, tile := tile, img := { s1.tileAt tile with parkSt := 2, flips := [] } }
  let s2 := s1.freeTile tile
  { s2 with saves := s2.saves ++ [x] }

/-- Whether a group is parked and another kernel takes it. -/
def State.evictDue (s : State) (g : Nat) : Bool :=
  match (s.groupAt g).holder with
  | none => false
  | some k =>
    (s.groupAt g).parking != 0 && (s.kernAt k).waiting && !s.plane.halt &&
      (tilesOfGroup g).all (fun t => !(s.tileAt t).freezeReq) &&
      (tilesOfGroup g).all (fun t => (s.tileAt t).kernel != some k || (s.tileAt t).parkSt == 1) &&
      s.kernels.any fun w => w.1 != k && w.2.waiting && w.2.before (s.kernAt k) &&
        (s.groupsOf w.2).contains g

/-- GROUP_EVICT (R281): the frames of its tiles are not present from now on. -/
def State.evictGroup (s : State) (g : Nat) : State :=
  match (s.groupAt g).holder with
  | none => s
  | some k =>
    let ts := (tilesOfGroup g).filter fun t => (s.tileAt t).kernel == some k
    (ts.foldl (fun s t => s.evictTile k t) s).modGroup g fun x => { x with holder := none, parking := 0 }

def execGroupEvict (g : Nat) (s : State) : Host.Outcome State Fault Refusal :=
  stepIf (s.evictDue g) s (s.evictGroup g)

/-! ### TILE_RESTORE (R279, R281, R333) -/

/-- The save slot of a tile whose kernel may have its groups again. -/
def State.savedFor (s : State) (tile : Nat) (ok : Nat → Bool) : Option Saved :=
  s.saves.find? fun x => x.tile == tile && ok x.kernel

/-- Whether a waiting kernel can take its groups now. -/
def State.canHold (s : State) (k : Nat) : Bool :=
  (s.kernAt k).phase == 1 || ((s.kernAt k).phase != 0 && s.turn k && s.groupsFree k)

/-- Whether another kernel than the holder waits for the group of a tile (R281). -/
def State.wanted (s : State) (tile k : Nat) : Bool :=
  s.kernels.any fun w => w.1 != k && w.2.waiting && (s.groupsOf w.2).contains (groupOfTile tile)

/-- Whether a tile that is parked and resident is to be restored: a threshold park by a runnable record, one
by `park` if no other kernel waits, a group park when the kernel may hold its groups, a stop when its
context has been resumed. -/
def State.residentDue (s : State) (tile k : Nat) : Bool :=
  let t := s.tileAt tile
  match t.parkWhy with
  | 1 => (s.kernAt k).phase == 1 && !t.ready.isEmpty && (!t.parkBy || !s.wanted tile k)
  | 4 => (s.ctxOf (s.kernAt k).asid).stop == 0 && s.canHold k
  | _ => s.canHold k

/-- A heap register at a restore (R333). -/
def HReg.restored (x : HReg) (rcol : Word) : HReg :=
  if refV x.val then { x with unh := x.unh || refC x.val != rcol.getLsbD (refRg x.val) } else x

/-- A restart record enters the engine again (R279). -/
def State.reenter (s : State) (tile : Nat) (c : XCmd) : State :=
  let s1 := if c.wasHeld then s.heldCount tile c false else s
  match c.kind, c.src with
  | .xop _, .loc b => s1.startXop tile b { c with wasHeld := false }
  | _, _ => s1.activate tile { c with wasHeld := false } []

/-- The commands that wait for an evicted tile retranslate (R281). -/
def State.replayAway (s : State) (tile : Nat) : State :=
  { s with tiles := s.tiles.mapVals fun _ t =>
      { t with xact := t.xact.map fun a => if a.evict = some tile then { a with replay := true } else a } }

/-- The strands whose claim request a park has withdrawn: they ask again by ascending thread slot
(R147); those in no slot ask last, by record (DESIGN CHOICE, log 37). -/
def Tile.askers (t : Tile) : List Nat :=
  let ask := t.strands.filter fun p => p.2.mreq.isSome && !p.2.folw
  ((List.range 8).flatMap fun n => (ask.filter fun p => p.2.slot == some n).map (·.1)) ++
    (ask.filter fun p => p.2.slot.isNone).map (·.1)

/-- A tile's own state as it is restored: the issue pointer as at a launch (R185), waiting claim requests
(R147), the colours of its references (R333). -/
def Tile.woken (t : Tile) : Tile :=
  { t with
    parkSt := 0, parkWhy := 0, parkAsk := 0, parkBy := false, parkCnt := 0, restart := [], lateArm := [],
    issT := 7, bonus := false, mwait := t.askers,
    strands := t.strands.mapVals fun _ st =>
      { st with stall := none, hold := 0, h := st.h.mapVals fun _ x => x.restored t.rcol } }

/-- A parked tile runs again: restart records, arrivals kept for it. -/
def State.wakeTile (s : State) (tile : Nat) : State :=
  let t := s.tileAt tile
  let s1 := s.modTileAt tile Tile.woken
  let s2 := t.restart.foldl (fun s c => s.reenter tile c) s1
  let s3 := t.lateArm.foldl (fun s x => s.arriveFlag tile x.1 x.2.1 x.2.2.1 x.2.2.2) s2
  t.strands.foldl (fun s p => s.reap tile p.1) (s3.replayAway tile)

/-- The code of a kernel from the image in its die's memory (R67, R281). -/
def State.reloadCode (s : State) (tile k : Nat) : State :=
  let kr := s.kernAt k
  let n := 64 * (kr.nlines + 1)
  let bs := (s.rdP kr.keyid (dieKey (pkgOfTile tile) (tile / 256 % 4) kr.dcode) n).map (·.1)
  { s with mem := wrBytes (memClear s.mem (codeKey tile 0) (2 ^ 17)) (codeKey tile 0) bs }

/-- A context as a restore takes it: a register whose descriptor carries a tag of 12 to 15 is rejected and stays as
it is at reset (R11, R44). -/
def Tile.legal (t : Tile) : Tile :=
  { t with
    m := t.m.filter fun p => decide (p.2.tag < 12), tb := t.tb.filter fun p => decide (p.2.tag < 12),
    strands := t.strands.mapVals fun _ st => { st with v := st.v.filter fun p => decide (p.2.tag < 12) } }

/-- Puts an evicted tile's context back: the regions of its slot, and a clean region as zero (R278). -/
def State.unsave (s : State) (x : Saved) : State :=
  let s1 := { s.restoreRegions x.kernel x.tile with saves := s.saves.erase x }
  (s1.modTileAt x.tile fun _ => { x.img.legal with parkSt := 1, rcol := s.colours }).reloadCode x.tile x.kernel

/-- A stopped strand returns as `tret` does (R286, R287). -/
def Strand.resumed (st : Strand) : Strand :=
  { st.trapReturn with pc := st.epc, target := none, stall := none }

/-- The return of a stopped strand (R286, R287): with ECAUSE zero it is the software trap; an EPC that was
written since is checked as a transfer (R71). -/
def State.returnStopped (s : State) (who : Nat × Nat) : State :=
  let st := s.strandAt who.1 who.2
  if ((s.tileAt who.1).strands.val? who.2).isNone then s
  else if st.ecause = 0 then s.takeTrap who.1 who.2 .software 0
  else if st.epcw ∧ s.targetBad who.1 st.epc then s.takeTrap who.1 who.2 .target 0
  else s.modStrandAt who.1 who.2 Strand.resumed

/-- A tile of a kernel whose context is stopped stays parked with STOP; in a context that runs again, the
strands that stopped it return where a resume found their tile evicted (R286). -/
def State.wakeOrStop (s : State) (tile k : Nat) : State :=
  let asid := (s.kernAt k).asid
  if (s.ctxOf asid).stop = 0 then
    let who := (s.ctxOf asid).stoppers.filter fun w => w.1 == tile
    let s1 := s.modCtx asid fun c => { c with stoppers := c.stoppers.filter fun w => w.1 != tile }
    who.foldl (fun s w => s.returnStopped w) (s1.wakeTile tile)
  else s.modTileAt tile fun t => { t with parkWhy := 4 }

/-- A kernel that waits takes its groups again. -/
def State.holdAgain (s : State) (k : Nat) : State :=
  if (s.kernAt k).phase = 1 then s else s.takeGroups k

/-- The restore of a tile, if one is due. -/
def State.restore? (s : State) (tile : Nat) : Option State :=
  let t := s.tileAt tile
  if s.plane.halt ∨ t.freezeReq then none
  else
    match t.kernel with
    | some k =>
      if t.parkSt = 1 ∧ s.residentDue tile k then some ((s.holdAgain k).wakeOrStop tile k) else none
    | none =>
      match s.savedFor tile s.canHold with
      | some x => some (((s.holdAgain x.kernel).unsave x).wakeOrStop tile x.kernel)
      | none => none

/-- TILE_RESTORE (R281). -/
def execTileRestore (tile : Nat) (s : State) : Host.Outcome State Fault Refusal :=
  orStay (s.restore? tile) s

/-! ### FREEZE_REQUEST (R359) -/

/-- A write of a tile's freeze word (R11, R359): REQ 1 freezes and 0 thaws, for the supervisor's session or one keyed to
the tile's context; a reserved bit rejects it, FRZD is read only. -/
def State.freezeWrite (s : State) (tile : Nat) (w : FreezeWrite) : Option State :=
  let req := w.value.getLsbD 0
  let owner := (s.tileAt tile).kernel.isSome && s.asidOf tile == w.asid
  if bitsN w.value.toNat 2 62 ≠ 0 ∨ !(w.supervisor || owner) then none
  else
    some ((s.modTileAt tile fun t => { t with freezeReq := req, frozen := t.frozen && req }).thawPort tile)

/-- FREEZE_REQUEST (R359). -/
def execFreezeRequest (tile : Nat) (w : FreezeWrite) (s : State) : Host.Outcome State Fault Refusal :=
  .next (s.answered (s.freezeWrite tile w))

/-! ### SUPERVISOR_STOP (R276) -/

/-- SUPERVISOR_STOP (R276): every tile of a running context parks with STOP. -/
def execSupervisorStop (asid : Nat) (s : State) : Host.Outcome State Fault Refusal :=
  stepIf ((s.ctxOf asid).st == 2 && !s.plane.halt) s (s.stopCtx asid 3 none)

/-! ### EVC_HEAD_WRITE (R290) -/

/-- The sequence number of the next event still to be written. -/
def Ctx.nextEvent (c : Ctx) : BitVec 32 :=
  match c.backlog with
  | e :: _ => e.seq
  | [] => c.evNext

/-- A write of HEAD: one beyond the next event is taken as that one; the backlog is written as far as it
may (R290). -/
def State.headWrite (s : State) (asid : Nat) (head : BitVec 32) : State :=
  let c := s.ctxOf asid
  let h := if (c.nextEvent - c.evHead).toNat < (head - c.evHead).toNat then c.nextEvent else head
  (s.modCtx asid fun c => { c with evHead := h }).flushEvents asid 17

/-- EVC_HEAD_WRITE (R290): by the supervisor's session or one keyed to the context. -/
def execEvcHeadWrite (asid : Nat) (head : BitVec 32) (s : State) : Host.Outcome State Fault Refusal :=
  stepIf (!s.plane.halt) s ((s.headWrite asid head).told true)

end Sys2Proof.Machine
end

