-- ==== Sys2Proof/Machine/Plane.lean ====
section
/-! DEFINITION. The voted control plane, the patrol scrub, the ageing monitors, power and temperature (R347,
R356, R357, R377 to R385). -/

namespace Sys2Proof.Machine

/-! ### The vote (R356, R358) -/

/-- The copies of a set, ascending. -/
def copiesOf (d : BitVec 3) : List Nat := (List.range 3).filter d.getLsbD

/-- The plane halts (R356): the tiles stop at their next preemption points, and condition 0x49 with bit 7
set joins the next completion of every domain, from its lowest tile. -/
def State.haltPlane (s : State) (copy : Nat) : State :=
  if s.plane.halt then s
  else
    let s1 := { s with plane := { s.plane with halt := true } }.logErr 8 7 copy
    s1.doms.foldl (fun s d =>
      let level := d.1 % 8
      let dom := d.1 / 8
      let low := (s.domTiles level dom).foldl (fun m t => min m t.1) (2 ^ 18 - 1)
      s.addCond level dom 0xc9 low) s1

/-- The copies that differ (R356): one of three dissents, and the plane goes on with the others; where no
two that still vote agree, the plane halts. -/
def State.dissent (s : State) (diff : BitVec 3) : State :=
  let p := s.plane
  match copiesOf (diff &&& ~~~ p.dis) with
  | [] => s
  | c :: rest =>
    if p.rsy ∨ !rest.isEmpty then s.haltPlane c
    else
      { s with plane := { p with
          dis := 1#3 <<< c, rsy := true, rcyc := 0, dsc := min 65535 (p.dsc + 1),
          upset := p.upset &&& ~~~ (1#3 <<< c) } }.logErr 6 7 c

/-- The copy that an armed plane injection of a tile names (R358). -/
def Tile.planeUpset (t : Tile) : BitVec 3 :=
  if errArm t.errinj ∧ errTgt t.errinj = 5 then 1#3 <<< bitsN t.errinj.toNat 58 2 else 0

/-- The armed plane injections apply in the next control-plane cycle (R358). -/
def State.applyUpsets (s : State) : State :=
  let u := s.tiles.foldl (fun u t => u ||| t.2.planeUpset) 0
  if u = 0 then s
  else
    { s with
      plane := { s.plane with upset := s.plane.upset ||| u },
      tiles := s.tiles.mapVals fun _ t =>
        if t.planeUpset = 0 then t else { t with errinj := errinjApplied t.errinj } }

/-- VOTE_CYCLE (R356): one control-plane cycle, with the copies whose output words differ. -/
def execVoteCycle (diff : BitVec 3) (s : State) : Host.Outcome State Fault Refusal :=
  let p := s.plane
  let s1 := { s with plane := { p with
    time := (p.time + 1) % 2 ^ 64, rcyc := if p.rsy && !p.halt then min 2047 (p.rcyc + 1) else p.rcyc } }
  .next (if p.halt then s1 else s1.applyUpsets.dissent diff)

/-- STATE_HASH_COMPARE (R356): finds the copies whose state differs, those that an injection upset among
them. -/
def execStateHashCompare (diff : BitVec 3) (s : State) : Host.Outcome State Fault Refusal :=
  stepIf (!s.plane.halt) s (s.dissent (diff ||| s.plane.upset))

/-- RESYNC_COMPLETE (R356): the dissenter holds the others' state again. -/
def execResyncComplete (s : State) : Host.Outcome State Fault Refusal :=
  let p := s.plane
  stepIf (p.rsy && !p.halt) s
    ({ s with plane := { p with
        dis := 0, rsy := false, rcyc := 0, rsc := min 65535 (p.rsc + 1), upset := p.upset &&& ~~~ p.dis }
      }.logErr 7 7 ((copiesOf p.dis).headD 0))

/-! ### The patrol scrub (R347, R357) -/

/-- PATROL_SCRUB (R347): a line of die memory or HBM is read; what is corrected or marked is logged. DESIGN CHOICE
(log 33): the errors that strike the other stores of R347 come as an outcome of it too, the one event that brings an
error. -/
def State.scrub (s : State) (a : Nat) (o : ScrubOutcome) : State :=
  let unit := if keyType a = 2 then 4 else 5
  match o with
  | .clean => s
  | .corrected => s.logErr 1 unit (locLine a)
  | .uncorrectable => { s with marks := setMark s.marks (granuleOf a) }.logErr 2 unit (locLine a)
  | .struck _ _ => s

/-- LOC and UNIT of a place (R357): a register by its file and number, an entry by tile 0 of its group or die. -/
def State.siteLoc (s : State) (x : ErrSite) : Nat × Nat :=
  match x with
  | .sram t off => (0, locTile t (off / 8 * 8))
  | .groupSram pa => (3, locLine (memKey 1 pa))
  | .g t _ n => (1, locTile t (n % 32))
  | .h t _ n => (1, locTile t (6 * 32 + n % 32))
  | .loadPlace t _ q _ => (1, locTile t (7 * 32 + q % 4))
  | .storePlace t _ q _ => (1, locTile t (7 * 32 + 4 + q % 4))
  | .vLane t _ n _ => (1, locTile t (32 + n % 32))
  | .m t n _ => (1, locTile t (3 * 32 + n % 32))
  | .a t n _ => (1, locTile t (4 * 32 + n % 32))
  | .tb t n => (6, locTile t n)
  | .storeLine t l => (2, locTile t l)
  | .groupTlb g i | .faultEntry g i | .multicast g i => (6, locTile (32 * g) i)
  | .dieTlb d i => (6, locTile (256 * d) i)
  | .undo d i => (9, ((s.dieAt d).journal[i]?.map fun u => locLine u.line).getD 0)

/-- An error that cannot be corrected (R347): what it strikes is poisoned, a table is dropped, a line of the
instruction store fails its parity at the next fetch, and an entry is invalidated, walked or loaded again: a multicast
entry at once, a fault's command by a replay. -/
def State.strike (s : State) (x : ErrSite) : State :=
  match x with
  | .sram t off => { s with marks := setMark s.marks (sramKey t (off / 8 * 8)) }
  | .groupSram pa => { s with marks := setMark s.marks (granuleOf (memKey 1 pa)) }
  | .g t r n => s.modStrandAt t r fun st => { st with gp := if n = 0 then st.gp else st.gp ||| (1#32 <<< n) }
  | .h t r n => s.modStrandAt t r fun st => { st with h := st.h.put n { st.h.val {} n with poi := true } }
  | .loadPlace t r q i => s.modStrandAt t r fun st =>
      { st with lq := st.lq.put q ((st.lqOf q).zipIdx.map fun p =>
          match p with
          | (.held v b, j) => .held v (b || j == i)
          | (y, _) => y) }
  | .storePlace t r q i => s.modStrandAt t r fun st =>
      { st with sq := st.sq.put q ((st.sqOf q).zipIdx.map fun p => (p.1.1, p.1.2 || p.2 == i)) }
  | .vLane t r n l => s.modStrandAt t r fun st =>
      let y := st.v.val {} n
      { st with v := st.v.put n { y with pois := y.pois ||| (1#64 <<< l) } }
  | .m t n e => s.modTileAt t fun y =>
      let r := y.m.val {} n
      { y with m := y.m.put n { r with pois := r.pois ||| (1#4096 <<< e) } }
  | .a t n e => s.modTileAt t fun y =>
      let r := y.a.val {} n
      { y with a := y.a.put n { r with pois := r.pois ||| (1#1024 <<< e) } }
  | .tb t n => s.modTileAt t fun y => { y with tb := y.tb.put n (y.tb.val {} n).dropped }
  | .storeLine t l =>
    let k := codeKey t (64 * l)
    { s with mem := wrBytes s.mem k [rdByte s.mem k ^^^ 1] }
  | .groupTlb g i => s.modGroup g fun y => { y with tlb := y.tlb.eraseIdx i }
  | .dieTlb d i => s.modDie d fun y => { y with tlb := y.tlb.eraseIdx i }
  | .faultEntry g i => s.loseFault g i
  | .multicast _ _ => s
  | .undo d i => s.modDie d fun y =>
      { y with journal := y.journal.zipIdx.map fun u => if u.2 = i then { u.1 with bad := true } else u.1 }

/-- The error of a store as it is read: logged, corrected or with what it does. What an undo record has lost is logged
when it restores its line (R357). -/
def State.met (s : State) (x : ErrSite) (fatal : Bool) : State :=
  let l := s.siteLoc x
  if !fatal then s.logErr 1 l.1 l.2
  else
    match x with
    | .undo _ _ => s.strike x
    | .storeLine _ _ => s.strike x
    | x => (s.strike x).logErr 2 l.1 l.2

def execPatrolScrub (tt pa : Nat) (o : ScrubOutcome) (s : State) : Host.Outcome State Fault Refusal :=
  match o with
  | .struck x fatal => .next (s.met x fatal)
  | o => .next (if tt = 2 ∧ pa < 2 ^ 40 ∨ tt = 4 ∧ pa < 2 ^ 47 then s.scrub (memKey tt (pa / 32 * 32)) o else s)

/-! ### Ageing (R377 to R382) -/

/-- The fields of SAGEP that a switch reads (R381). -/
def sagePbin (w : Word) : Nat := bitsN w.toNat 6 2
def sageTbin (w : Word) : Nat := bitsN w.toNat 2 2
def sageBin (w : Word) : Nat := bitsN w.toNat 0 2

/-- A new setting of a group (R380): at once where the group holds no kernel, else at the switch. -/
def Group.setting (g : Group) (w : Word) : Group :=
  let bin := max (sagePbin w) (sageTbin w)
  if g.holder.isNone then { g with sagep := setBits w 0 2 bin, pending := false }
  else { g with sagep := w, pending := true }

/-- The candidate that a plan chooses (R379): the lowest bin with a margin of 6 % or more, in it the lowest
offset; bin 3 at +30 mV where none has it. -/
def planOf (cands : List (Nat × Int × Nat)) : Nat × Int × Nat × Bool :=
  let good := cands.filter fun (c : Nat × Int × Nat) => decide (12 ≤ c.2.2)
  let better (x y : Nat × Int × Nat) : Bool :=
    decide (x.1 < y.1) || (x.1 == y.1 && decide (x.2.1 < y.2.1))
  match good with
  | [] =>
    let m := ((cands.find? fun (c : Nat × Int × Nat) => c.1 == 3 && c.2.1 == 30).map fun c => c.2.2).getD 0
    (3, 30, m, true)
  | c :: t =>
    let b := t.foldl (fun m x => if better x m then x else m) c
    (b.1, b.2.1, b.2.2, false)

/-- An entry of the plan log (R382). -/
def planEntry (secs group bin : Nat) (ofs : Int) (margin : Nat) : BitVec 64 :=
  BitVec.ofNat 64 (secs % 2 ^ 32 * 2 ^ 32 + group % 64 * 2 ^ 26 + bin % 4 * 2 ^ 24 +
    wrapN 8 ofs * 2 ^ 16 + margin % 256 * 2 ^ 8)

/-- SAGEP of a plan; TBIN and BIN stay (R381). -/
def plannedWord (w : Word) (secs bin : Nat) (ofs : Int) (margin : Nat) (low : Bool) : Word :=
  setBits (setBits (setBits (setBits (setBits w 32 32 secs) 24 8 margin) 16 1 (b2n low)) 8 8
    (wrapN 8 ofs)) 6 2 bin

/-- The offsets of a group: −20 mV to +30 mV in steps of 5 mV (R378). -/
def offsets : List Int := (List.range 11).map fun (i : Nat) => 5 * Int.ofNat i - 20

/-- Every setting of a group: the four bins with every offset (R378). -/
def settings : List (Nat × Int) := (List.range 4).flatMap fun b => offsets.map fun o => (b, o)

/-- What the 16 monitors of a group report at every setting, from a report; what it leaves out is no margin (R377). -/
def reportsOf (ms : List SageMargin) (g : Nat) : List (Nat × Int × List Nat) :=
  let m := ((ms.find? fun m => m.group == g).map fun m => m.cands).getD []
  settings.map fun c =>
    let told := ((m.find? fun x => x.1 == c.1 && x.2.1 == c.2).map fun x => x.2.2).getD []
    (c.1, c.2, (List.range 16).map fun i => told.getD i 0)

/-- The worst monitor margin at each setting (R379). -/
def worstMargins (rs : List (Nat × Int × List Nat)) : List (Nat × Int × Nat) :=
  rs.map fun c => (c.1, c.2.1, c.2.2.foldl min (c.2.2.headD 0))

/-- What a monitor reports at the present setting of its group (R377). -/
def Group.monitor (g : Group) (i : Nat) : Nat :=
  let ofs : Int := (g.sagep.extractLsb' 8 8).toInt
  (((g.reports.find? fun c => c.1 == sageBin g.sagep && c.2.1 == ofs).bind fun c => c.2.2[i]?).getD 0)

/-- The plan of one group of the package. -/
def State.planGroup (s : State) (secs : Nat) (ms : List SageMargin) (g : Nat) : State :=
  let rs := reportsOf ms g
  let (bin, ofs, margin, low) := planOf (worstMargins rs)
  let s1 := s.modGroup (s.own * 32 + g) fun x =>
    { x.setting (plannedWord x.sagep secs bin ofs margin low) with reports := rs }
  let log := s1.plane.plans ++ [planEntry secs g bin ofs margin]
  { s1 with plane := { s1.plane with plans := log.drop (log.length - 64) } }

/-- SAGE_REPLAN (R379): every 3,600 s, every group. -/
def execSageReplan (secs : Nat) (ms : List SageMargin) (s : State) : Host.Outcome State Fault Refusal :=
  stepIf (secs != 0 && secs % 3600 == 0 && !s.plane.halt) s
    ((List.range 32).foldl (fun s g => s.planGroup secs ms g) s)

/-- Whether a group's new setting can take effect: its tiles have come to rest (R359, R380). -/
def State.switchDue (s : State) (g : Nat) : Bool :=
  (s.groupAt g).pending && s.tiles.all fun t => groupOfTile t.1 != g || t.2.atRest

/-- SETTING_SWITCH (R380): the group is frozen, switched and thawed; a freeze completes its vector
commands. -/
def execSettingSwitch (g : Nat) (s : State) : Host.Outcome State Fault Refusal :=
  let s1 := s.modGroup g fun x =>
    { x with sagep := setBits x.sagep 0 2 (max (sagePbin x.sagep) (sageTbin x.sagep)), pending := false }
  stepIf (s.switchDue g) s
    ((s.tiles.filter fun p => groupOfTile p.1 == g).foldl (fun s p => (s.vecComplete p.1).thawPort p.1) s1)

/-! ### Power and temperature (R383 to R385) -/

/-- The sum of the newest n samples. -/
def sumOf (xs : List Nat) (n : Nat) : Nat := (xs.take n).sum

/-- Whether one of the three limits is exceeded (R383): the averages over 100 and 10 samples, a power sample being 100
µs, and the hottest die. Before the first sample a package draws nothing. -/
def Plane.overLimit (p : Plane) : Bool :=
  decide (2800 * 100 < sumOf p.watts 100) || decide (3200 * 10 < sumOf p.watts 10) || p.temps.any fun c => decide (95 < c)

/-- POWER_SAMPLE (R383): the samples of 10 ms are kept. -/
def execPowerSample (watts : Nat) (s : State) : Host.Outcome State Fault Refusal :=
  .next { s with plane := { s.plane with watts := (watts :: s.plane.watts).take 100 } }

/-- TEMP_SAMPLE (R383): the junction temperatures of the four dies. The trip temperature on any die halts the plane and
puts HBM in self-refresh (R384). -/
def execTempSample (celsius : List Nat) (s : State) : Host.Outcome State Fault Refusal :=
  let s1 := { s with plane := { s.plane with temps := celsius.take 4 } }
  .next (if (celsius.take 4).any fun c => decide (105 ≤ c) then
      { s1 with plane := { s1.plane with trip := true, refresh := true } }.haltPlane 0
    else s1)

/-- Sets TBIN of a group. -/
def State.throttleGroup (s : State) (g tbin : Nat) : State :=
  s.modGroup (s.own * 32 + g) fun x => x.setting (setBits x.sagep 2 2 tbin)

/-- Sets TBIN of every group. -/
def State.throttleAll (s : State) (tbin : Nat) : State :=
  (List.range 32).foldl (fun s g => s.throttleGroup g tbin) s

/-- The count of throttle steps rises (R385). -/
def Plane.stepped (p : Plane) (n : Nat) : Plane :=
  { p with step := n, tcnt := min (2 ^ 31 - 1) (p.tcnt + 1) }

/-- The next throttle step (R384), with the group of highest draw among those not yet raised. -/
def State.throttle (s : State) (g : Nat) : State :=
  let p := s.plane
  if p.step = 0 then { s with plane := p.stepped 1 }
  else if p.raised.length < 32 then
    if 32 ≤ g ∨ p.raised.contains g then s
    else { s.throttleGroup g 1 with plane := { p.stepped 2 with raised := g :: p.raised } }
  else if p.step = 2 then { s.throttleAll 3 with plane := p.stepped 3 }
  else s

/-- THROTTLE_STEP (R384). -/
def execThrottleStep (g : Nat) (s : State) : Host.Outcome State Fault Refusal :=
  stepIf (s.plane.overLimit && !s.plane.halt) s (s.throttle g)

/-- The undoing of the newest throttle step (R384). -/
def State.unthrottle (s : State) : State :=
  let p := s.plane
  if p.step = 3 then { s.throttleAll 1 with plane := { p with step := 2 } }
  else
    match p.raised with
    | g :: rest =>
      { s.throttleGroup g 0 with plane := { p with raised := rest, step := if rest.isEmpty then 1 else 2 } }
    | [] => { s with plane := { p with step := 0 } }

/-- THROTTLE_UNDO (R384). -/
def execThrottleUndo (s : State) : Host.Outcome State Fault Refusal :=
  stepIf (s.plane.step != 0 && !s.plane.overLimit && !s.plane.halt) s s.unthrottle

/-- PWRS (R385). -/
def State.pwrs (s : State) : Word :=
  let p := s.plane
  BitVec.ofNat 64 (sumOf p.watts 100 / 100 % 2 ^ 16 * 2 ^ 48 + min 255 (p.temps.foldl max 0) * 2 ^ 40 + p.step % 4 * 2 ^ 32 +
    p.tcnt % 2 ^ 31 * 2 + b2n p.trip)

end Sys2Proof.Machine
end

