-- ==== Sys2Proof/Machine/Links.lean ====
section
/-! DEFINITION. The Mubel links: training, keys, resent flit groups, and ports that leave the routes
(R250, R332, R340, R363). -/

namespace Sys2Proof.Machine

/-- A port of the Mubel fabric. -/
def State.portAt (s : State) (p : Nat) : Port := s.ports.val {} p

/-- Changes a port that is up (R250): a halted plane and a port out of the routes carry nothing. -/
def State.onPort (s : State) (p : Nat) (f : Port → Port) : State :=
  if (s.portAt p).up && !s.plane.halt then { s with ports := s.ports.put p (f (s.portAt p)) } else s

/-- The keys of the two directions of a port, agreed afresh by the two packages' identities (R340). -/
def State.linkKeys (s : State) (peer : Nat) : Nat × Nat := Config.linkAgree Config.fusedIdentity peer s.freeCtr

/-- A port with keys agreed afresh: its group counters start again. -/
def Port.retrained (q : Port) (k : Nat × Nat) : Port :=
  { q with key := k.1, keyIn := k.2, ctr := 0, ctrIn := 0, tagFail := 0 }

/-- A port with a fresh key in each direction that has carried 2^32 groups. -/
def Port.rekeyed (q : Port) (k : Nat × Nat) : Port :=
  let q1 := if 2 ^ 32 ≤ q.ctr then { q with key := k.1, ctr := 0 } else q
  if 2 ^ 32 ≤ q.ctrIn then { q1 with keyIn := k.2, ctrIn := 0 } else q1

/-- Whether a direction of a port has carried 2^32 groups (R340). -/
def Port.spent (q : Port) : Bool := decide (2 ^ 32 ≤ q.ctr) || decide (2 ^ 32 ≤ q.ctrIn)

/-- FLIT_GROUP_RESEND (R250, R340): the group is sent again under the next counter; a bad tag counts in the
failures in a row. -/
def execFlitGroupResend (p : Nat) (tagBad : Bool) (s : State) : Host.Outcome State Fault Refusal :=
  .next (s.onPort p fun q =>
    { q with ctr := q.ctr + 1, resent := q.resent + 1, tagFail := if tagBad then q.tagFail + 1 else 0 })

/-- TAG_FAILURE_RETRAIN (R340): after 16 tag failures in a row. -/
def execTagFailureRetrain (p : Nat) (s : State) : Host.Outcome State Fault Refusal :=
  .next (if 16 ≤ (s.portAt p).tagFail then
      (s.onPort p fun q => q.retrained (s.linkKeys q.peer)).draw
    else s)

/-- LINK_REKEY (R340): a direction every 2^32 groups, between groups. -/
def execLinkRekey (p : Nat) (s : State) : Host.Outcome State Fault Refusal :=
  .next (if (s.portAt p).spent then
      (s.onPort p fun q => q.rekeyed (s.linkKeys q.peer)).draw
    else s)

/-- MUBEL_LINK_TRAINING (R250, R340): one of the 16 ports joins the routes, with link keys agreed by the two
packages' identities. -/
def execMubelLinkTraining (p peer : Nat) (s : State) : Host.Outcome State Fault Refusal :=
  stepIf (decide (p < 16) && peer != s.own && s.pod.getLsbD peer && !(s.portAt p).up && !s.plane.halt) s
    { s with ports := s.ports.put p (Port.retrained { up := true, peer := peer } (s.linkKeys peer)) }.draw

/-- The slots of the pod's packages that cannot be reached are lost (R250, R363). -/
def State.loseUnreached (s : State) : State :=
  s.routes.foldl (fun s r =>
    if r.2.v ∧ !r.2.kind ∧ !s.reaches r.2.pkg then s.loseSlot r.1 else s) s

/-- PORT_RETRAIN_FAIL (R250): the port leaves the routes; a package with no route left is unreachable, its
members are lost, and relocations toward it are abandoned (R332). -/
def execPortRetrainFail (p : Nat) (s : State) : Host.Outcome State Fault Refusal :=
  .next (if (s.portAt p).up then
      let s1 := { s with ports := s.ports.put p { s.portAt p with up := false } }
      (s1.chervil.foldl (fun s c => s.relocAbandon c.1) s1).loseUnreached
    else s)

end Sys2Proof.Machine
end

