-- ==== Sys2Proof/Machine/Sessions.lean ====
section
/-! DEFINITION. Sessions: their commands and replies, keys, attestation, resumption and the end of a context
(R286, R296, R341 to R346, R374). -/

namespace Sys2Proof.Machine

/-! ### Commands and replies (R341, R342) -/

/-- A queue pair. -/
def State.qpAt (s : State) (i : Nat) : Qp := s.qps.val {} i

/-- Changes a queue pair. -/
def State.modQp (s : State) (i : Nat) (f : Qp → Qp) : State :=
  { s with qps := s.qps.put i (f (s.qpAt i)) }

/-- Whether sessions are served: boot is done and the plane runs (R356, R386). -/
def State.sessionsOpen (s : State) : Bool := s.plane.boot == 6 && !s.plane.halt

/-- Whether a queue pair carries the supervisor's session. -/
def State.fromSup (s : State) (qp : Nat) : Bool :=
  (s.qpAt qp).st == 1 && (s.qpAt qp).sealed && isSupSession (s.qpAt qp).asid

/-- Whether a queue pair is bound to a context. -/
def State.boundTo (s : State) (qp asid : Nat) : Bool :=
  (s.qpAt qp).st == 1 && (s.qpAt qp).sealed && (s.qpAt qp).asid == asid && decide (asid < 2 ^ 16)

/-- The reply to a command: header as received, status, length, body (R342). -/
def State.reply (s : State) (qp cmd asid status : Nat) (body : List Byte) : State :=
  let b := if status = 0 then body else []
  s.sendRaw qp 0x04 [] (natToBytes 8 (asid % 2 ^ 16 * 2 ^ 48 + cmd) ++ natToBytes 4 status ++
    natToBytes 4 b.length ++ b)

/-- A session command: the reply, sealed as the queue pair stands, and with status 0 its effect. -/
def sessionStep (s : State) (qp cmd asid status : Nat) (body : List Byte) (run : State → State) :
    Host.Outcome State Fault Refusal :=
  .next (if !s.sessionsOpen then s
    else
      let s1 := s.reply qp cmd asid status body
      if status = 0 then run s1 else s1)

/-- The status of the first check that fails. -/
def firstStatus (cs : List (Bool × Nat)) : Nat := ((cs.find? (·.1)).map (·.2)).getD 0

/-- Whether an ASID is resident. -/
def State.resident (s : State) (asid : Nat) : Bool := (s.ctxSlot asid).isSome

/-! ### Key identifiers (R341, R343, R345) -/

/-- Whether an identifier is in use: a context holds it, or has dropped it and a line still carries it. -/
def State.kidUsed (s : State) (i : Nat) : Bool :=
  (s.ctxs.any fun c => c.2.st != 0 && c.2.keys.contains i) ||
    (s.ctxs.any fun c => c.2.st != 0 && c.2.oldKeys.contains i) && s.lineKey.any fun x => x.2 % 8192 == i

/-- The lowest identifier of 1 to 8,191 that is not in use. -/
def State.freeKid (s : State) : Option Nat :=
  (List.range 8191).findSome? fun i => if s.kidUsed (i + 1) then none else some (i + 1)

/-- Keys are erased: the lines that carry their KEYIDs, and the undo records of such lines, keep a number that holds
the key they were written under, which no access has again (R343, R345). -/
def State.eraseKeys (s : State) (kids : List Nat) : State :=
  let bury (k : Nat) : Nat := if kids.contains k then s.buried k else k
  { s with
    lineKey := s.lineKey.mapVals fun _ k => bury k
    dies := s.dies.mapVals fun _ d => { d with journal := d.journal.map fun u => { u with kid := bury u.kid } }
    memKeys := s.memKeys.filter fun x => !kids.contains x.1 }

/-- Generates the memory key of an identifier for a context; no context counts it among its dropped ones any more
(R341, R345). -/
def State.giveKey (s : State) (asid kid : Nat) : State :=
  let s1 := { s with
    memKeys := s.memKeys.put kid (Config.freshKey s.freeCtr)
    ctxs := s.ctxs.mapVals fun _ c => { c with oldKeys := c.oldKeys.filter (· != kid) } }
  (s1.modCtx asid fun c => { c with keys := c.keys ++ [kid] }).draw

/-! ### CREATE, AGREE, ATTEST, KEYNEW (R341, R344) -/

/-- CREATE (R341): the supervisor's. -/
def execCreate (qp asid : Nat) (pcap : BitVec 2) (supok : Bool) (s : State) :
    Host.Outcome State Fault Refusal :=
  let slot := (List.range 64).find? fun i => (s.ctxs.val {} i).st == 0
  let status := firstStatus [(decide (2 ^ 16 ≤ asid), 1), (!s.fromSup qp, 2), (s.resident asid, 3),
    (slot.isNone, 5)]
  sessionStep s qp 1 asid status [] fun s =>
    { s with ctxs := s.ctxs.put (slot.getD 0) { asid := asid, pcap := pcap, supok := supok, st := 1 } }

/-- A queue pair under a new session key: packets under the old one are taken until the first under the
new; the counters start again (R341). -/
def Qp.withKey (q : Qp) (key : Nat) : Qp :=
  { q with
    st := 1, sealed := true, key := key, txCtr := 0, rxCtr := 0,
    oldKey := if q.sealed then some (q.key, q.rxCtr) else none }

/-- Binds a queue pair to a session, with every queue pair that is already bound to it (R341). -/
def State.bindQp (s : State) (qp asid key : Nat) : State :=
  let evt := !isSupSession asid && !(s.qps.any fun p => p.2.evt && p.2.asid == asid)
  let s1 := { s with qps := s.qps.mapVals fun _ q =>
      if q.sealed ∧ q.asid = asid then q.withKey key else q }
  if (s.qpAt qp).sealed then s1
  else
    (s1.modQp qp fun q =>
      { q.withKey key with
        asid := asid, evt := evt, dqpn := (Config.freeWord s.freeCtr).toNat % 2 ^ 24 }).draw

/-- The default memory key of a context at its first agreement (R341, R343). -/
def State.firstKey (s : State) (asid : Nat) : State :=
  match s.freeKid with
  | some k =>
    if (s.ctxOf asid).session.isSome then s
    else (s.giveKey asid k).modCtx asid fun c => { c with keyid := k }
  | none => s

/-- AGREE (R341): on a queue pair that is free or bound to the session; the supervisor's with the fused key.
The reply goes before the binding: sealed as the queue pair stands, or, at counter 2^40, in clear on the queue pair
that has entered the error state (R339, R342; log 13). -/
def execAgree (qp asid : Nat) (tenantKey : List (BitVec 8)) (s : State) :
    Host.Outcome State Fault Refusal :=
  let q := s.qpAt qp
  let sup := isSupSession asid
  let x := Config.sm2Agree Config.fusedIdentity tenantKey s.freeCtr
  let status := firstStatus [
    (tenantKey.length != 65, 1),
    (q.sealed && q.asid != asid || (sup && (Config.sm3 tenantKey).toNat != Config.fusedSupervisorKey), 2),
    (!sup && !s.resident asid, 3),
    (!sup && (s.ctxOf asid).session.isNone && s.freeKid.isNone, 5)]
  let s0 := if q.st = 1 ∧ q.sealed ∧ 2 ^ 40 ≤ q.txCtr + 1 then s.qpError qp else s
  sessionStep s0 qp 2 asid status ((x.2 ++ natToBytes 97 0).take 97) fun s =>
    let s1 := if sup then s
      else (s.firstKey asid).modCtx asid fun c => { c with session := some x.1 }
    (s1.draw).bindQp qp asid x.1.toNat

/-- The fingerprint of a key (R346): an identity private key has 32 bytes, every other key 16. -/
def fingerprint (kind kid key : Nat) : BitVec 256 :=
  Config.sm3 (natToBytes 1 kind ++ natToBytes 2 kid ++ natToBytes (if kind = 4 then 32 else 16) key)

/-- The attestation report of a context (R344). -/
def State.report (s : State) (asid : Nat) (nonce : List Byte) : List Byte :=
  let c := s.ctxOf asid
  let b (x : BitVec 256) : List Byte := natToBytes 32 x.toNat
  let d := natToBytes 8 (asid % 2 ^ 16 * 2 ^ 48 + 1) ++ nonce ++ b s.plane.mr0 ++ b s.plane.mr1 ++ b c.cmr ++
    b (Config.sm3 (b (fingerprint 2 0 ((c.session.getD 0).toNat)))) ++ natToBytes 24 0
  d ++ (Config.sm2Sign Config.fusedIdentity (Config.sm3 d) ++ natToBytes 64 0).take 64

/-- ATTEST (R344). -/
def execAttest (qp asid : Nat) (nonce : List (BitVec 8)) (s : State) :
    Host.Outcome State Fault Refusal :=
  let status := firstStatus [(nonce.length != 32, 1), (!s.boundTo qp asid, 2), (!s.resident asid, 3)]
  sessionStep s qp 3 asid status (s.report asid nonce) id

/-- KEYNEW (R341): 128 keys a context at most. -/
def execKeynew (qp asid : Nat) (s : State) : Host.Outcome State Fault Refusal :=
  let k := s.freeKid
  let status := firstStatus [(!s.boundTo qp asid, 2), (!s.resident asid, 3),
    (decide (128 ≤ (s.ctxOf asid).keys.length) || k.isNone, 5)]
  sessionStep s qp 4 asid status (natToBytes 2 (k.getD 0)) fun s =>
    k.toList.foldl (fun s k => s.giveKey asid k) s

/-! ### KEYDROP (R345) -/

/-- Whether no request of a context is in flight. -/
def State.trafficDrained (s : State) (asid : Nat) : Bool :=
  s.tiles.all fun t => s.asidOf t.1 != asid || t.2.kernel.isNone ||
    t.2.xact.all fun a => a.reqs.all (·.atRest)

/-- Every command of a context that no fault holds translates again. -/
def State.retranslateAll (s : State) (asid : Nat) : State :=
  { s with tiles := s.tiles.mapVals fun i t =>
      if s.asidOf i = asid then
        { t with xact := t.xact.map fun a =>
            if a.held.isSome then a else { a with pages := [], srcO := none, dstO := none, prep := false } }
      else t }

/-- KEYDROP (R345): the translations of the context go at once, the key when its traffic has drained; until
then the command waits. -/
def execKeydrop (qp asid keyid : Nat) (s : State) : Host.Outcome State Fault Refusal :=
  let status := firstStatus [(!s.boundTo qp asid, 2), (!s.resident asid, 3),
    (!(s.ctxOf asid).keys.contains keyid, 4)]
  let s0 := s.tlbDrop (fun _ => true) (fun _ => true) fun x => x.asid == asid
  if status = 0 ∧ s.sessionsOpen ∧ !s0.trafficDrained asid then
    .next { s0 with agenda := s0.agenda ++ [.keydrop qp asid keyid] }
  else
    sessionStep s qp 5 asid status [] fun s =>
      (((s.tlbDrop (fun _ => true) (fun _ => true) fun x => x.asid == asid).retranslateAll asid).eraseKeys
        [keyid]).modCtx asid fun c => { c with keys := c.keys.filter (· != keyid), oldKeys := c.oldKeys ++ [keyid] }

/-! ### RESUME and DESTROY (R286, R296, R341) -/

/-- A resumed context (R286): running, or idle where it has no kernel; its stopped strands return, those of
evicted tiles once they are restored, and parks that it still waited for are not begun. -/
def State.resumeCtx (s : State) (asid : Nat) : State :=
  let stands := fun (w : Nat × Nat) => (s.tileAt w.1).kernel.isSome && (s.kernOf w.1).asid == asid
  let who := (s.ctxOf asid).stoppers
  let s1 := s.modCtx asid fun c =>
    { c with st := if c.nkern = 0 then 1 else 2, stop := 0, stoppers := who.filter fun w => !stands w }
  let s2 := { s1 with
    tiles := s1.tiles.mapVals fun i t =>
      if stands (i, 0) && t.parkAsk == 4 then { t with parkAsk := 0 } else t }
  (who.filter stands).foldl (fun s w => s.returnStopped w) s2

/-- RESUME (R286, R287, R341): a stopped context by its own session, a halted one by the supervisor's. -/
def execResume (qp asid : Nat) (s : State) : Host.Outcome State Fault Refusal :=
  let st := (s.ctxOf asid).stop
  let own := s.boundTo qp asid
  let sup := s.fromSup qp
  let status := firstStatus [(!own && !sup, 2), (!s.resident asid, 3),
    ((st == 3 && !own) || (st == 4 && !sup), 2), (st != 3 && st != 4, 4)]
  sessionStep s qp 6 asid status [] fun s => s.resumeCtx asid

/-- A context that goes (R296, R341): its kernels retire, its keys and translations go, its queue pairs are
free. -/
def State.destroyCtx (s : State) (asid : Nat) : State :=
  let ks := (s.kernels.filter fun k => k.2.asid == asid).map Prod.fst
  let s1 := ks.foldl (fun s k => (s.cancelFirings k).retireKernel k) s
  let c := s1.ctxOf asid
  let s2 := (s1.eraseKeys c.keys).tlbDrop (fun _ => true) (fun _ => true)
    fun x => x.asid == asid
  let s3 := s2.modCtx asid fun _ => {}
  { s3 with qps := s3.qps.mapVals fun _ q => if q.sealed ∧ q.asid = asid then {} else q }.preempt

/-- DESTROY (R341). -/
def execDestroy (qp asid : Nat) (s : State) : Host.Outcome State Fault Refusal :=
  let status := firstStatus [(!s.boundTo qp asid && !s.fromSup qp, 2), (!s.resident asid, 3)]
  sessionStep s qp 7 asid status [] fun s => s.destroyCtx asid

/-! ### LOGSEND and JOIN (R374) -/

/-- LOGSEND (R374). -/
def execLogsend (qp asid slot frm : Nat) (s : State) : Host.Outcome State Fault Refusal :=
  let l := s.slog
  let status := firstStatus [(decide (256 ≤ slot), 1), (!s.fromSup qp, 2),
    ((s.routes.val {} slot).st != 3, 7), (decide (frm < l.first.toNat) || l.gap, 6)]
  sessionStep s qp 8 asid status [] fun s =>
    { s with slog := { s.slog with stream := some (slot, frm) } }.streamSteps

/-- Whether a slot is in the membership mask of some kernel, or of the package. -/
def State.inMask (s : State) (slot : Nat) : Bool :=
  (s.routes.val {} slot).st == 1 || s.kernels.any fun k => k.2.mmask.getLsbD slot

/-- JOIN (R374). -/
def execJoin (qp asid slot : Nat) (s : State) : Host.Outcome State Fault Refusal :=
  let status := firstStatus [(decide (256 ≤ slot), 1), (!s.fromSup qp, 2),
    (s.inMask slot || !(s.routes.val {} slot).v, 7)]
  sessionStep s qp 9 asid status [] fun s =>
    { s with
      routes := s.routes.put slot { s.routes.val {} slot with st := 3 },
      lost := s.lost.filter (· != slot) }

end Sys2Proof.Machine
end

