-- ==== Sys2Proof/Machine/Ethernet.lean ====
section
/-! DEFINITION. The Ethernet host link: packets received and sent again, congestion notices, and the host's
RDMA accesses (R268, R299, R337 to R339, R341). -/

namespace Sys2Proof.Machine

/-! ### Rates and retransmission (R337, R339) -/

/-- CNP_RECEIVE (R337). -/
def execCnpReceive (qp : Nat) (s : State) : Host.Outcome State Fault Refusal :=
  stepIf (decide (qp < 4096) && !s.plane.halt) s (s.modQp qp fun q => { q with rate := q.rate / 2 })

/-- RATE_RECOVERY_TICK (R337): 1/16 of line rate, up to line rate. -/
def execRateRecoveryTick (qp : Nat) (s : State) : Host.Outcome State Fault Refusal :=
  stepIf (decide (qp < 4096) && !s.plane.halt) s
    (s.modQp qp fun q => { q with rate := min (2 ^ 32) (q.rate + 2 ^ 28) })

/-- Sends every packet that is not acknowledged again, with its sequence number, sealed under new counters (R339). -/
def State.goBack (s : State) (qp : Nat) : State :=
  (s.qpAt qp).unacked.foldl (fun s p => if (s.qpAt qp).st = 2 then s else s.emit qp p) s

/-- GO_BACK_N_RETRANSMISSION (R339). -/
def execGoBackNRetransmission (qp : Nat) (s : State) : Host.Outcome State Fault Refusal :=
  stepIf (!s.plane.halt) s (s.goBack qp)

/-- The acknowledge header: syndrome, and how many messages are complete (R337, log 13). -/
def State.aeth (s : State) (qp syndrome : Nat) : List Byte := beBytes 1 syndrome ++ beBytes 3 (s.qpAt qp).msn

/-- An acknowledgement of a sequence number, or a NAK of a class: syndrome 0x60 sequence, 0x61 invalid request, 0x62
remote access error (R337, R338; log 13). -/
def State.ackOn (s : State) (qp psn syndrome : Nat) : State :=
  s.emit qp (packetOf qp 0x11 psn (s.aeth qp syndrome) [])

/-- A message of a queue pair is complete. -/
def State.messageDone (s : State) (qp : Nat) : State := s.modQp qp fun q => { q with msn := psnAdd q.msn 1 }

/-! ### RDMA accesses (R338) -/

/-- Whether a leaf grants an RDMA access (R299): the key is held; reads need R, and code is never read;
writes need W, for code also X, and never reach object tables. -/
def State.rdmaLeaf (s : State) (asid : Nat) (write : Bool) (e : BitVec 64) : Bool :=
  s.holdsKey asid (pteKey e) &&
    (if write then pteW e && pteTT e != 5 && (pteTT e != 6 || pteX e) else pteR e && pteTT e != 6)

/-- The key and KEYID of an address under the translations of an access. -/
def State.rdmaSpot (s : State) (xs : List Xlate) (va : Nat) : Option (Nat × Nat) :=
  (xs.find? fun x => x.va / 2 ^ x.log == va % 2 ^ 56 / 2 ^ x.log).bind fun x => s.underLeaf x.leaf va

/-- Whether bytes at a key may be reached: their package can be, no pool, gated bank or tile that the context has lost
to another kernel is touched, and code is written by whole lines (R175, R196, R230, R240, R281). -/
def State.rdmaReach (s : State) (asid a n : Nat) : Bool :=
  let t := keyPa a / 2 ^ 20
  let off := keyPa a % 2 ^ 20
  s.reaches (pkgOfKey a) && (keyType a != 6 || (a % 64 == 0 && n == 64)) &&
    !((tileOfKey a).any fun t => s.saves.any fun x => x.tile == t && (s.kernAt x.kernel).asid == asid) &&
    (keyType a != 0 || (((s.ctxOf asid).supok || decide (off + n ≤ poolBase)) && !s.gatedAt t off n))

/-- The pieces of an access, at most 64 bytes each, as address and length; k at most. -/
def rdmaPieces (va n : Nat) : Nat → List (Nat × Nat)
  | 0 => []
  | k + 1 =>
    if n = 0 then []
    else
      let m := min n (64 - va % 64)
      (va, m) :: rdmaPieces (va + m) (n - m) k

/-- Whether the address range of an access keeps the form of R194. -/
def rdmaSpan (va n : Nat) : Bool :=
  n == 0 || (canonical va && canonical (va + n - 1) && decide (va / 2 ^ 55 = (va + n - 1) / 2 ^ 55))

/-- The places of an access: pieces with their KEYID and key; none where it is refused. -/
def State.rdmaPlaces (s : State) (asid va n : Nat) (write : Bool) : Option (List (Nat × Nat × Nat)) :=
  if !rdmaSpan va n then none
  else
    match if n = 0 then some [] else s.pagesFrom asid (s.rdmaLeaf asid write) va n (n / 65536 + 2) with
    | none => none
    | some xs =>
      (rdmaPieces va n (n / 64 + 2)).mapM fun (p : Nat × Nat) =>
        match s.rdmaSpot xs p.1 with
        | some (kid, a) => if s.rdmaReach asid a p.2 then some (p.2, kid, a) else none
        | none => none

/-- Writes a piece at its home: tile SRAM by its port, other memory at both copies of an object that is being
relocated; no superstep journals it. -/
def State.rdmaPut (s : State) (kid a : Nat) (bs : List Byte) : State :=
  if keyType a = 0 then s.stP (keyPa a / 2 ^ 20) (keyPa a % 2 ^ 20) (clean bs)
  else
    let s1 := s.wrP kid a (clean bs)
    match s.mirrorOf a with
    | some (rg, b) => s1.wrP (s1.heapAt rg).key b (clean bs)
    | none => s1

/-- Whether some piece waits: in a page that a migration locks, until the commit (R307), or at the port of a tile,
until its bank is awake or the tile goes on (R196, R359). -/
def State.rdmaWaits (s : State) (ps : List (Nat × Nat × Nat)) : Bool :=
  ps.any fun p => s.lockedAt p.2.2 ||
    keyType p.2.2 == 0 && s.portWaits (keyPa p.2.2 / 2 ^ 20) (keyPa p.2.2 % 2 ^ 20) p.1

/-- Writes the pieces of an access in turn. -/
def State.rdmaPutAll (s : State) (bs : List Byte) : List (Nat × Nat × Nat) → State
  | [] => s
  | (n, kid, a) :: rest => (s.rdmaPut kid a (bs.take n)).rdmaPutAll (bs.drop n) rest

/-- Whether a queue pair is ready and bound to a context, and an R_Key is its own. -/
def State.rdmaAllowed (s : State) (qp : Nat) (rkey : BitVec 32) : Bool :=
  let q := s.qpAt qp
  q.st == 1 && q.sealed && decide (q.asid < 2 ^ 16) && s.resident q.asid && rkey == q.rkey qp

/-- The notification that an immediate carries (R268). -/
def State.takeImm (s : State) (asid : Nat) (imm : Option (BitVec 32)) : State :=
  match imm with
  | some x => if bitsN x.toNat 16 14 = 0 then s.notifyQueue (bitsN x.toNat 30 2) (bitsN x.toNat 0 16) asid
    else s
  | none => s

/-- RDMA_WRITE (R338): performed before its immediate is delivered, or refused with nothing written. -/
def State.rdmaWrite (s : State) (r : RdmaRequest) : State :=
  let asid := (s.qpAt r.qp).asid
  if s.plane.halt then s
  else if !s.rdmaAllowed r.qp r.rkey then s.ackOn r.qp r.psn 0x62
  else
    match s.rdmaPlaces asid r.va.toNat r.data.length true with
    | none => s.ackOn r.qp r.psn 0x62
    | some ps =>
      if s.rdmaWaits ps then { s with agenda := s.agenda ++ [.rdmaWrite r] }
      else (((s.rdmaPutAll r.data ps).takeImm asid r.imm).messageDone r.qp).ackOn r.qp r.psn 0

/-- The packets of the data of a read, 4,096 bytes each: First, Middle, Last or Only (R337). -/
def readPackets (bs : List Byte) (first : Bool) : Nat → List (Nat × List Byte)
  | 0 => []
  | k + 1 =>
    if bs.length ≤ 4096 then [(if first then 0x10 else 0x0f, bs)]
    else (if first then 0x0d else 0x0e, bs.take 4096) :: readPackets (bs.drop 4096) false k

/-- The bytes of pieces that a read takes; an armed flip meets it (R358). -/
def State.rdmaFetch (s : State) : List (Nat × Nat × Nat) → List Byte × State
  | [] => ([], s)
  | (n, kid, a) :: rest =>
    let s1 := if keyType a = 0 then s.meetFlips (keyPa a / 2 ^ 20) (keyPa a % 2 ^ 20) n else s
    let r := s1.rdmaFetch rest
    ((s1.rdP kid a n).map Prod.fst ++ r.1, r.2)

/-- RDMA_READ (R338): the responses take sequence numbers from the request's on; all but those in the middle carry an
acknowledge header (R337). -/
def State.rdmaRead (s : State) (r : RdmaRequest) : State :=
  let asid := (s.qpAt r.qp).asid
  if s.plane.halt then s
  else if !s.rdmaAllowed r.qp r.rkey then s.ackOn r.qp r.psn 0x62
  else
    match s.rdmaPlaces asid r.va.toNat r.len false with
    | none => s.ackOn r.qp r.psn 0x62
    | some ps =>
      if s.rdmaWaits ps then { s with agenda := s.agenda ++ [.rdmaRead r] }
      else
        let x := s.rdmaFetch ps
        (readPackets x.1 true (x.1.length / 4096 + 1)).zipIdx.foldl (fun s (p : (Nat × List Byte) × Nat) =>
          s.emit r.qp (packetOf r.qp p.1.1 (psnAdd r.psn p.2) (if p.1.1 = 0x0e then [] else s.aeth r.qp 0) p.1.2)) x.2

/-! ### Session messages (R341, R342, R374) -/

/-- The state that an outcome goes on to. -/
def goOn (s : State) (o : Host.Outcome State Fault Refusal) : State :=
  match o with
  | .next t => t
  | _ => s

/-- Bytes put at an offset of an image. -/
def placeAt (img : List Byte) (off : Nat) (bs : List Byte) : List Byte :=
  (img ++ List.replicate (off - img.length) 0).take off ++ bs ++ img.drop (off + bs.length)

/-- A SEND message of queue pair 1 at boot (R386): an IMAGE gives the part of an image at its offset; anything else is
malformed (R342; log 45). -/
def State.bootMessage (s : State) (qp : Nat) (bs : List Byte) : State :=
  let h := bytesToNat (bs.take 8)
  let at_ := bytesToNat ((bs.drop 8).take 8)
  let data := bs.drop 16
  let ok := decide (16 ≤ bs.length) && bitsN h 0 48 == 0x10 && bitsN at_ 0 32 == data.length
  let s1 := s.reply qp (bitsN h 0 16) (bitsN h 48 16) (if ok then 0 else 1) []
  if ok then { s1 with plane := { s1.plane with img := placeAt s1.plane.img (bitsN at_ 32 32) data } } else s1

/-- A SEND message of a session (R341): its command runs; what is malformed is answered with status 1. The
bodies of CREATE, AGREE and KEYDROP are the model's (log 13). -/
def State.message (s : State) (qp : Nat) (bs : List Byte) : State :=
  let h := bytesToNat (bs.take 8)
  let asid := bitsN h 48 16
  let cmd := bitsN h 0 16
  let body := bs.drop 8
  let x := bytesToNat body
  let bad := goOn s (sessionStep s qp cmd asid 1 [] id)
  let run (n : Nat) (ok : Bool) (o : Host.Outcome State Fault Refusal) : State :=
    if body.length = n ∧ ok then goOn s o else bad
  if s.plane.boot ≠ 6 then s.bootMessage qp bs
  else if bs.length < 8 ∨ bitsN h 16 32 ≠ 0 then bad
  else
    match cmd with
    | 1 => run 8 (decide (x < 8)) (execCreate qp asid (BitVec.ofNat 2 x) (x.testBit 2) s)
    | 2 =>
      let sup := asid == 0 && (Config.sm3 body).toNat == Config.fusedSupervisorKey
      run 65 true (execAgree qp (if sup then 2 ^ 16 else asid) body s)
    | 3 => run 32 true (execAttest qp asid body s)
    | 4 => run 0 true (execKeynew qp asid s)
    | 5 => run 2 true (execKeydrop qp asid x s)
    | 6 => run 0 true (execResume qp asid s)
    | 7 => run 0 true (execDestroy qp asid s)
    | 8 => run 8 (bitsN x 8 24 == 0) (execLogsend qp asid (bitsN x 0 8) (bitsN x 32 32) s)
    | 9 => run 8 (decide (x < 256)) (execJoin qp asid x s)
    | _ => bad

/-! ### Received packets (R337, R339) -/

/-- The opcodes of the transport (R337). -/
def opcodeOk (op : Nat) : Bool := decide (op ≤ 2) || op == 4 || (decide (6 ≤ op) && decide (op ≤ 0x11)) || op == 0x81

/-- The payload of a packet in clear with the queue pair after it; none where its tag fails or its counter is
not above the last accepted (R339, R341). -/
def Qp.unseal (q : Qp) (i : Nat) (p : EthPacket) : Option (List Byte × Qp) :=
  let clear (key : Nat) := Config.sm4Open key (nonceOf i false p.counter) (ethAad p i) p.payload
  let late : Option (List Byte × Qp) :=
    match q.oldKey with
    | some (k, c) =>
      if c < p.counter then (clear k).map fun b => (b, { q with oldKey := some (k, p.counter) }) else none
    | none => none
  if !q.sealed || p.payload.isEmpty then some (p.payload, q)
  else if q.rxCtr < p.counter then
    match clear q.key with
    | some b => some (b, { q with rxCtr := p.counter, oldKey := none })
    | none => late
  else late

/-- A number in the byte order of the transport headers (R9). -/
def beNum (bs : List Byte) : Nat := bytesToNat bs.reverse

/-- The access that a transport header names: address, R_Key, length, and the immediate after them. -/
def rdmaOf (qp : Nat) (hdr data : List Byte) (imm : Option (List Byte)) : RdmaRequest :=
  { qp := qp, rkey := BitVec.ofNat 32 (beNum ((hdr.drop 8).take 4)),
    va := BitVec.ofNat 64 (beNum (hdr.take 8)), len := beNum ((hdr.drop 12).take 4), data := data,
    imm := imm.map fun b => BitVec.ofNat 32 (beNum (b.take 4)) }

/-- How many sequence numbers a request takes: a read those of its responses (R337, log 13). -/
def spanOf (p : EthPacket) : Nat :=
  if p.opcode = 0x0c then max 1 ((beNum ((p.header.drop 12).take 4) + 4095) / 4096) else 1

/-- The access of a packet, with its sequence number. -/
def accessOf (p : EthPacket) (hdr data : List Byte) (imm : Option (List Byte)) : RdmaRequest :=
  { rdmaOf p.qp hdr data imm with psn := p.psn }

/-- A packet is acted on: messages are gathered from their packets, and the last one runs. -/
def State.deliver (s : State) (p : EthPacket) (data : List Byte) : State :=
  let q := s.qpAt p.qp
  let all := q.msg ++ data
  let s0 := s.modQp p.qp fun q => { q with msg := [], msgHdr := [] }
  let ack (s : State) : State := s.ackOn p.qp p.psn 0
  match p.opcode with
  | 0x00 => ack (s.modQp p.qp fun q => { q with msg := data })
  | 0x01 => ack (s.modQp p.qp fun q => { q with msg := all })
  | 0x02 => (ack (s0.messageDone p.qp)).message p.qp all
  | 0x04 => (ack (s.messageDone p.qp)).message p.qp data
  | 0x06 => ack (s.modQp p.qp fun q => { q with msg := data, msgHdr := p.header })
  | 0x07 => ack (s.modQp p.qp fun q => { q with msg := all })
  | 0x08 => s0.rdmaWrite (accessOf p q.msgHdr all none)
  | 0x09 => s0.rdmaWrite (accessOf p q.msgHdr all (some p.header))
  | 0x0a => s.rdmaWrite (accessOf p p.header data none)
  | 0x0b => s.rdmaWrite (accessOf p p.header data (some (p.header.drop 16)))
  | 0x0c => (s.messageDone p.qp).rdmaRead (accessOf p p.header [] none)
  | _ => s

/-- A request in the order of its sequence number (R339, log 13): the expected one is acted on; one that has been acted
on is acknowledged again, a read performed again; one ahead of a loss is refused, so that it comes again. -/
def State.inOrder (s : State) (p : EthPacket) (data : List Byte) : State :=
  let e := (s.qpAt p.qp).epsn.getD p.psn
  let d := psnGap p.psn e
  if d = 0 then (s.modQp p.qp fun q => { q with epsn := some (psnAdd p.psn (spanOf p)) }).deliver p data
  else if d < 2 ^ 23 then s.ackOn p.qp e 0x60
  else if p.opcode = 0x0c then s.rdmaRead (accessOf p p.header [] none)
  else s.ackOn p.qp (psnAdd e (2 ^ 24 - 1)) 0

/-- An acknowledgement or a NAK of the peer: the packets up to its sequence number are done; after a NAK of the
sequence those from its number on go again; any other NAK ends the queue pair. -/
def State.takeAck (s : State) (p : EthPacket) : State :=
  let x := beNum (p.header.take 1)
  if x < 0x20 then s.modQp p.qp fun q =>
    { q with unacked := q.unacked.filter fun u => decide (2 ^ 23 ≤ psnGap p.psn u.psn) }
  else if x = 0x60 then
    (s.modQp p.qp fun q => { q with unacked := q.unacked.filter fun u => decide (psnGap u.psn p.psn < 2 ^ 23) }).goBack
      p.qp
  else if 0x60 ≤ x then s.qpError p.qp
  else s

/-- Whether a queue pair takes a request: one that is ready; after boot any takes the SEND of an agreement, at boot
queue pair 1 takes SENDs (R341, R386). -/
def State.takes (s : State) (p : EthPacket) : Bool :=
  (s.qpAt p.qp).st == 1 ||
    (if s.plane.boot = 6 then p.opcode == 4 && bytesToNat ((p.payload.take 8).take 2) == 2
    else p.qp == 1 && (s.plane.boot == 2 || s.plane.boot == 3) && (decide (p.opcode ≤ 2) || p.opcode == 4))

/-- A checked packet is opened and acted on (R339); one with more than 4,096 bytes is no packet of the transport
(R337). -/
def State.acceptPacket (s : State) (p : EthPacket) : State :=
  let q := s.qpAt p.qp
  let q1 := if q.st = 1 then q else { q with sealed := false }
  match q1.unseal p.qp p with
  | none => s.modQp p.qp fun q => { q with tagf := min 255 (q.tagf + 1) }
  | some (data, q2) =>
    if q1.sealed && decide (2 ^ 40 ≤ p.counter) then s.qpError p.qp
    else
      let s1 := s.modQp p.qp fun q => { q with rxCtr := q2.rxCtr, oldKey := q2.oldKey }
      if 4096 < data.length then (s1.ackOn p.qp p.psn 0x61).qpError p.qp else s1.inOrder p data

/-- Whether an access of a queue pair waits at its home. -/
def State.qpBusy (s : State) (qp : Nat) : Bool :=
  s.agenda.any fun e =>
    match e with
    | .rdmaWrite r => r.qp == qp
    | .rdmaRead r => r.qp == qp
    | _ => false

/-- Whether a frame is one of the transport: a good ICRC, the RoCEv2 port, at most 9,216 bytes (R337). -/
def framed (p : EthPacket) : Bool := p.icrc && p.port == 4791 && decide (p.frame ≤ 9216)

/-- A received packet (R337): the notice for a congestion mark goes when none went within 50 µs; an opcode
that the transport does not have, or another service, is refused and ends the queue pair; a request behind an access
that waits is kept until that is performed. The device reads nothing from the host: it awaits no responses. -/
def State.receive (s : State) (p : EthPacket) : State :=
  let cnp := packetOf p.qp 0x81 0 [] []
  let s1 := if p.ce then (if Config.freeBool s.freeCtr then s.emit p.qp cnp else s).draw else s
  if !p.rc || !opcodeOk p.opcode then (s1.ackOn p.qp p.psn 0x61).qpError p.qp
  else if p.opcode = 0x81 then s1.modQp p.qp fun q => { q with rate := q.rate / 2 }
  else if p.opcode = 0x11 then s1.takeAck p
  else if 0x0d ≤ p.opcode ∨ !s1.takes p then s1
  else if s1.qpBusy p.qp then s1.modQp p.qp fun q => { q with waiting := q.waiting ++ [{ p with ce := false }] }
  else s1.acceptPacket p

/-- The packets that waited behind an access, in their order, until another one waits; k at most. -/
def State.serve (s : State) (qp : Nat) : Nat → State
  | 0 => s
  | k + 1 =>
    match (s.qpAt qp).waiting with
    | [] => s
    | p :: rest =>
      if s.qpBusy qp then s
      else ((s.modQp qp fun q => { q with waiting := rest }).receive p).serve qp k

def execRdmaWrite (r : RdmaRequest) (s : State) : Host.Outcome State Fault Refusal :=
  .next ((s.rdmaWrite r).serve r.qp (s.qpAt r.qp).waiting.length)

def execRdmaRead (r : RdmaRequest) (s : State) : Host.Outcome State Fault Refusal :=
  .next ((s.rdmaRead r).serve r.qp (s.qpAt r.qp).waiting.length)

/-- Whether a queue pair carries the route of a lost slot: what comes from its package is dropped unanswered (R365). -/
def State.qpFenced (s : State) (qp : Nat) : Bool :=
  s.routes.any fun r => r.2.v && r.2.kind && r.2.st == 2 && r.2.qpn == qp

/-- ETH_PACKET_RECEIVE (R337); a frame that is none of the transport is dropped. -/
def execEthPacketReceive (p : EthPacket) (s : State) : Host.Outcome State Fault Refusal :=
  stepIf (decide (p.qp < 4096) && !s.plane.halt && framed p && !s.qpFenced p.qp) s (s.receive p)

end Sys2Proof.Machine
end

