-- ==== Sys2Proof/Machine/Boot.lean ====
section
/-! DEFINITION. Boot and the resets of the package (R341, R343, R344, R356, R386, R387). -/

namespace Sys2Proof.Machine

/-- An image: what messages have given of it, and what comes with its signature (R386; log 45). -/
def State.bootImage (s : State) (m : ImageMsg) : List Byte := s.plane.img ++ m.data

/-- Whether an image passes the checks of the ROM (R386): the signature over SM3 under the fused key, and a
version not below the count of set rollback fuses. -/
def State.imagePasses (s : State) (m : ImageMsg) : Bool :=
  let data := s.bootImage m
  Config.sm2Verify Config.fusedFirmwareKey (Config.sm3 data) m.sig &&
    decide (s.plane.rollback ≤ bytesToNat ((data.drop 8).take 4))

/-- An extend of a measurement register (R344). -/
def extend (x : BitVec 256) (d : List Byte) : BitVec 256 := Config.sm3 (natToBytes 32 x.toNat ++ d)

/-- Steps 4 to 6 (R386): the copies start and VOTE reads 0; key 0 is generated, every memory is zero, every
bank gated; queue pair 1 closes. -/
def State.bootMemory (s : State) : State :=
  { s with
    mem := [], marks := [], lineKey := [], memKeys := [], tiles := [], qps := s.qps.del 1,
    plane := { s.plane with
      boot := 6, key0 := Config.freshKey s.freeCtr, dis := 0, rsy := false, rcyc := 0, rsc := 0,
      dsc := 0, upset := 0 } }.draw

/-- IMAGE (R386): the first image that passes is firmware, the next the microcode of the plane; one that
fails is discarded with status 11. -/
def execImage (m : ImageMsg) (s : State) : Host.Outcome State Fault Refusal :=
  let p := { s.plane with img := [] }
  .next (if (p.boot ≠ 2 ∧ p.boot ≠ 3) ∨ p.halt then s
    else if !s.imagePasses m then { s.reply 1 0x10 0 11 [] with plane := p }
    else
      let s1 := s.reply 1 0x10 0 0 []
      if p.boot = 2 then { s1 with plane := { p with boot := 3, mr0 := extend p.mr0 (s.bootImage m) } }
      else { s1 with plane := { p with mr1 := extend p.mr1 (s.bootImage m) } }.bootMemory)

/-- Whether an entry of the agenda is an access that waits inside the package: a reset ends it (R387). -/
def waitsInside (i : Instr) : Bool :=
  match i with
  | .keydrop .. | .rdmaWrite _ | .rdmaRead _ | .remoteWriteArrival _ | .resultGatherWrite _ | .segmentArrival _ => true
  | _ => false

/-- The package after a reset (R387): fuses stay, and what no reset reaches: the wiring of the pod, what has
left the package, the inputs still to come and the count of free values. -/
def State.afterReset (s : State) : State :=
  { State.reset with
    own := s.own, pod := s.pod, sent := s.sent, logOut := s.logOut, statuses := s.statuses,
    agenda := s.agenda.filter fun i => !waitsInside i,
    freeCtr := s.freeCtr, plane := { State.reset.plane with rollback := s.plane.rollback } }

/-- POWER_ON_RESET (R387). -/
def execPowerOnReset (s : State) : Host.Outcome State Fault Refusal := .next s.afterReset

/-- COMMANDED_RESET (R356, R387): keeps the error log and the plan log too. -/
def execCommandedReset (s : State) : Host.Outcome State Fault Refusal :=
  let p := s.plane
  .next { s.afterReset with
    plane := { State.reset.plane with
      rollback := p.rollback, log := p.log, logW := p.logW, logR := p.logR, logOvf := p.logOvf,
      plans := p.plans } }

/-- BUMP_ROLLBACK_COUNTER (R386): after step 6; a fuse once set stays set, and there are 64. -/
def execBumpRollbackCounter (count : Nat) (s : State) : Host.Outcome State Fault Refusal :=
  stepIf s.sessionsOpen s
    { s with plane := { s.plane with rollback := max s.plane.rollback (min 64 count) } }

end Sys2Proof.Machine
end

