-- ==== Sys2Proof/Machine/Readback.lean ====
section
/-! DEFINITION. Writes of readback registers that have no step of their own (R10, R11, R17, R59, R200, R227,
R243, R260, R267 to R269, R286, R290, R292, R301, R357, R360, R361, R372). -/

namespace Sys2Proof.Machine

/-- Whether a value has a 1 in one of the ranges given as lowest bit and count, or above bit 63: the write is
rejected (R11). -/
def reservedSet (x : Nat) (rs : List (Nat × Nat)) : Bool :=
  decide (2 ^ 64 ≤ x) || rs.any fun r => bitsN x r.1 r.2 != 0

/-- The domain state word (R200): TMO and POL. -/
def State.rbDomain (s : State) (level dom x : Nat) : Option State :=
  if reservedSet x [(16, 5)] ∨ level = 0 ∨ 5 < level ∨ (s.doms.val? (domKey level dom)).isNone then none
  else some (s.modDom level dom fun d => { d with tmo := BitVec.ofNat 16 x, pol := x.testBit 22 })

/-- A multicast entry (R243). -/
def State.rbMulticast (s : State) (g i x : Nat) : Option State :=
  if reservedSet x [(32, 31)] ∨ 64 ≤ i ∨ g / 32 ≠ s.own then none
  else some (s.modGroup g fun y => { y with mcast := y.mcast.put i (BitVec.ofNat 64 x) })

/-- A context word (R267): ASID, KEYID, PCAP and SUPOK; an ASID stays unique. -/
def State.rbCtx (s : State) (i x : Nat) : Option State :=
  let asid := bitsN x 48 16
  let c := s.ctxs.val {} i
  if reservedSet x [(24, 8), (3, 5)] ∨ 64 ≤ i ∨ (asid ≠ c.asid ∧ s.resident asid) then none
  else some { s with ctxs := s.ctxs.put i { c with
    asid := asid, keyid := bitsN x 35 13, pcap := BitVec.ofNat 2 (bitsN x 33 2), supok := x.testBit 32 } }

/-- PTROOT (R292). -/
def State.rbPtroot (s : State) (i x : Nat) : Option State :=
  let c := s.ctxs.val {} i
  if reservedSet x [(39, 25), (0, 20)] ∨ c.st = 0 then none
  else some { s with ctxs := s.ctxs.put i { c with ptroot := BitVec.ofNat 64 x } }

/-- EVC (R290): HEAD, and OVF by writing 1. -/
def State.rbEvc (s : State) (i x : Nat) : Option State :=
  let c := s.ctxs.val {} i
  if reservedSet x [(24, 8), (1, 7)] ∨ c.st = 0 then none
  else
    some ((s.modCtx c.asid fun c => { c with evOvf := c.evOvf && !x.testBit 0 }).headWrite c.asid
      (BitVec.ofNat 32 (bitsN x 32 32)))

/-- Changes a ring of four. -/
def putRing (m : SMap Ring) (q : Nat) (f : Ring → Ring) : SMap Ring := m.put q (f (m.val {} q))

/-- LQBASE and KQBASE (R268, R269): multiples of 4 KiB, the second 39 bits wide. -/
def State.rbBase (s : State) (kq : Bool) (q x : Nat) : Option State :=
  let f (r : Ring) : Ring := { r with base := BitVec.ofNat 64 x }
  if reservedSet x (if kq then [(39, 25)] else []) ∨ x % 4096 ≠ 0 ∨ 4 ≤ q then none
  else some (if kq then { s with kq := putRing s.kq q f } else { s with lq := putRing s.lq q f })

/-- LQSIZE and KQSIZE (R268, R269). -/
def State.rbSize (s : State) (kq : Bool) (q x : Nat) : Option State :=
  let f (r : Ring) : Ring := { r with size := BitVec.ofNat 16 x }
  if reservedSet x [(16, 48)] ∨ 4 ≤ q then none
  else some (if kq then { s with kq := putRing s.kq q f } else { s with lq := putRing s.lq q f })

/-- An entry of a Thyme ring (R227): only while MODE is 0. -/
def State.rbThyme (s : State) (tile i : Nat) (x : BitVec 128) : Option State :=
  if bitsN x.toNat 64 14 ≠ 0 ∨ bitsN x.toNat 0 44 ≠ 0 ∨ 4 ≤ thyKind x ∨ 256 ≤ i ∨
      (s.tileAt tile).trcMode ≠ 0 then none
  else some (s.modTileAt tile fun t => { t with ring := t.ring.put i x })

/-- CTRC of a stack (R260): BASE and SIZE only while MODE is 0; a replay starts with no record used. -/
def State.rbCtrc (s : State) (st x : Nat) : Option State :=
  let t := s.traces.val {} st
  let base := bitsN x 32 32
  let size := bitsN x 16 16
  let mode := bitsN x 0 2
  let moved := base != t.base || size != t.size
  if reservedSet x [(4, 12)] ∨ mode = 3 ∨ 8 ≤ st ∨ (moved ∧ t.mode ≠ 0) then none
  else some { s with traces := s.traces.put st { t with
    base := base, size := size, mode := mode, divg := t.divg && !x.testBit 3,
    full := t.full && !x.testBit 2, used := if moved then 0 else t.used,
    taken := if mode = t.mode then t.taken else [] } }

/-- MCTL (R360): OSLOT and PTH. -/
def State.rbMctl (s : State) (x : Nat) : Option State :=
  if reservedSet x [(0, 16)] then none
  else some { s with mctl := setBits (setBits s.mctl 56 8 (bitsN x 56 8)) 48 8 (bitsN x 48 8) }

/-- MBVA (R360): 0, or a multiple of 64 that translates to type 3 under a resident context. -/
def State.rbMbva (s : State) (x : Nat) : Option State :=
  let ok := x == 0 || (x % 64 == 0 && s.ctxs.any fun c => c.2.st != 0 && s.imageAddr c.2.asid x)
  if reservedSet x [] ∨ !ok then none else some { s with mbva := BitVec.ofNat 64 x }

/-- A route (R361): rejected while its slot is a member or joining. -/
def State.rbRoute (s : State) (slot x : Nat) : Option State :=
  let r := s.routes.val {} slot
  if reservedSet x [(32, 20)] ∨ 256 ≤ slot ∨ r.st = 1 ∨ r.st = 3 then none
  else some { s with routes := s.routes.put slot { r with
    v := x.testBit 63, kind := x.testBit 60, pkg := bitsN x 24 8, qpn := bitsN x 0 24 } }

/-- SLOGA (R372): BASE and SIZE only while MODE is 0; a new area holds nothing. -/
def State.rbSloga (s : State) (x : Nat) : Option State :=
  let l := s.slog
  let base := bitsN x 32 32
  let size := bitsN x 10 22
  let moved := base != l.base || size != l.size
  if reservedSet x [(2, 8)] ∨ bitsN x 0 2 = 3 ∨ 2097152 < size ∨ (moved ∧ l.mode ≠ 0) then none
  else
    let l1 := { l with base := base, size := size, mode := bitsN x 0 2 }
    some { s with slog := if moved then { l1 with steps := [], wr := 0, rd := 0 } else l1 }

/-- SLOGB (R372): GAP and OVF by writing 1. -/
def State.rbSlogb (s : State) (x : Nat) : Option State :=
  if reservedSet x [(0, 1)] then none
  else some { s with slog := { s.slog with gap := s.slog.gap && !x.testBit 2, ovf := s.slog.ovf && !x.testBit 1 } }

/-- ELOG (R357): RPTR gives up the entries before it, and OVF clears by writing 1. -/
def State.rbElog (s : State) (x : Nat) : Option State :=
  let p := s.plane
  let r := bitsN x 10 8
  let n := if r = p.logR then p.log.length else min p.log.length ((p.logW + 256 - r) % 256)
  if reservedSet x [(26, 38)] then none
  else some { s with plane := { p with
    log := p.log.drop (p.log.length - n), logR := (p.logW + 256 - n) % 256,
    logOvf := p.logOvf && !x.testBit 0 } }

/-- The fault status word of a group (R301): DROP by writing 1. -/
def State.rbFault (s : State) (g x : Nat) : Option State :=
  if reservedSet x [(16, 48), (4, 3)] then none
  else some (s.modGroup g fun y => { y with drop := y.drop && !x.testBit 7 })

/-- Whether a tile holds a record. -/
def State.hasStrand (s : State) (tile r : Nat) : Bool := ((s.tileAt tile).strands.val? r).isSome

/-- A special register of a strand or its tile (R59). -/
def State.rbSpecial (s : State) (tile r num x : Nat) : Option State :=
  if reservedSet x [] ∨ specialBad num (BitVec.ofNat 64 x) ∨ !s.hasStrand tile r then none
  else
    let t := { s with cur := tile, curRec := r }.wrSpecial num (BitVec.ofNat 64 x)
    some { t with cur := s.cur, curRec := s.curRec }

/-- Changes a strand that its owner's session writes. -/
def State.rbStrand (s : State) (tile r : Nat) (ok : Bool) (f : Strand → Strand) : Option State :=
  if ok && s.hasStrand tile r then some (s.modStrandAt tile r f) else none

/-- A reference register with its state word above the value (R55). -/
def hregOf (x : Nat) : HReg :=
  let w := bitsN x 64 32
  { val := BitVec.ofNat 64 x, poi := w.testBit 23, unh := w.testBit 22, hbv := w.testBit 21,
    hba := BitVec.ofNat 20 w }

/-- Replaces n bits from bit lo on. -/
def putField {w : Nat} (b : BitVec w) (lo n x : Nat) : BitVec w :=
  BitVec.ofNat w (b.toNat - bitsN b.toNat lo n * 2 ^ lo + bitsN x 0 n * 2 ^ lo)

/-- Writes a lane of a vector register, with its poison above the value. -/
def VReg.withLane (v : VReg) (i x : Nat) : VReg :=
  { v with
    lanes := putField v.lanes (32 * i) 32 x,
    pois := if x.testBit 32 then v.pois ||| (1#64 <<< i) else v.pois &&& ~~~ (1#64 <<< i) }

/-- Whether a written descriptor (R53) is rejected: a reserved bit, a tag of 12 to 15 (R44), or a field that is
not the register's own. -/
def descBad (x : Nat) (gen src drop sovf sexp : Bool) : Bool :=
  reservedSet x [(12, 21)] || decide (12 ≤ bitsN x 8 4) || (!gen && bitsN x 48 16 != 0) ||
    (!src && bitsN x 43 5 != 0) || (!drop && x.testBit 42) || (!sovf && x.testBit 41) ||
    (!sexp && bitsN x 33 8 != 0x80)

/-- Registers with the fields of a written descriptor (R53) or build word (R155). -/
def VReg.withDesc (v : VReg) (x : Nat) : VReg :=
  { v with tag := BitVec.ofNat 4 (bitsN x 8 4), blk := BitVec.ofNat 8 x }
def MReg.withDesc (m : MReg) (x : Nat) : MReg :=
  { m with gen := BitVec.ofNat 16 (bitsN x 48 16), tag := BitVec.ofNat 4 (bitsN x 8 4), blk := BitVec.ofNat 8 x }
def AReg.withDesc (a : AReg) (x : Nat) : AReg :=
  { a with sovf := x.testBit 41, sexp := BitVec.ofNat 8 (bitsN x 33 8) }
def TbReg.withDesc (t : TbReg) (x : Nat) : TbReg :=
  { t with
    gen := BitVec.ofNat 16 (bitsN x 48 16), src := bitsN x 43 5, drop := x.testBit 42,
    tag := BitVec.ofNat 4 (bitsN x 8 4), blk := BitVec.ofNat 8 x }
def TbReg.withBuild (t : TbReg) (x : Nat) : TbReg :=
  { t with
    pois := BitVec.ofNat 16 (bitsN x 32 16), changed := x.testBit 31, mode := x.testBit 30, q := bitsN x 28 2,
    sfmt := BitVec.ofNat 4 (bitsN x 24 4), eb := BitVec.ofNat 8 (bitsN x 8 8), et := BitVec.ofNat 8 x }

/-- Whether a strand holds a claim slot (R50). -/
def Tile.claimed (t : Tile) (c : Nat) : Bool := t.strands.any fun p => p.2.claim == some c

/-- Changes a register of a slot that is claimed. -/
def State.rbPool (s : State) (tile c : Nat) (ok : Bool) (f : Tile → Tile) : Option State :=
  if ok && (s.tileAt tile).claimed c then some (s.modTileAt tile f) else none

/-- Whether n is below a bound and x fits in some bits. -/
def inBounds (n bound x bits : Nat) : Bool := decide (n < bound) && decide (x < 2 ^ bits)

/-- An entry of a queue of a strand, with its poison above the value: the queues are numbered as R62 does. -/
def Strand.putEntry (st : Strand) (q i x : Nat) : Option Strand :=
  let v : Word := BitVec.ofNat 64 x
  let p := x.testBit 64
  if 2 ^ 65 ≤ x then none
  else if q < 4 then
    match (st.lqOf q)[i]? with
    | some (.held _ _) => some { st with lq := st.lq.put q ((st.lqOf q).set i (.held v p)) }
    | _ => none
  else if q < 6 ∧ i < (st.sqOf (q - 4)).length then
    some { st with sq := st.sq.put (q - 4) ((st.sqOf (q - 4)).set i (v, p)) }
  else none

/-- A pending drain of a store queue as the map shows it: its address, its bytes, and whether its predicate passed. -/
def Strand.putDrain (st : Strand) (q i x : Nat) : Option Strand :=
  match (st.drains.val [] q)[i]? with
  | some d =>
    if 2 ^ 25 ≤ x then none
    else
      some { st with drains := st.drains.put q ((st.drains.val [] q).set i
        { d with ea := bitsN x 0 20, bytes := bitsN x 20 4, ppass := x.testBit 24 }) }
  | none => none

/-- A word of the open packet, byte by byte, its poison above the value. -/
def Strand.putPacket (st : Strand) (i x : Nat) : Option Strand :=
  st.pkt.bind fun c =>
    if i < c.words.length ∧ x < 2 ^ 9 then
      some { st with pkt := some { c with words := c.words.set i (BitVec.ofNat 8 x, x.testBit 8) } }
    else none

/-- A field of an open region: entry PC, RNGS, packet count, consumption count (R351). -/
def Strand.putRegion (st : Strand) (n x : Nat) : Option Strand :=
  st.region.bind fun rg =>
    match n with
    | 0 => if pcForm (BitVec.ofNat 64 x) ∧ x < 2 ^ 64 then
        some { st with region := some { rg with entry := BitVec.ofNat 64 x } } else none
    | 1 => if x < 2 ^ 32 then some { st with region := some { rg with rngs := BitVec.ofNat 32 x } } else none
    | 2 => some { st with region := some { rg with pkt := x } }
    | 3 => some { st with region := some { rg with count := x } }
    | _ => none

/-- Writes part of a strand, where that part is there. -/
def State.rbPart (s : State) (tile r : Nat) (f : Strand → Option Strand) : Option State :=
  if s.hasStrand tile r then (f (s.strandAt tile r)).map fun st => s.modStrandAt tile r fun _ => st else none

/-- Eight bytes of a tile's instruction store (R65). -/
def State.rbCode (s : State) (tile off x : Nat) : Option State :=
  if off % 8 ≠ 0 ∨ 2 ^ 17 ≤ off ∨ 2 ^ 64 ≤ x then none
  else some { s with mem := wrBytes s.mem (codeKey tile off) (natToBytes 8 x) }

/-- Writes an entry of a queue. -/
def State.rbEntry (s : State) (tile r q i x : Nat) : Option State :=
  s.rbPart tile r fun st => st.putEntry q i x

/-- Writes eight bytes of a tile's SRAM, with one poison bit above them. -/
def State.rbSram (s : State) (tile off x : Nat) : Option State :=
  if off % 8 ≠ 0 ∨ 2 ^ 20 ≤ off ∨ 2 ^ 65 ≤ x ∨ (s.tileAt tile).gated off then none
  else some (s.stNum tile off 8 x (x.testBit 64))

/-- The write of a register of the tile pool or of the PWL table (R51, R53, R137, R155). -/
def State.rbTile (s : State) (reg : RbReg) (x : Nat) : Option State :=
  match reg with
  | .mWord t i w => s.rbPool t (i / 8) (inBounds w 512 x 64) fun u =>
      { u with m := u.m.put i { u.m.val {} i with data := putField (u.m.val {} i).data (64 * w) 64 x } }
  | .mPois t i w => s.rbPool t (i / 8) (inBounds w 64 x 64) fun u =>
      { u with m := u.m.put i { u.m.val {} i with pois := putField (u.m.val {} i).pois (64 * w) 64 x } }
  | .mDesc t i => s.rbPool t (i / 8) (!descBad x true false false false false) fun u =>
      { u with m := u.m.put i ((u.m.val {} i).withDesc x) }
  | .aWord t i w => s.rbPool t (i / 4) (inBounds w 512 x 64) fun u =>
      { u with a := u.a.put i { u.a.val {} i with c := putField (u.a.val {} i).c (64 * w) 64 x } }
  | .aStage t i w => s.rbPool t (i / 4) (inBounds w 768 x 64) fun u =>
      { u with a := u.a.put i { u.a.val {} i with stage := putField (u.a.val {} i).stage (64 * w) 64 x } }
  | .aPois t i w => s.rbPool t (i / 4) (inBounds w 16 x 64) fun u =>
      { u with a := u.a.put i { u.a.val {} i with pois := putField (u.a.val {} i).pois (64 * w) 64 x } }
  | .aDesc t i =>
    s.rbPool t (i / 4) (!descBad x false false false true true && bitsN x 0 8 == 0x80 && bitsN x 8 4 == 2) fun u =>
      { u with a := u.a.put i ((u.a.val {} i).withDesc x) }
  | .tbEntry t i e => s.rbPool t (i / 2) (inBounds e 4096 x 20 && !((s.tileAt t).tb.val {} i).drop) fun u =>
      { u with tb := u.tb.put i { u.tb.val {} i with ents := putField (u.tb.val {} i).ents (20 * e) 20 x } }
  | .tbDesc t i => s.rbPool t (i / 2) (!descBad x true true true false false) fun u =>
      { u with tb := u.tb.put i ((u.tb.val {} i).withDesc x) }
  | .tbBuild t i =>
    s.rbPool t (i / 2) (!reservedSet x [(48, 16), (16, 8)] && decide (bitsN x 24 4 < 12)) fun u =>
      { u with tb := u.tb.put i ((u.tb.val {} i).withBuild x) }
  | .tbBook t i => s.rbPool t (i / 2) ((natToBytes 16 x).all fun b => decide (b.toNat < 64)) fun u =>
      { u with tb := u.tb.put i { u.tb.val {} i with book := natToBytes 16 x } }
  | .pwl t i =>
    if inBounds i 320 x 32 then some (s.modTileAt t fun u => { u with pwl := u.pwl.put i (BitVec.ofNat 32 x) })
    else none
  | .pwln t => if x ≤ 64 then some (s.modTileAt t fun u => { u with pwln := x }) else none
  | _ => none

/-- The tile that a register of a tile names. -/
def tileOfReg : RbReg → Option Nat
  | .strandSpecial t _ _ | .strandPc t _ | .strandG t _ _ | .strandK t _ _ | .strandH t _ _ | .strandV t _ _ _
  | .strandVDesc t _ _ | .strandFrame t _ | .strandAbort t _ | .strandPacket t _ _ | .strandRegion t _ _
  | .strandDrain t _ _ _ | .codeWord t _ | .strandEntry t _ _ _ | .sramWord t _ | .mWord t _ _ | .mPois t _ _
  | .mDesc t _ | .aWord t _ _ | .aStage t _ _ | .aPois t _ _ | .aDesc t _ | .tbEntry t _ _ | .tbDesc t _
  | .tbBuild t _ | .tbBook t _ | .pwl t _ | .pwln t => some t
  | _ => none

/-- The write of a register, whoever asks for it; none where it is rejected. -/
def State.rbHere (s : State) (reg : RbReg) (v : BitVec 128) : Option State :=
  let x := v.toNat
  match reg with
  | .domainWord l d => s.rbDomain l d x
  | .multicast g i => s.rbMulticast g i x
  | .ctxWord i => s.rbCtx i x
  | .ptroot i => s.rbPtroot i x
  | .evc i => s.rbEvc i x
  | .lqBase q => s.rbBase false q x
  | .lqSize q => s.rbSize false q x
  | .kqBase q => s.rbBase true q x
  | .kqSize q => s.rbSize true q x
  | .thymeEntry t i => s.rbThyme t i v
  | .ctrc st => s.rbCtrc st x
  | .mctl => s.rbMctl x
  | .mbva => s.rbMbva x
  | .route i => s.rbRoute i x
  | .sloga => s.rbSloga x
  | .slogb => s.rbSlogb x
  | .elog => s.rbElog x
  | .faultStatus g => s.rbFault g x
  | .strandSpecial t r n => s.rbSpecial t r n x
  | .strandPc t r => s.rbStrand t r (pcForm (BitVec.ofNat 64 x) && decide (x < 2 ^ 64))
      fun st => { st with pc := BitVec.ofNat 64 x, target := none, stall := none }
  | .strandG t r n => s.rbStrand t r (inBounds n 32 x 65)
      fun st => st.wg n (BitVec.ofNat 64 x) (x.testBit 64)
  | .strandK t r n => s.rbStrand t r (decide (0 < n) && inBounds n 8 x 64)
      fun st => { st with k := st.k.put n (BitVec.ofNat 64 x) }
  | .strandH t r n => s.rbStrand t r (decide (n < 16) && bitsN x 84 1 == 0 && bitsN x 88 40 == 0)
      fun st => { st with h := st.h.put n (hregOf x) }
  | .strandV t r n i => s.rbStrand t r (decide (n < 32) && inBounds i 64 x 33)
      fun st => { st with v := st.v.put n ((st.v.val {} n).withLane i x) }
  | .strandVDesc t r n => s.rbStrand t r (decide (n < 32) && !descBad x false false false false false)
      fun st => { st with v := st.v.put n ((st.v.val {} n).withDesc x) }
  | .strandFrame t r => s.rbStrand t r (decide (x < 2 ^ 9) && bitsN x 6 2 == 0)
      fun st => { st with frameRpt := x.testBit 8, frameIdx := bitsN x 0 6 }
  | .strandEntry t r q i => s.rbEntry t r q i x
  | .strandAbort t r => s.rbStrand t r (pcForm (BitVec.ofNat 64 x) && decide (x < 2 ^ 64))
      fun st => { st with abortPc := BitVec.ofNat 64 x }
  | .strandPacket t r i => s.rbPart t r fun st => st.putPacket i x
  | .strandRegion t r n => s.rbPart t r fun st => st.putRegion n x
  | .strandDrain t r q i => s.rbPart t r fun st => st.putDrain q i x
  | .codeWord t off => s.rbCode t off x
  | .sramWord t off => s.rbSram t off x
  | .evicted _ _ => none
  | reg => s.rbTile reg x

/-! ### Contexts that stand in their save slots (R277, R281, R286) -/

/-- The state in which a saved context stands in its tile as its restore would put it there. -/
def State.recalled (s : State) (x : Saved) : State :=
  let s1 := s.restoreRegions x.kernel x.tile
  { s1 with tiles := s1.tiles.put x.tile x.img }

/-- What a change of a recalled context leaves in its save slot; the tile itself stays as it was. -/
def State.putAway (s t : State) (x : Saved) : State :=
  let t1 := t.saveSlot x.kernel x.tile
  let a := sramKey x.tile 0
  let here (k : Nat) : Bool := decide (a ≤ k) && decide (k < a + 2 ^ 20)
  { t1 with
    mem := (s.mem.filter fun c => here c.1).foldl (fun m c => wrBytes m c.1 [c.2]) (memClear t1.mem a (2 ^ 20)),
    marks := (s.marks.filter here).foldl setMark (t1.marks.filter fun g => !here g),
    tiles := s.tiles,
    saves := s.saves.map fun y => if y = x then { x with img := t1.tileAt x.tile } else y }

/-- The saved context of a kernel's share of a tile. -/
def State.savedOf (s : State) (k tile : Nat) : Option Saved :=
  s.saves.find? fun x => x.kernel == k && x.tile == tile

/-- The write of a register of a tile or of an evicted one. -/
def State.rbWrite (s : State) (reg : RbReg) (v : BitVec 128) : Option State :=
  match reg with
  | .evicted k r =>
    ((tileOfReg r).bind (s.savedOf k)).bind fun x => ((s.recalled x).rbHere r v).map fun t => s.putAway t x
  | reg => s.rbHere reg v

/-- Whether the session keyed to the context of a tile asks. -/
def State.ownerOf (s : State) (w : ReadbackWrite) (tile : Nat) : Bool :=
  !w.supervisor && (s.tileAt tile).kernel.isSome && s.asidOf tile == w.asid

/-- Whether a session may write a register: state of a context by its own session, EVC, the Thyme ring and
special registers also by the supervisor's, the rest by the supervisor's alone. -/
def State.rbAllowed (s : State) (w : ReadbackWrite) : Bool :=
  match w.reg with
  | .evc i => w.supervisor || (s.ctxs.val {} i).asid == w.asid
  | .thymeEntry t _ => w.supervisor || s.ownerOf w t
  | .strandSpecial t _ _ => w.supervisor || s.ownerOf w t
  | .evicted k (.strandSpecial _ _ _) => w.supervisor || (s.kernAt k).asid == w.asid
  | .evicted k _ => !w.supervisor && (s.kernels.val? k).isSome && (s.kernAt k).asid == w.asid
  | reg =>
    match tileOfReg reg with
    | some t => s.ownerOf w t
    | none => w.supervisor

/-- REGISTER_WRITE (R10, R11): a write that is rejected writes nothing and is answered with an error status. -/
def execRegisterWrite (w : ReadbackWrite) (s : State) : Host.Outcome State Fault Refusal :=
  .next (s.answered (if s.sessionsOpen && s.rbAllowed w then s.rbWrite w.reg w.value else none))

end Sys2Proof.Machine
end

