-- ==== Sys2Proof/Machine/Dispatch.lean ====
section
/-! DEFINITION. The one dispatch of instructions and steps to their meanings. -/

namespace Sys2Proof.Machine

def exec (i : Instr) (s : State) : Host.Outcome State Fault Refusal :=
  match i with
  | .add f => Sys2Proof.Machine.execAdd f s
  | .sub f => Sys2Proof.Machine.execSub f s
  | .mul f => Sys2Proof.Machine.execMul f s
  | .mulh f => Sys2Proof.Machine.execMulh f s
  | .div f => Sys2Proof.Machine.execDiv f s
  | .rem f => Sys2Proof.Machine.execRem f s
  | .and f => Sys2Proof.Machine.execAnd f s
  | .or f => Sys2Proof.Machine.execOr f s
  | .xor f => Sys2Proof.Machine.execXor f s
  | .andn f => Sys2Proof.Machine.execAndn f s
  | .shl f => Sys2Proof.Machine.execShl f s
  | .shr f => Sys2Proof.Machine.execShr f s
  | .sar f => Sys2Proof.Machine.execSar f s
  | .rol f => Sys2Proof.Machine.execRol f s
  | .min f => Sys2Proof.Machine.execMin f s
  | .max f => Sys2Proof.Machine.execMax f s
  | .clz f => Sys2Proof.Machine.execClz f s
  | .ctz f => Sys2Proof.Machine.execCtz f s
  | .popc f => Sys2Proof.Machine.execPopc f s
  | .set c f => Sys2Proof.Machine.execSet c f s
  | .sel f => Sys2Proof.Machine.execSel f s
  | .mov f => Sys2Proof.Machine.execMov f s
  | .movi d a imm => Sys2Proof.Machine.execMovi d a imm s
  | .sext f => Sys2Proof.Machine.execSext f s
  | .zext f => Sys2Proof.Machine.execZext f s
  | .bfx f => Sys2Proof.Machine.execBfx f s
  | .bfi f => Sys2Proof.Machine.execBfi f s
  | .lea f => Sys2Proof.Machine.execLea f s
  | .ld f => Sys2Proof.Machine.execLd f s
  | .st f => Sys2Proof.Machine.execSt f s
  | .ldq f => Sys2Proof.Machine.execLdq f s
  | .stq f => Sys2Proof.Machine.execStq f s
  | .qcfg f => Sys2Proof.Machine.execQcfg f s
  | .qadv f => Sys2Proof.Machine.execQadv f s
  | .br c f => Sys2Proof.Machine.execBr c f s
  | .jmp f => Sys2Proof.Machine.execJmp f s
  | .jmpr f => Sys2Proof.Machine.execJmpr f s
  | .call f => Sys2Proof.Machine.execCall f s
  | .ret f => Sys2Proof.Machine.execRet f s
  | .loop f => Sys2Proof.Machine.execLoop f s
  | .rep r => Sys2Proof.Machine.execRep r s
  | .nop f => Sys2Proof.Machine.execNop f s
  | .brk f => Sys2Proof.Machine.execBrk f s
  | .trap f => Sys2Proof.Machine.execTrap f s
  | .vadd f => Sys2Proof.Machine.execVadd f s
  | .vsub f => Sys2Proof.Machine.execVsub f s
  | .vmul f => Sys2Proof.Machine.execVmul f s
  | .vfma f => Sys2Proof.Machine.execVfma f s
  | .vmin f => Sys2Proof.Machine.execVmin f s
  | .vmax f => Sys2Proof.Machine.execVmax f s
  | .vabs f => Sys2Proof.Machine.execVabs f s
  | .vneg f => Sys2Proof.Machine.execVneg f s
  | .vcmp c f => Sys2Proof.Machine.execVcmp c f s
  | .vsel f => Sys2Proof.Machine.execVsel f s
  | .vand f => Sys2Proof.Machine.execVand f s
  | .vor f => Sys2Proof.Machine.execVor f s
  | .vxor f => Sys2Proof.Machine.execVxor f s
  | .vshl f => Sys2Proof.Machine.execVshl f s
  | .vshr f => Sys2Proof.Machine.execVshr f s
  | .vsar f => Sys2Proof.Machine.execVsar f s
  | .vcvt f => Sys2Proof.Machine.execVcvt f s
  | .vred op f => Sys2Proof.Machine.execVred op f s
  | .vscan op f => Sys2Proof.Machine.execVscan op f s
  | .vperm f => Sys2Proof.Machine.execVperm f s
  | .vbcast f => Sys2Proof.Machine.execVbcast f s
  | .vext f => Sys2Proof.Machine.execVext f s
  | .vins f => Sys2Proof.Machine.execVins f s
  | .vld f => Sys2Proof.Machine.execVld f s
  | .vst f => Sys2Proof.Machine.execVst f s
  | .vclaim f => Sys2Proof.Machine.execVclaim f s
  | .vyield f => Sys2Proof.Machine.execVyield f s
  | .vpwl f => Sys2Proof.Machine.execVpwl f s
  | .pwlset f => Sys2Proof.Machine.execPwlset f s
  | .vblk f => Sys2Proof.Machine.execVblk f s
  | .vblkSet f => Sys2Proof.Machine.execVblkSet f s
  | .vqPc f => Sys2Proof.Machine.execVqPc f s
  | .vqCb f => Sys2Proof.Machine.execVqCb f s
  | .vpois f => Sys2Proof.Machine.execVpois f s
  | .kand f => Sys2Proof.Machine.execKand f s
  | .kor f => Sys2Proof.Machine.execKor f s
  | .kxor f => Sys2Proof.Machine.execKxor f s
  | .knot f => Sys2Proof.Machine.execKnot f s
  | .kpop f => Sys2Proof.Machine.execKpop f s
  | .kfirst f => Sys2Proof.Machine.execKfirst f s
  | .kmov f => Sys2Proof.Machine.execKmov f s
  | .mclaim f => Sys2Proof.Machine.execMclaim f s
  | .mrel f => Sys2Proof.Machine.execMrel f s
  | .mld f => Sys2Proof.Machine.execMld f s
  | .mst f => Sys2Proof.Machine.execMst f s
  | .tbuild f => Sys2Proof.Machine.execTbuild f s
  | .tbuildc f => Sys2Proof.Machine.execTbuildc f s
  | .tlook f => Sys2Proof.Machine.execTlook f s
  | .tlookc f => Sys2Proof.Machine.execTlookc f s
  | .tdrop f => Sys2Proof.Machine.execTdrop f s
  | .azero f => Sys2Proof.Machine.execAzero f s
  | .ald f => Sys2Proof.Machine.execAld f s
  | .ast f => Sys2Proof.Machine.execAst f s
  | .aflush f => Sys2Proof.Machine.execAflush f s
  | .aput f => Sys2Proof.Machine.execAput f s
  | .mchk f => Sys2Proof.Machine.execMchk f s
  | .achk f => Sys2Proof.Machine.execAchk f s
  | .spawn f => Sys2Proof.Machine.execSpawn f s
  | .exit f => Sys2Proof.Machine.execExit f s
  | .wait f => Sys2Proof.Machine.execWait f s
  | .yield f => Sys2Proof.Machine.execYield f s
  | .wid f => Sys2Proof.Machine.execWid f s
  | .sync op f => Sys2Proof.Machine.execSync op f s
  | .ssr f => Sys2Proof.Machine.execSsr f s
  | .fence f => Sys2Proof.Machine.execFence f s
  | .amo op f => Sys2Proof.Machine.execAmo op f s
  | .facc f => Sys2Proof.Machine.execFacc f s
  | .fcrd f => Sys2Proof.Machine.execFcrd f s
  | .xget f => Sys2Proof.Machine.execXget f s
  | .xput f => Sys2Proof.Machine.execXput f s
  | .xcpy f => Sys2Proof.Machine.execXcpy f s
  | .xmc f => Sys2Proof.Machine.execXmc f s
  | .xld f => Sys2Proof.Machine.execXld f s
  | .xst f => Sys2Proof.Machine.execXst f s
  | .xopAdd f => Sys2Proof.Machine.execXopAdd f s
  | .xopFadd f => Sys2Proof.Machine.execXopFadd f s
  | .xopCas1 f => Sys2Proof.Machine.execXopCas1 f s
  | .xopCas2 f => Sys2Proof.Machine.execXopCas2 f s
  | .xopCas4 f => Sys2Proof.Machine.execXopCas4 f s
  | .xopEnq f => Sys2Proof.Machine.execXopEnq f s
  | .xopChase f => Sys2Proof.Machine.execXopChase f s
  | .xsend f => Sys2Proof.Machine.execXsend f s
  | .swset f => Sys2Proof.Machine.execSwset f s
  | .swget f => Sys2Proof.Machine.execSwget f s
  | .ctready f => Sys2Proof.Machine.execCtready f s
  | .ctarm f => Sys2Proof.Machine.execCtarm f s
  | .ctstat f => Sys2Proof.Machine.execCtstat f s
  | .svc f => Sys2Proof.Machine.execSvc f s
  | .svcReturn f => Sys2Proof.Machine.execSvcReturn f s
  | .tret f => Sys2Proof.Machine.execTret f s
  | .mfsr f => Sys2Proof.Machine.execMfsr f s
  | .mtsr f => Sys2Proof.Machine.execMtsr f s
  | .park f => Sys2Proof.Machine.execPark f s
  | .klaunch f => Sys2Proof.Machine.execKlaunch f s
  | .halt f => Sys2Proof.Machine.execHalt f s
  | .tlbinvPage f => Sys2Proof.Machine.execTlbinvPage f s
  | .tlbinvCtx f => Sys2Proof.Machine.execTlbinvCtx f s
  | .tlbinvAll f => Sys2Proof.Machine.execTlbinvAll f s
  | .tlbprobe f => Sys2Proof.Machine.execTlbprobe f s
  | .fltrd f => Sys2Proof.Machine.execFltrd f s
  | .fltrep f => Sys2Proof.Machine.execFltrep f s
  | .migr f => Sys2Proof.Machine.execMigr f s
  | .hld f => Sys2Proof.Machine.execHld f s
  | .hst f => Sys2Proof.Machine.execHst f s
  | .hmov f => Sys2Proof.Machine.execHmov f s
  | .hpin f => Sys2Proof.Machine.execHpin f s
  | .hunpin f => Sys2Proof.Machine.execHunpin f s
  | .hcmp f => Sys2Proof.Machine.execHcmp f s
  | .hobjAlloc f => Sys2Proof.Machine.execHobjAlloc f s
  | .hobjFree f => Sys2Proof.Machine.execHobjFree f s
  | .hobjInfo f => Sys2Proof.Machine.execHobjInfo f s
  | .hobjMove f => Sys2Proof.Machine.execHobjMove f s
  | .hobjCompact f => Sys2Proof.Machine.execHobjCompact f s
  | .hobjFlip f => Sys2Proof.Machine.execHobjFlip f s
  | .region f => Sys2Proof.Machine.execRegion f s
  | .regionClose f => Sys2Proof.Machine.execRegionClose f s
  | .pair f => Sys2Proof.Machine.execPair f s
  | .unpair f => Sys2Proof.Machine.execUnpair f s
  | .tileIssueCycle tile => Sys2Proof.Machine.execTileIssueCycle tile s
  | .ldqPush tile r q => Sys2Proof.Machine.execLdqPush tile r q s
  | .queueDeadlockTimeout tile r => Sys2Proof.Machine.execQueueDeadlockTimeout tile r s
  | .openPacketTimeout tile r => Sys2Proof.Machine.execOpenPacketTimeout tile r s
  | .vclaimGrant tile => Sys2Proof.Machine.execVclaimGrant tile s
  | .mclaimGrant tile => Sys2Proof.Machine.execMclaimGrant tile s
  | .vectorWindow tile => Sys2Proof.Machine.execVectorWindow tile s
  | .tableCommandStart tile => Sys2Proof.Machine.execTableCommandStart tile s
  | .silentRebuild tile tb => Sys2Proof.Machine.execSilentRebuild tile tb s
  | .recordReady tile r => Sys2Proof.Machine.execRecordReady tile r s
  | .slotLoad tile => Sys2Proof.Machine.execSlotLoad tile s
  | .bankWake tile bank => Sys2Proof.Machine.execBankWake tile bank s
  | .exchangeCommandStart tile => Sys2Proof.Machine.execExchangeCommandStart tile s
  | .requestInject tile cmd => Sys2Proof.Machine.execRequestInject tile cmd s
  | .homeAccess tile cmd => Sys2Proof.Machine.execHomeAccess tile cmd s
  | .xopExecute tile cmd => Sys2Proof.Machine.execXopExecute tile cmd s
  | .multicastPacket tile cmd => Sys2Proof.Machine.execMulticastPacket tile cmd s
  | .remoteWriteArrival w => Sys2Proof.Machine.execRemoteWriteArrival w s
  | .thymeHeldFlush tile => Sys2Proof.Machine.execThymeHeldFlush tile s
  | .responseLanding tile cmd => Sys2Proof.Machine.execResponseLanding tile cmd s
  | .acknowledgementReceived tile cmd => Sys2Proof.Machine.execAcknowledgementReceived tile cmd s
  | .chunkComplete tile cmd => Sys2Proof.Machine.execChunkComplete tile cmd s
  | .redirectNoticeReceived tile cmd => Sys2Proof.Machine.execRedirectNoticeReceived tile cmd s
  | .pageWalkComplete die entry => Sys2Proof.Machine.execPageWalkComplete die entry s
  | .replayRetranslate tile cmd => Sys2Proof.Machine.execReplayRetranslate tile cmd s
  | .tlbinvComplete tile r => Sys2Proof.Machine.execTlbinvComplete tile r s
  | .fenceComplete tile r => Sys2Proof.Machine.execFenceComplete tile r s
  | .barrierComplete level unit peers => Sys2Proof.Machine.execBarrierComplete level unit peers s
  | .abortedCompletion level unit peers => Sys2Proof.Machine.execAbortedCompletion level unit peers s
  | .barrierTimeout level unit => Sys2Proof.Machine.execBarrierTimeout level unit s
  | .livenessProbeExpiry slot answered => Sys2Proof.Machine.execLivenessProbeExpiry slot answered s
  | .segmentArrival g => Sys2Proof.Machine.execSegmentArrival g s
  | .reduceStep entry block => Sys2Proof.Machine.execReduceStep entry block s
  | .resultGatherWrite g => Sys2Proof.Machine.execResultGatherWrite g s
  | .firingComplete entry => Sys2Proof.Machine.execFiringComplete entry s
  | .segmentResendTimeout entry seg => Sys2Proof.Machine.execSegmentResendTimeout entry seg s
  | .stepLogReceive bytes => Sys2Proof.Machine.execStepLogReceive bytes s
  | .migrationCopyChunk req => Sys2Proof.Machine.execMigrationCopyChunk req s
  | .migrationCommit req => Sys2Proof.Machine.execMigrationCommit req s
  | .migrationRelease req => Sys2Proof.Machine.execMigrationRelease req s
  | .migrationAbandon req => Sys2Proof.Machine.execMigrationAbandon req s
  | .relocationChunkCopy req => Sys2Proof.Machine.execRelocationChunkCopy req s
  | .relocationCommit req => Sys2Proof.Machine.execRelocationCommit req s
  | .relocationRelease req => Sys2Proof.Machine.execRelocationRelease req s
  | .compactionEnd req => Sys2Proof.Machine.execCompactionEnd req s
  | .forwardFree rg => Sys2Proof.Machine.execForwardFree rg s
  | .launchNotify queue tail asid => Sys2Proof.Machine.execLaunchNotify queue tail asid s
  | .launchRecordTake => Sys2Proof.Machine.execLaunchRecordTake s
  | .launchStart kernel => Sys2Proof.Machine.execLaunchStart kernel s
  | .retirement kernel => Sys2Proof.Machine.execRetirement kernel s
  | .parkThresholdExpiry tile => Sys2Proof.Machine.execParkThresholdExpiry tile s
  | .sliceExpiry kernel => Sys2Proof.Machine.execSliceExpiry kernel s
  | .tilePark tile reason => Sys2Proof.Machine.execTilePark tile reason s
  | .groupEvict group => Sys2Proof.Machine.execGroupEvict group s
  | .tileRestore tile => Sys2Proof.Machine.execTileRestore tile s
  | .evcHeadWrite asid head => Sys2Proof.Machine.execEvcHeadWrite asid head s
  | .tileTableWrite asid entry image => Sys2Proof.Machine.execTileTableWrite asid entry image s
  | .regionDescriptorWrite rg words => Sys2Proof.Machine.execRegionDescriptorWrite rg words s
  | .trcWrite tile value => Sys2Proof.Machine.execTrcWrite tile value s
  | .ckptWrite value => Sys2Proof.Machine.execCkptWrite value s
  | .freezeRequest tile req => Sys2Proof.Machine.execFreezeRequest tile req s
  | .freezeDone tile => Sys2Proof.Machine.execFreezeDone tile s
  | .errinjSram tile value => Sys2Proof.Machine.execErrinjSram tile value s
  | .errinjRegister tile value => Sys2Proof.Machine.execErrinjRegister tile value s
  | .errinjAccumulator tile value => Sys2Proof.Machine.execErrinjAccumulator tile value s
  | .errinjFingerprint tile value => Sys2Proof.Machine.execErrinjFingerprint tile value s
  | .errinjPlaneCopy tile value => Sys2Proof.Machine.execErrinjPlaneCopy tile value s
  | .errinjDisarm tile value => Sys2Proof.Machine.execErrinjDisarm tile value s
  | .pairCompare tile r => Sys2Proof.Machine.execPairCompare tile r s
  | .patrolScrub tt pa outcome => Sys2Proof.Machine.execPatrolScrub tt pa outcome s
  | .voteCycle diff => Sys2Proof.Machine.execVoteCycle diff s
  | .stateHashCompare diff => Sys2Proof.Machine.execStateHashCompare diff s
  | .resyncComplete => Sys2Proof.Machine.execResyncComplete s
  | .sageReplan seconds margins => Sys2Proof.Machine.execSageReplan seconds margins s
  | .settingSwitch group => Sys2Proof.Machine.execSettingSwitch group s
  | .powerSample watts => Sys2Proof.Machine.execPowerSample watts s
  | .tempSample celsius => Sys2Proof.Machine.execTempSample celsius s
  | .throttleStep group => Sys2Proof.Machine.execThrottleStep group s
  | .throttleUndo => Sys2Proof.Machine.execThrottleUndo s
  | .ethPacketReceive p => Sys2Proof.Machine.execEthPacketReceive p s
  | .cnpReceive qp => Sys2Proof.Machine.execCnpReceive qp s
  | .rateRecoveryTick qp => Sys2Proof.Machine.execRateRecoveryTick qp s
  | .rdmaWrite r => Sys2Proof.Machine.execRdmaWrite r s
  | .rdmaRead r => Sys2Proof.Machine.execRdmaRead r s
  | .create qp asid pcap supok => Sys2Proof.Machine.execCreate qp asid pcap supok s
  | .agree qp asid tenantKey => Sys2Proof.Machine.execAgree qp asid tenantKey s
  | .attest qp asid nonce => Sys2Proof.Machine.execAttest qp asid nonce s
  | .keynew qp asid => Sys2Proof.Machine.execKeynew qp asid s
  | .keydrop qp asid keyid => Sys2Proof.Machine.execKeydrop qp asid keyid s
  | .resume qp asid => Sys2Proof.Machine.execResume qp asid s
  | .destroy qp asid => Sys2Proof.Machine.execDestroy qp asid s
  | .logsend qp asid slot frm => Sys2Proof.Machine.execLogsend qp asid slot frm s
  | .join qp asid slot => Sys2Proof.Machine.execJoin qp asid slot s
  | .image m => Sys2Proof.Machine.execImage m s
  | .flitGroupResend port tagBad => Sys2Proof.Machine.execFlitGroupResend port tagBad s
  | .tagFailureRetrain port => Sys2Proof.Machine.execTagFailureRetrain port s
  | .linkRekey port => Sys2Proof.Machine.execLinkRekey port s
  | .portRetrainFail port => Sys2Proof.Machine.execPortRetrainFail port s
  | .powerOnReset => Sys2Proof.Machine.execPowerOnReset s
  | .commandedReset => Sys2Proof.Machine.execCommandedReset s
  | .registerWrite w => Sys2Proof.Machine.execRegisterWrite w s
  | .supervisorStop asid => Sys2Proof.Machine.execSupervisorStop asid s
  | .goBackNRetransmission qp => Sys2Proof.Machine.execGoBackNRetransmission qp s
  | .mubelLinkTraining port peer => Sys2Proof.Machine.execMubelLinkTraining port peer s
  | .bumpRollbackCounter count => Sys2Proof.Machine.execBumpRollbackCounter count s

end Sys2Proof.Machine
end

