-- ==== Sys2Proof/Machine/Unit.lean ====
section
/-! DEFINITION. The issue of a unit by the strand that a tile has chosen: one instruction, a pair or
a repetition (R65, R69, R70, R81 to R84, R114). -/

namespace Sys2Proof.Machine

/-- The outcome of a step of the machine. -/
abbrev Result := Host.Outcome State Fault Refusal

/-- The next state of an outcome, if it has one. -/
def nextOf (o : Result) : Option State :=
  match o with
  | .next s => some s
  | _ => none

/-- Goes on from a next state. -/
def andThen (o : Result) (f : State → Result) : Result :=
  match o with
  | .next s => f s
  | o => o

/-- Runs the instruction of a word: a word that is none is the undefined-instruction trap (R80). -/
def State.runWord (s : State) (w : BitVec 96) : Result :=
  match decodeOpcode w with
  | none => if s.running then .next (s.frontTrap .undefinedInstr) else .fault .noStrand
  | some i => exec i s

/-- Where a pair goes on (R70): where its class S half takes it; a half that has not retired falls through. -/
def State.pairPc (s : State) (lo : BitVec 96) (s1 s2 : State) : Word :=
  let t := if ((decodeOpcode lo).map isClassE).getD false then s2 else s1
  if t.ended = .done then t.st.pc else s.st.npc

/-- Whether a half has had its first effect and waits for the rest; a slot of a pair that stands at a trap does not
count. -/
def State.begun (s : State) : Bool := s.ended == .held && s.trapWas.isNone

/-- The state where the higher half of a pair did not retire (R70): both are cancelled. Its trap is the one
it raised after the lower half, with the register injection that the lower half met (R358); a wait or a suspension
stands on the state before the pair, and a wait that only the lower half's effect brings is noted there. A pair whose
half waits with its first effect made is checked for the end of the store before (R65). -/
def State.halfAlone (s : State) (lo hi : BitVec 96) (s1 t : State) : Result :=
  match t.trapWas with
  | some (c, code) =>
    let s0 := ((decodeOpcode lo).map s.injectReg).getD s
    andThen (s0.runWord hi) fun u =>
      .next (if u.trapWas = some (c, code) then u else s0.finish (.error (.trap c code)))
  | none =>
    andThen (s.runWord hi) fun u =>
      .next (if u.begun ∧ !pcForm (s.pairPc lo s1 u) then s.frontTrap .target
        else if u.ended ≠ .done then u else s.stallOn (t.st.stall.getD {}))

/-- The state where the lower half of a pair has had its first effect and waits (R70, R120): it stands only where the
higher half, which reads nothing that the lower writes (R69), raises no trap and does not wait itself, and where the
pair does not fall through the end of the store (R65). -/
def State.lowHeld (s : State) (lo hi : BitVec 96) (s1 : State) : Result :=
  andThen (s.runWord hi) fun s2 =>
    .next (if s2.ended ≠ .done ∧ !s2.begun then s2
      else if pcForm (s.pairPc lo s1 s2) then s1 else s.frontTrap .target)

/-- A pair (R70): the lower half, then the higher on what it leaves; a half that traps or waits
cancels both. The class S half decides where the PC goes; a pair that falls through the end of the store is
the target trap (R65). -/
def State.runPair (s : State) (lo hi : BitVec 96) : Result :=
  andThen (s.runWord lo) fun s1 =>
    if s1.begun then s.lowHeld lo hi s1
    else if s1.ended ≠ .done then .next s1
    else
      andThen (s1.runWord hi) fun s2 =>
        if s2.ended ≠ .done then s.halfAlone lo hi s1 s2
        else
          let pc := s.pairPc lo s1 s2
          if !pcForm pc then .next (s.frontTrap .target)
          else .next { s2.modSt fun st => { st with pc := pc } with ended := .done }

/-- A repetition (R83, R84): the target's word stepped; after the last one the repeat ends and the PC
moves past the target. A REPIDX beyond CNT leaves no repetition to run: the repeat ends at once. -/
def State.runRepetition (s : State) (r : RepFields) (w : BitVec 96) : Result :=
  let j := s.st.repidx
  let last := decide (r.cnt.toNat = j)
  if r.cnt.toNat < j then
    .next (s.finish (.ok (s.modSt fun st => { st with rpt := false, repidx := 0 })))
  else
  if repBad s r then .next (s.frontTrap .lineFormat) else
  match repWord r w j with
  | none => .next (s.frontTrap .operandClass)
  | some w' =>
    let s1 := if last then s else s.modSt fun st => { st with target := some st.upc }
    andThen (s1.runWord w') fun t =>
      .next (match t.ended with
        | .done =>
          if last then
            { t.modSt fun st => { st with rpt := false, repidx := 0 } with ended := .done }
          else { t.modSt fun st => { st with repidx := j + 1 } with ended := .done }
        | .stalled => { t.modSt fun st => { st with target := none } with ended := .stalled }
        | .held => { t.modSt fun st => { st with target := none } with ended := .held }
        | _ => t)

/-- Runs a unit whose line and breakpoints have been checked. -/
def State.runUnit (s : State) (u : UnitKind) : Result :=
  match u with
  | .single w => s.runWord w
  | .pair lo hi =>
    match s.pairTrap? lo hi with
    | some c => .next (s.frontTrap c)
    | none => s.runPair lo hi
  | .repetition r w => s.runRepetition r w

/-- Whether a rollback of the strand's region waits for its started commands (R352). -/
def Strand.restarts (st : Strand) : Bool := (st.region.bind (·.restart)).isSome

/-- The restart of the issuing strand's region. -/
def State.restartOpen (s : State) : State :=
  (s.st.region.map (s.restart s.cur s.curRec)).getD s

/-- The issue of the chosen strand's next unit (R81): a PC that has not the form of R65 is the target
trap; then the checks of the line; then the unit. The breakpoint is off for one issue only (R114), and a
wait is none; an issue that ends in a suspension for a full engine queue is one (DESIGN CHOICE, log 50). A strand whose
region is to restart waits for its started commands and restarts (R352). -/
def State.issue (s : State) : Result :=
  if !s.running then .fault .noStrand
  else if s.st.restarts then
    if s.tl.drained s.curRec then .next { s.restartOpen with ended := .trapped }
    else .next (s.stallOn {})
  else if !pcForm s.st.pc then .next ((s.atUnit 0).frontTrap .target)
  else
    let s1 := s.fetchLine s.cur (pcLine s.st.pc)
    let u := s1.unitAt
    let s2 := s1.atUnit u.slots
    match s2.lineTrap u with
    | some c => .next (s2.frontTrap c)
    | none =>
      andThen ((s2.modSt fun st => { st with bkOff := false }).runUnit u) fun t =>
        if t.ended = .stalled ∨ t.ended = .held then
          .next { t.modSt fun st => { st with bkOff := s2.st.bkOff } with ended := t.ended }
        else .next t

/-- Why the next instruction of a strand waits, if it does: what its issue would answer. -/
def State.waits (s : State) (tile r : Nat) : Option Stall :=
  match { s with cur := tile, curRec := r }.issue with
  | .next t => if t.ended = .stalled then (t.strandAt tile r).stall else none
  | _ => none

/-- Notes for every occupied slot of a tile whether its next instruction waits in this tc (R185). -/
def State.probe (s : State) (tile : Nat) : State :=
  { s with tiles := s.tiles.mapVals fun i t =>
      if i = tile then
        { t with strands := t.strands.mapVals fun r st =>
            { st with stall := if st.leaving then st.stall
                else if st.slot.isSome then s.waits tile r else none } }
      else t }

/-- One tc of a tile (R185): the slots that wait are found, one that is ready is chosen, and its unit
issues. -/
def State.tileCycle (s : State) (tile : Nat) : Result :=
  andThen (exec (.tileIssueCycle tile) (s.probe tile)) fun u =>
    if u.issuing then { u with issuing := false }.issue else .next u

end Sys2Proof.Machine
end

