-- ==== Sys2Proof/Machine/Agenda.lean ====
section
/-! DEFINITION. The steps that are due in a state: what the engines, the homes and the control plane
have to do. -/

namespace Sys2Proof.Machine

/-- A step, where it is due. -/
def dueIf (c : Bool) (i : Instr) : List Instr := if c then [i] else []

/-- The steps due for a strand of a tile: pushes of its load queues, its bounds, the waits that have ended,
and the compare of a pair. -/
def State.dueStrand (s : State) (tile r : Nat) (st : Strand) : List Instr :=
  (st.lq.filterMap fun q =>
    if q.2.any fun p => (match p with
      | .load _ _ => true
      | _ => false) then some (Instr.ldqPush tile r q.1) else none) ++
  dueIf (st.slot.isSome && decide (4096 ≤ st.hold) && s.mayTrap tile r) (.queueDeadlockTimeout tile r) ++
  dueIf (st.slot.isSome && st.pkt.isSome && decide (4096 ≤ st.pktStop.getD 0)) (.openPacketTimeout tile r) ++
  dueIf (s.recordDue tile r) (.recordReady tile r) ++
  dueIf ((st.tlbinv.map fun ws => !ws.isEmpty && ws.all s.retranslated).getD false) (.tlbinvComplete tile r) ++
  dueIf ((st.fence.map (s.fenceReady tile r)).getD false) (.fenceComplete tile r) ++
  dueIf (s.pairDue tile r) (.pairCompare tile r)

/-- The steps due for an active command. -/
def State.dueCommand (s : State) (tile no : Nat) : List Instr :=
  dueIf (s.engine? tile no).isSome (.requestInject tile no) ++
  dueIf (s.homeAccess? tile no).isSome (.homeAccess tile no) ++
  dueIf (s.xopExecute? tile no).isSome (.xopExecute tile no) ++
  dueIf (s.multicast? tile no).isSome (.multicastPacket tile no) ++
  dueIf (s.landing? tile no).isSome (.responseLanding tile no) ++
  dueIf (s.acked? tile no).isSome (.acknowledgementReceived tile no) ++
  dueIf (s.chunk? tile no).isSome (.chunkComplete tile no) ++
  dueIf (s.redirected? tile no).isSome (.redirectNoticeReceived tile no) ++
  dueIf (s.replay? tile no).isSome (.replayRetranslate tile no)

/-- Whether the head of the runnable records can be loaded. -/
def State.loadDue (s : State) (tile : Nat) (t : Tile) : Bool :=
  t.nextLoad.isSome && s.loads tile

/-- The steps due in a tile that is not frozen: its grants and engines, its records, banks and parks. -/
def State.dueRunning (s : State) (i : Nat) (t : Tile) : List Instr :=
  (t.strands.flatMap fun p => s.dueStrand i p.1 p.2) ++
  dueIf t.claimReady (.vclaimGrant i) ++ dueIf t.mclaimReady (.mclaimGrant i) ++
  dueIf (!t.vClaimants.isEmpty) (.vectorWindow i) ++ dueIf (!t.tClaimants.isEmpty && t.rebuildDue.isNone)
    (.tableCommandStart i) ++ (t.rebuildDue.toList.map fun x => Instr.silentRebuild i x.2) ++
  dueIf (s.loadDue i t) (.slotLoad i) ++
  (if t.bankWaking = 0 then []
    else ((List.range 64).filter t.bankWaking.getLsbD).map fun b => Instr.bankWake i b) ++
  dueIf (t.parkt.getLsbD 32 && decide (bitsN t.parkt.toNat 0 32 ≤ t.parkCnt) && t.onlyWaiting &&
    t.parkSt == 0 && t.parkWhy == 0 && t.parkAsk == 0) (.parkThresholdExpiry i) ++
  dueIf (s.parkDue i t.parkWhy) (.tilePark i t.parkWhy) ++
  dueIf (s.restore? i).isSome (.tileRestore i) ++
  dueIf (t.freezeReq && t.atRest) (.freezeDone i)

/-- The steps due in a tile: while it is frozen, only what its requests in flight still need. -/
def State.dueTile (s : State) (i : Nat) (t : Tile) : List Instr :=
  (if t.frozen then [] else s.dueRunning i t ++ dueIf (s.startX? i).isSome (.exchangeCommandStart i)) ++
  (t.xact.flatMap fun a => s.dueCommand i a.cmd.no) ++
  dueIf (!t.heldW.isEmpty && (t.parkWhy != 0 || s.onlyHeld (s.domOf 2 i))) (.thymeHeldFlush i)

/-- The steps due for a request of Chervil. -/
def State.dueChervil (s : State) (i : Nat) : List Instr :=
  dueIf (s.migrCopy? i).isSome (.migrationCopyChunk i) ++
  dueIf (s.migrCommit? i).isSome (.migrationCommit i) ++
  dueIf (s.migrRelease? i).isSome (.migrationRelease i) ++
  dueIf (s.migrAbandon? i).isSome (.migrationAbandon i) ++
  dueIf (s.chunkCopy? i).isSome (.relocationChunkCopy i) ++
  dueIf (s.relocCommit? i).isSome (.relocationCommit i) ++
  dueIf (s.relocRelease? i).isSome (.relocationRelease i) ++
  dueIf (s.compactEnd? i).isSome (.compactionEnd i)

/-- The steps due of walkers, barriers, firings, flips and links. -/
def State.dueEngines (s : State) : List Instr :=
  (s.dies.flatMap fun d => d.2.miss.flatMap fun m =>
    dueIf (s.walkDone? d.1 m.1).isSome (.pageWalkComplete d.1 m.1)) ++
  (s.doms.flatMap fun d =>
    dueIf (s.completeDue (d.1 % 8) (d.1 / 8)) (.barrierComplete (d.1 % 8) (d.1 / 8) []) ++
    dueIf (s.abortDue (d.1 % 8) (d.1 / 8)) (.abortedCompletion (d.1 % 8) (d.1 / 8) [])) ++
  (s.tt.flatMap fun e =>
    if e.2.running then
      ((s.ownBlocks e.2).filter (s.reducible e.1)).map (Instr.reduceStep e.1) ++
        dueIf e.2.missing.isEmpty (.firingComplete e.1)
    else []) ++
  (s.heaps.flatMap fun h => dueIf (h.2.flipping && !s.plane.halt) (.forwardFree h.1)) ++
  (s.chervil.flatMap fun c => s.dueChervil c.1) ++
  s.ports.flatMap fun p =>
    dueIf (p.2.up && !s.plane.halt && decide (16 ≤ p.2.tagFail)) (.tagFailureRetrain p.1) ++
    dueIf (p.2.up && !s.plane.halt && p.2.spent) (.linkRekey p.1)

/-- The steps due of the command processor and the power manager. -/
def State.duePlane (s : State) : List Instr :=
  dueIf (!s.plane.halt && s.nextQueue.isSome) .launchRecordTake ++
  (s.kernels.flatMap fun k =>
    dueIf (s.startDue k.1) (.launchStart k.1) ++
    dueIf (s.retirable k.1 && !s.plane.halt) (.retirement k.1)) ++
  (s.groups.flatMap fun g =>
    dueIf (s.evictDue g.1) (.groupEvict g.1) ++ dueIf (s.switchDue g.1) (.settingSwitch g.1)) ++
  s.saves.flatMap fun x => dueIf (s.restore? x.tile).isSome (.tileRestore x.tile)

/-- The steps that are due (log 1). What a clock in µs brings (timers, slices, samples, control-plane cycles)
and what comes from outside stand in the agenda instead. -/
def State.due (s : State) : List Instr :=
  (s.tiles.flatMap fun t => s.dueTile t.1 t.2) ++ s.dueEngines ++ s.duePlane

/-- The tc that can pass: one per tile that holds strands and is not frozen. -/
def State.cycles (s : State) : List Instr :=
  (s.tiles.filter fun p => !p.2.strands.isEmpty && !p.2.frozen).map fun p => .tileIssueCycle p.1

/-- Everything that can happen next: due steps, inputs from outside, issue cycles. -/
def State.candidates (s : State) : List Instr := s.due ++ s.agenda ++ s.cycles

/-- Which of n candidates goes next; one alone is no choice (log 1). -/
def State.pickNext (s : State) (n : Nat) : Nat :=
  if n ≤ 1 then 0 else Config.choose s.freeCtr % n

/-- Runs a step: an issue cycle issues. -/
def State.runStep (s : State) (e : Instr) : Result :=
  match e with
  | .tileIssueCycle t => s.tileCycle t
  | e => if isStrand e then .next s else exec e s

/-- The next step of the machine: the issue that is under way, else one of the candidates; where there
is none, a cycle of the control plane passes (R356, R357). -/
def State.advance (s : State) : Result :=
  if s.issuing then { s with issuing := false }.issue
  else
    match s.candidates[s.pickNext s.candidates.length]? with
    | none => exec (.voteCycle 0) s
    | some e => { s.draw with agenda := s.agenda.erase e }.runStep e

/-- The line word of a line with slot 0 given, no pairs, targets or breakpoints (R66). -/
def plainLine (w : Nat) : List Byte :=
  natToBytes 4 (parOf w * 2 ^ 24) ++ natToBytes 12 w ++ natToBytes 48 0

/-- The state in which the issuing strand, record 0 of tile 0 in slot 0, is about to issue a word from
line 0. -/
def State.placeWord (s : State) (w : Nat) : State :=
  let s1 := { s with mem := wrBytes s.mem (codeKey 0 0) (plainLine w) }
  let s2 := s1.modStrandAt 0 0 fun st =>
    { st with slot := some 0, kind := 2, pc := 0, rpt := false, stall := none }
  { s2 with cur := 0, curRec := 0, issuing := true }

end Sys2Proof.Machine
end

