-- ==== Sys2Proof/Machine/Step.lean ====
section
/-! DEFINITION. One step of the machine, and the placing of a word where the next step fetches. -/

namespace Sys2Proof.Machine

/-- One step: the issue under way, or one of the steps that can happen next (log 1). -/
def step (s : State) : Host.Outcome State Fault Refusal := s.advance

/-- The state with the instruction of a word where the next step fetches: line 0 of tile 0, issued by
record 0 in thread slot 0. It stands for a launch that loads this word (R271 to R274). -/
def State.withFetchWord (s : State) (nbits w : Nat) : State := s.placeWord (w % 2 ^ min nbits 96)

end Sys2Proof.Machine
end

