-- ==== Sys2Proof/Safety.lean ====
section
/-! DEFINITION. What a safe state and a safe step are, and when an instruction is issued whole: the
terms that the statements are written in. -/

namespace Sys2Proof.Machine

/-- The canonical form of memory and of the poison marks (R347). -/
def State.tidy (s : State) : Prop := s.mem.wf = true ∧ marksWfFrom 0 s.marks = true

/-- The outcome of a step that goes on. -/
def goesOn (o : Result) : Prop := ∃ s, o = .next s

/-- The issuing strand issues an instruction whole (R81): it stands in a thread slot, the instruction
passes the checks at decode and the privilege check, no register it touches is still to be written
(R48), its slot is unpaired (R353) and no armed injection meets a register it reads (R358). -/
def State.issues (s : State) (i : Instr) : Prop :=
  s.running = true ∧ wellFormed i = true ∧ (isPrivileged i = true → s.st.sup = true) ∧
    s.st.awaits i = none ∧ s.st.partner = none ∧ s.injectReg i = s

/-- A guarded instruction is issued whole with its predicate on (R76). -/
def State.runs (s : State) (i : Instr) (f : Fields) : Prop :=
  s.issues i ∧ predOn f s.st = true

/-- `exec` answers a next state: that of the instruction's effect s', with the strand moved on to the transfer or
to the next slot. Its premise is on s alone, that the next slot exists; where none does, slot 4 of line 2,047, it
answers so too unless it would fall through (R65). -/
def State.completes (s : State) (i : Instr) (s' : State) : Prop :=
  (pcForm s.st.npc || !s.runsOff s') = true → exec i s = .next s'.retire

end Sys2Proof.Machine
end

