-- ==== Sys2Proof/Certificates/Slice0/Obligations.lean ====
section
/-! DEFINITION. The statements for the provers, and the tables of the spec's rules that they are written
over. Each statement's docstring says which rule it states. -/

open Sys2Proof Sys2Proof.Machine

/-! ### Terms: what a statement says is unchanged -/

/-- Everything but the issuing strand, and the notes of how its instruction ended, is the same. -/
def Sys2Proof.Rules.onlyStrand (s t : State) : Prop :=
  { t with tiles := s.tiles, ended := s.ended, trapWas := s.trapWas } = s ∧
    (∀ n, n ≠ s.cur → t.tileAt n = s.tileAt n) ∧
    { t.tl with strands := s.tl.strands } = s.tl ∧
    ∀ r, r ≠ s.curRec → t.strandAt s.cur r = s.strandAt s.cur r

/-- Everything of a strand but its general registers, its queues, its program counter and the model's count of
its queued commands is the same:
vector, mask and reference registers, every special register, what a trap saved, the open packet and
region, the claims. -/
def Sys2Proof.Rules.scalarOnly (st u : Strand) : Prop :=
  { u with g := st.g, gp := st.gp, lq := st.lq, sq := st.sq, drains := st.drains, dep := st.dep,
           pos := st.pos, pc := st.pc, target := st.target, hold := st.hold, stall := st.stall } = st

/-- Every general register but the destination, and every load queue that no source names, is the
same. -/
def Sys2Proof.Rules.keeps (st u : Strand) (d : BitVec 8) (srcs : List (BitVec 8)) : Prop :=
  (∀ n, ¬ (isG d = true ∧ n = opIdx d) → u.rg n = st.rg n ∧ u.rgp n = st.rgp n) ∧
    ∀ q, (∀ a ∈ srcs, ¬ (isLq a = true ∧ q = opIdx a)) → u.lqOf q = st.lqOf q

/-- Every byte of memory outside [a, a + n) reads as before. -/
def Sys2Proof.Rules.memKept (s t : State) (a n : Nat) : Prop :=
  ∀ x, x < a ∨ a + n ≤ x → rdByte t.mem x = rdByte s.mem x

/-- The scalar instructions with their destination and their sources. -/
def Sys2Proof.Rules.scalarOf (i : Instr) : Option (BitVec 8 × List (BitVec 8)) :=
  match i with
  | .add f | .sub f | .mul f | .mulh f | .div f | .rem f | .and f | .or f | .xor f | .andn f | .shl f
  | .shr f | .sar f | .rol f | .min f | .max f | .set _ f | .lea f => some (f.d, [f.a, f.b])
  | .clz f | .ctz f | .popc f | .mov f | .sext f | .zext f | .bfx f | .bfi f => some (f.d, [f.a])
  | .sel f => some (f.d, [f.a, f.b, f.c])
  | .movi d _ _ => some (d, [])
  | .br _ f => some (0xff, [f.a, f.b])
  | .jmp _ | .jmpr _ | .ret _ | .nop _ => some (0xff, [])
  | .call f | .loop f => some (f.d, [])
  | _ => none

/-! ### Scalar instructions (R90 to R99) -/

/-- R93: the exact result r of each binary operation for the source words x (A) and y (B + IMM). -/
def Sys2Proof.Rules.binary (f : Fields) (x y : Word) : List (Instr × Int) :=
  let w := fmtW f.fmt
  let a := intVal w (fmtSigned f.fmt) x.toNat
  let b := intVal w (fmtSigned f.fmt) y.toNat
  let ua := x.toNat % 2 ^ w
  let ub := y.toNat % 2 ^ w
  let sa := sextN w x.toNat
  let sh := ub % 64 % w
  [ (.add f, a + b),
    (.sub f, a - b),
    (.mul f, a * b),
    (.mulh f, a * b / (2 ^ w : Nat)),
    (.div f, if b = 0 then (if fmtSigned f.fmt then -1 else (2 ^ w : Nat) - 1)
      else (a * b).sign * (a.natAbs / b.natAbs : Nat)),
    (.rem f, if b = 0 then a else a - b * ((a * b).sign * (a.natAbs / b.natAbs : Nat))),
    (.and f, (ua &&& ub : Nat)),
    (.or f, (ua ||| ub : Nat)),
    (.xor f, (ua ^^^ ub : Nat)),
    (.andn f, (ua &&& (2 ^ w - 1 - ub) : Nat)),
    (.shl f, a * (2 ^ sh : Nat)),
    (.shr f, (ua / 2 ^ sh : Nat)),
    (.sar f, sa / (2 ^ sh : Nat)),
    (.rol f, ((ua * 2 ^ sh + ua / 2 ^ (w - sh)) % 2 ^ w : Nat)),
    (.min f, if a ≤ b then a else b),
    (.max f, if a ≥ b then a else b) ]

/-- R91, R93. Every binary operation, on sources that can be read and a destination that takes the
result, writes D := Sat(r, f) or Wrap(r, f) extended to 64 bits, with the poison of either source, and
retires. -/
def Obligations.BinaryOperationsWriteTheirResult : Prop :=
  ∀ (i : Instr) (f : Fields) (s s1 s2 : State) (x y : Word × Bool) (r : Int),
    s.runs i f → s.rd2 f.a f.b = .ok (x, y, s1) →
    (i, r) ∈ Rules.binary f x.1 (y.1 + f.imm.signExtend 64) →
    s1.wrDst f.d (extendTo f.fmt (wrapN (fmtW f.fmt)
      (if f.sat then satI (fmtW f.fmt) (fmtSigned f.fmt) r else r))) (x.2 || y.2) = .ok s2 →
    s.completes i s2

/-- R94 to R99. The operations that copy, count or extend A; compare, select, move-immediate, bit-field insert and
effective address. -/
def Obligations.CopiesSelectsAndMovesWriteTheirResult : Prop :=
  (∀ (f : Fields) (s s1 s2 : State) (x : Word × Bool) (v : Word),
     s.rd1 f.a = .ok (x, s1) → s1.wrDst f.d v x.2 = .ok s2 →
     (s.runs (.clz f) f → (∃ n, n ≤ fmtW f.fmt ∧ v = BitVec.ofNat 64 n ∧
         (∀ j, fmtW f.fmt - n ≤ j → j < fmtW f.fmt → x.1.getLsbD j = false) ∧
         (n < fmtW f.fmt → x.1.getLsbD (fmtW f.fmt - 1 - n) = true)) →
       s.completes (.clz f) s2) ∧
     (s.runs (.ctz f) f → (∃ n, n ≤ fmtW f.fmt ∧ v = BitVec.ofNat 64 n ∧
         (∀ j, j < n → x.1.getLsbD j = false) ∧ (n < fmtW f.fmt → x.1.getLsbD n = true)) →
       s.completes (.ctz f) s2) ∧
     (s.runs (.popc f) f →
       v = BitVec.ofNat 64 ((List.range (fmtW f.fmt)).filter fun j => x.1.getLsbD j).length →
       s.completes (.popc f) s2) ∧
     (s.runs (.mov f) f → v = x.1 → s.completes (.mov f) s2) ∧
     (s.runs (.sext f) f → v = BitVec.ofInt 64 (sextN (fmtW f.fmt) x.1.toNat) →
       s.completes (.sext f) s2) ∧
     (s.runs (.zext f) f → v = BitVec.ofNat 64 (x.1.toNat % 2 ^ fmtW f.fmt) →
       s.completes (.zext f) s2) ∧
     (s.runs (.bfx f) f →
       (let n := f.imm.toNat / 256 % 64 + 1
        let field := x.1.toNat / 2 ^ (f.imm.toNat % 64) % 2 ^ n
        v = if f.fmt = 0 then BitVec.ofInt 64 (sextN n field) else BitVec.ofNat 64 field) →
       s.completes (.bfx f) s2)) ∧
  (∀ (f : Fields) (s s1 s2 : State) (x y z : Word × Bool),
     (∀ c, s.runs (.set c f) f → s.rd2 f.a f.b = .ok (x, y, s1) →
       s1.wrDst f.d (if condHolds c (fmtW f.fmt) x.1.toNat (y.1 + f.imm.signExtend 64).toNat then 1 else 0)
         (x.2 || y.2) = .ok s2 → s.completes (.set c f) s2) ∧
     (s.runs (.lea f) f → s.rd2 f.a f.b = .ok (x, y, s1) →
       s1.wrDst f.d (x.1 + y.1 * BitVec.ofNat 64 (fmtW f.fmt / 8) + f.imm.signExtend 64)
         (x.2 || y.2) = .ok s2 → s.completes (.lea f) s2) ∧
     (s.runs (.sel f) f → s.rd3 f.a f.b f.c = .ok (x, y, z, s1) →
       s1.wrDst f.d (if x.1 ≠ 0 then y.1 else z.1) (x.2 || if x.1 ≠ 0 then y.2 else z.2) = .ok s2 →
       s.completes (.sel f) s2) ∧
     (∀ d a imm, s.issues (.movi d a imm) → s.wrDst d imm false = .ok s2 → s.completes (.movi d a imm) s2) ∧
     (s.runs (.bfi f) f → s.rd1 f.a = .ok (x, s1) →
       s2 = s1.wrG f.d
         (setBits (s1.st.rg (opIdx f.d)) (f.imm.toNat % 64) (f.imm.toNat / 256 % 64 + 1) x.1.toNat)
         (s1.st.rgp (opIdx f.d) || x.2) →
       s.completes (.bfi f) s2))

/-! ### Operands (R45 to R47, R57, R90, R106) -/

/-- R46, R47, R57, R90, R106. What a source gives: a general register its value and poison, `g0` and the constant zero
without poison, a load queue its oldest entry, which it pops; a queue whose oldest place holds no value makes the
instruction wait. What a destination takes: a general register the value and its poison, `g0` and the constant
nothing, a store queue with no pending drain a new entry while it holds fewer than its depth, else a wait; with
pending drains the value goes to the oldest, whose bytes it stores, unless it is poisoned and that drain has no
`.ppass`: then it traps. `g0` reads zero and is never poisoned, `k0` reads all ones, and a write to either changes
nothing. Read as log 17 says. -/
def Obligations.OperandsReadAndWriteTheirFile : Prop :=
  (∀ (s : State) (sp : BitVec 8),
     (isG sp = true → opIdx sp = 0 → s.rdSrc sp = .ok ((0, false), s)) ∧
     (isG sp = true → opIdx sp ≠ 0 →
       s.rdSrc sp = .ok ((s.st.g.val 0 (opIdx sp), s.st.gp.getLsbD (opIdx sp)), s)) ∧
     (isZero sp = true → s.rdSrc sp = .ok ((0, false), s)) ∧
     (∀ v p rest, isLq sp = true → s.st.lqOf (opIdx sp) = .held v p :: rest →
       ∃ t, s.rdSrc sp = .ok ((v, p), t) ∧ t.st.lqOf (opIdx sp) = rest ∧ Rules.onlyStrand s t ∧
         (∀ q, q ≠ opIdx sp → t.st.lqOf q = s.st.lqOf q) ∧ { t.st with lq := s.st.lq } = s.st) ∧
     (isLq sp = true → (∀ v p rest, s.st.lqOf (opIdx sp) ≠ .held v p :: rest) →
       ∃ w, s.rdSrc sp = .error (.stall w))) ∧
  (∀ (s : State) (sp : BitVec 8) (x : Word) (p : Bool),
     (isG sp = true → opIdx sp ≠ 0 →
       ∃ t, s.wrDst sp x p = .ok t ∧ t.st.rg (opIdx sp) = x ∧ t.st.rgp (opIdx sp) = p ∧
         Rules.onlyStrand s t ∧ { t.st with g := s.st.g, gp := s.st.gp } = s.st ∧
         ∀ n, n ≠ opIdx sp → t.st.rg n = s.st.rg n ∧ t.st.rgp n = s.st.rgp n) ∧
     (isG sp = true → opIdx sp = 0 →
       ∃ t, s.wrDst sp x p = .ok t ∧ t.st = s.st ∧ Rules.onlyStrand s t) ∧
     (isZero sp = true → s.wrDst sp x p = .ok s) ∧
     (isSq sp = true → s.st.drainsOf (opIdx sp - 4) = [] →
       (s.st.sqOf (opIdx sp - 4)).length < s.st.dep.val 3 (opIdx sp) + 1 →
       ∃ t, s.wrDst sp x p = .ok t ∧ Rules.onlyStrand s t ∧
         t.st.sqOf (opIdx sp - 4) = s.st.sqOf (opIdx sp - 4) ++ [(x, p)]) ∧
     (isSq sp = true → s.st.drainsOf (opIdx sp - 4) = [] →
       s.st.dep.val 3 (opIdx sp) + 1 ≤ (s.st.sqOf (opIdx sp - 4)).length →
       ∃ w, s.wrDst sp x p = .error (.stall w)) ∧
     (∀ d rest, isSq sp = true → s.st.drainsOf (opIdx sp - 4) = d :: rest → s.st.partner = none →
       s.st.folw = false →
       (p = true → d.ppass = false → s.wrDst sp x p = .error (.trap .poison 0)) ∧
       (p = false ∨ d.ppass = true →
         ∃ t, s.wrDst sp x p = .ok t ∧ t.st.drainsOf (opIdx sp - 4) = rest ∧
           { t.st with drains := s.st.drains } = s.st ∧
           t.mem = (s.putLocal d.ea (natToBytes d.bytes x.toNat) p).mem ∧
           t.marks = (s.putLocal d.ea (natToBytes d.bytes x.toNat) p).marks ∧
           ∀ n, n ≠ s.cur → t.tileAt n = s.tileAt n))) ∧
  (∀ (st : Strand) (x : Word) (p : Bool) (m : BitVec 64),
     st.rg 0 = 0 ∧ st.rgp 0 = false ∧ st.wg 0 x p = st ∧ st.rk 0 = BitVec.allOnes 64 ∧ st.wk 0 m = st)

/-- R47, R76, R91, R106. The frame of the scalar and control instructions that retire: with a general register or
no destination only the destination, the named load queues and the program counter may change; every
byte of memory, every other register, strand and tile is as before. One that pushes into a store queue changes that
queue in their place, and of memory the bytes of the oldest pending drain at most. -/
def Obligations.ScalarInstructionsChangeOnlyTheirDestination : Prop :=
  ∀ (i : Instr) (d : BitVec 8) (srcs : List (BitVec 8)) (s t : State),
    Rules.scalarOf i = some (d, srcs) → s.issues i → exec i s = .next t → t.ended = .done →
    (isSq d = false →
      Rules.onlyStrand s t ∧ Rules.scalarOnly s.st t.st ∧ Rules.keeps s.st t.st d srcs ∧
        (∀ q, t.st.sqOf q = s.st.sqOf q ∧ t.st.drainsOf q = s.st.drainsOf q) ∧
        ∀ a, rdByte t.mem a = rdByte s.mem a) ∧
    (isSq d = true →
      let q := opIdx d - 4
      Rules.scalarOnly s.st t.st ∧ Rules.keeps s.st t.st d srcs ∧
        (∀ p, p ≠ q → t.st.sqOf p = s.st.sqOf p ∧ t.st.drainsOf p = s.st.drainsOf p) ∧
        (∀ n, n ≠ s.cur → t.tileAt n = s.tileAt n) ∧ (∀ r, r ≠ s.curRec → t.strandAt s.cur r = s.strandAt s.cur r) ∧
        (s.st.drainsOf q = [] → ∀ a, rdByte t.mem a = rdByte s.mem a) ∧
        ∀ x rest, s.st.drainsOf q = x :: rest → t.st.sqOf q = s.st.sqOf q ∧ t.st.drainsOf q = rest ∧
          Rules.memKept s t (s.cur * 2 ^ 20 + x.ea) x.bytes)

/-! ### Local memory and queues (R99 to R107) -/

/-- The local accesses with their bytes, that have read A and B (R102, R212, R213, R321): an atomic of w/8 bytes reads C
too and `facc` reads D. -/
def Sys2Proof.Rules.accesses (s1 : State) (f : Fields) (i : Instr) (n : Nat) : Prop :=
  (i, n) ∈ [(Instr.ld f, fmtW f.fmt / 8), (.st f, fmtW f.fmt / 8), (.ldq f, fmtW f.fmt / 8),
      (.stq f, fmtW f.fmt / 8), (.hld f, 8), (.hst f, 8), (.fcrd f, 32)] ∨
    (i = .facc f ∧ n = 32 ∧ ∃ d s2, s1.rd1 f.d = .ok (d, s2)) ∨
    (∃ op, i = .amo op f ∧ n = fmtW f.fmt / 8 ∧ ∃ z s2, s1.rd1 f.c = .ok (z, s2))

/-- R102, R115, R212, R213, R321. The checks of a local access at EA, in their order: address poison, range, the
reserved area for a tenant strand, a gated bank, alignment; each raises its trap before any effect. An access that
passes them and meets no wait goes on. -/
def Obligations.LocalAccessesTrapInOrder : Prop :=
  ∀ (i : Instr) (f : Fields) (s s1 : State) (x y : Word × Bool) (n : Nat),
    Rules.accesses s1 f i n → s.runs i f → s.rd2 f.a f.b = .ok (x, y, s1) →
    let ea := (x.1 + y.1 * BitVec.ofNat 64 n + f.imm.signExtend 64).toNat
    ((x.2 || y.2) = true → exec i s = .next (s.raise .poison 0)) ∧
    ((x.2 || y.2) = false → 2 ^ 20 ≤ ea → exec i s = .next (s.raise .localRange 0)) ∧
    ((x.2 || y.2) = false → s1.st.sup = false → 0xff000 ≤ ea →
      exec i s = .next (s.raise .localRange 0)) ∧
    ((x.2 || y.2) = false → s1.tl.anyGated ea n = true → exec i s = .next (s.raise .localRange 0)) ∧
    ((x.2 || y.2) = false → ea < 2 ^ 20 → (s1.st.sup = true ∨ ea < 0xff000) →
      s1.tl.anyGated ea n = false → ea % n ≠ 0 → exec i s = .next (s.raise .alignment 0)) ∧
    (ea < 2 ^ 20 → (s1.st.sup = true ∨ ea < 0xff000) → s1.tl.anyGated ea n = false →
      ea % n = 0 → s1.tl.acquiring s1.curRec = false → s1.tl.anyWaking ea n = false →
      (∀ c ∈ s1.st.tq, c.meets ea n = false) →
      s1.meetsDrain ea n = false → s1.st.meetsSw ea n = false →
      s1.localCheck (BitVec.ofNat 64 ea) n n false = .ok ())

/-- R100, R103, R105, R107. A load that passes its checks reads w/8 bytes at EA, little-endian and extended by FMT: `ld`
writes D, with the mark of the bytes as its poison; `ldq` takes a place in its queue. `qcfg` empties a queue, cancels
its pending drains and sets its depth; `qadv` discards the oldest entries of a store queue and pops those of a load
queue. -/
def Obligations.LoadsAndQueuesReadLocalMemory : Prop :=
  (∀ (f : Fields) (s s1 s2 : State) (x y : Word × Bool),
     s.rd2 f.a f.b = .ok (x, y, s1) →
     let n := fmtW f.fmt / 8
     let ea := x.1 + y.1 * BitVec.ofNat 64 n + f.imm.signExtend 64
     let key := s1.cur * 2 ^ 20 + ea.toNat
     s1.localCheck ea n n (x.2 || y.2) = .ok () → s1.tl.flips = [] →
     (s.runs (.ld f) f →
       s1.wrDst f.d (extendTo f.fmt (rdNat s1.mem key n)) (anyMarked s1.marks key n) = .ok s2 →
       s.completes (.ld f) s2) ∧
     (s.runs (.ldq f) f → (s1.st.lqOf (f.c.toNat % 4)).length ≤ s1.st.dep.val 3 (f.c.toNat % 4) →
       s.completes (.ldq f) (s1.modSt fun st =>
         { st with lq := st.lq.put (f.c.toNat % 4) (s1.st.lqOf (f.c.toNat % 4) ++
             [.load (extendTo f.fmt (rdNat s1.mem key n)) (anyMarked s1.marks key n)]) }))) ∧
  (∀ (f : Fields) (s s2 : State),
     let q := f.imm.toNat % 8
     let n := f.imm.toNat / 256 % 16
     (s.runs (.qcfg f) f → q < 4 →
       s2 = s.modSt (fun st => { st with lq := st.lq.put q [], dep := st.dep.put q n }) →
       s.completes (.qcfg f) s2) ∧
     (s.runs (.qcfg f) f → 4 ≤ q →
       s2 = s.modSt (fun st =>
         { st with sq := st.sq.put (q - 4) [], drains := st.drains.put (q - 4) [], dep := st.dep.put q n }) →
       s.completes (.qcfg f) s2) ∧
     (s.runs (.qadv f) f → 4 ≤ q →
       s2 = s.modSt (fun st => { st with sq := st.sq.put (q - 4) ((st.sqOf (q - 4)).drop (n + 1)) }) →
       s.completes (.qadv f) s2) ∧
     (s.runs (.qadv f) f → q < 4 →
       (∀ j, j ≤ n → ∃ v p, (s.st.lqOf q)[j]? = some (.held v p)) →
       s2 = s.modSt (fun st => { st with lq := st.lq.put q ((s.st.lqOf q).drop (n + 1)) }) →
       s.completes (.qadv f) s2))

/-- R100, R103, R106, R115. `st` stores the low w/8 bytes of D; `stq` drains the oldest entry of its queue
to EA at once, else it becomes the youngest pending drain of the queue. A poisoned datum without
`.ppass` traps, once the checks of the address have passed and before any wait. -/
def Obligations.StoresWriteLocalMemory : Prop :=
  ∀ (f : Fields) (s s1 s2 : State) (x y d : Word × Bool),
    s.rd2 f.a f.b = .ok (x, y, s1) →
    let n := fmtW f.fmt / 8
    let ea := x.1 + y.1 * BitVec.ofNat 64 n + f.imm.signExtend 64
    let q := f.c.toNat % 2
    let ppass := f.c.getLsbD 7
    (s.runs (.st f) f → s1.addrCheck ea n n (x.2 || y.2) = .ok () → s1.rd1 f.d = .ok (d, s2) →
      (d.2 = true → ppass = false → exec (.st f) s = .next (s.raise .poison 0)) ∧
      (d.2 = false ∨ ppass = true → s2.localWait ea.toNat n = .ok () →
        s.completes (.st f) (s2.putLocal ea.toNat (natToBytes n d.1.toNat) d.2))) ∧
    (s.runs (.stq f) f → s1.addrCheck ea n n (x.2 || y.2) = .ok () →
      (∀ rest, s1.st.sqOf q = d :: rest → d.2 = true → ppass = false →
        exec (.stq f) s = .next (s.raise .poison 0)) ∧
      (∀ rest, s1.st.sqOf q = d :: rest → d.2 = false ∨ ppass = true → s1.localWait ea.toNat n = .ok () →
        s.completes (.stq f) ((s1.putLocal ea.toNat (natToBytes n d.1.toNat) d.2).modSt fun st =>
          { st with sq := st.sq.put q rest })) ∧
      (s1.st.sqOf q = [] → (s1.st.drainsOf q).length ≤ s1.st.dep.val 3 (4 + q) →
        s1.localWait ea.toNat n = .ok () →
        ∀ d : Drain, d.ea = ea.toNat → d.bytes = n → d.ppass = ppass → d.pos = s1.st.pos →
          s.completes (.stq f) (s1.modSt fun st =>
            { st with drains := st.drains.put q (s1.st.drainsOf q ++ [d]), pos := s1.st.pos + 1 })))

/-- R100, R103, R104. The frame of the stores that retire: every byte outside the w/8 bytes at EA is as before, and no
register changes but the queues that are popped and the program counter. In memory of canonical form the bytes
stored below the strand pool read back at their addresses. -/
def Obligations.StoresChangeOnlyTheBytesAtEa : Prop :=
  (∀ (s : State) (ea : Nat) (bs : List Byte) (p : Bool), s.mem.wf = true →
     ea + bs.length ≤ poolBase → bs ≠ [] →
     (∀ i (h : i < bs.length), rdByte (s.putLocal ea bs p).mem (s.cur * 2 ^ 20 + ea + i) = bs[i]) ∧
     Rules.memKept s (s.putLocal ea bs p) (s.cur * 2 ^ 20 + ea) bs.length ∧
     (s.putLocal ea bs p).st = s.st) ∧
  (∀ (f : Fields) (s s1 t : State) (x y : Word × Bool),
     s.rd2 f.a f.b = .ok (x, y, s1) → t.ended = .done →
     let n := fmtW f.fmt / 8
     let ea := (x.1 + y.1 * BitVec.ofNat 64 n + f.imm.signExtend 64).toNat
     (s.runs (.st f) f → exec (.st f) s = .next t →
       Rules.memKept s t (s.cur * 2 ^ 20 + ea) n ∧ Rules.scalarOnly s.st t.st ∧
         Rules.keeps s.st t.st 0xff [f.a, f.b, f.d]) ∧
     (s.runs (.stq f) f → exec (.stq f) s = .next t →
       (s1.st.sqOf (f.c.toNat % 2) = [] → ∀ a, rdByte t.mem a = rdByte s.mem a) ∧
         Rules.memKept s t (s.cur * 2 ^ 20 + ea) n ∧ Rules.scalarOnly s.st t.st ∧
         Rules.keeps s.st t.st 0xff [f.a, f.b]))

/-! ### Control, traps and their return (R65, R71, R76 to R84, R109 to R113, R286, R287) -/

/-- R65, R70. Where a retired instruction leaves the strand: the program counter is the transfer taken,
else the first slot after the issue unit, and nothing else of the state changes but the note of a wait. -/
def Obligations.RetiringMovesTheProgramCounter : Prop :=
  ∀ (s : State) (n : Nat), s.st.slot = some n → s.st.leaving = false →
    s.retire.st.pc = s.st.target.getD s.st.npc ∧ s.retire.ended = .done ∧
      Rules.onlyStrand s s.retire ∧
      { s.retire.st with pc := s.st.pc, target := s.st.target, hold := s.st.hold, stall := s.st.stall }
        = s.st ∧
      s.retire.mem = s.mem

/-- R71, R74, R109 to R112. The control instructions: a branch that is taken, a jump, a call, a return
and a loop that goes on set the transfer to their target; a branch that is not taken, a loop that ends
and a `nop` do not. `call` links the slot after the issue unit; `loop` counts its D down. -/
def Obligations.ControlInstructionsTransfer : Prop :=
  ∀ (f : Fields) (s s1 : State) (x y : Word × Bool) (line : Nat),
    line < 2048 → (line : Int) = (pcLine s.st.upc : Int) + sextN 29 (f.imm.toNat / 8) →
    let tgt := mkPc line (f.imm.toNat % 8)
    let go := fun (s : State) (pc : Word) => s.modSt fun st => { st with target := some pc }
    (∀ c, s.runs (.br c f) f → s.rd2 f.a f.b = .ok (x, y, s1) → x.2 = false → y.2 = false →
      (condHolds c (fmtW f.fmt) x.1.toNat y.1.toNat = false → s.completes (.br c f) s1) ∧
      (condHolds c (fmtW f.fmt) x.1.toNat y.1.toNat = true → s1.targetBad s1.cur tgt = false →
        s.completes (.br c f) (go s1 tgt))) ∧
    (s.runs (.jmp f) f → s.targetBad s.cur tgt = false → s.completes (.jmp f) (go s tgt)) ∧
    (s.runs (.call f) f → s.targetBad s.cur tgt = false →
      s.completes (.call f) ((go s tgt).wrG f.d s.st.npc false)) ∧
    (∀ i ∈ [Instr.jmpr f, .ret f], s.runs i f → s.st.rgp (opIdx f.a) = false →
      s.targetBad s.cur (s.st.rg (opIdx f.a)) = false →
      s.completes i (go s (s.st.rg (opIdx f.a)))) ∧
    (s.runs (.loop f) f → s.st.rgp (opIdx f.d) = false →
      (s.st.rg (opIdx f.d) = 1 → s.completes (.loop f) (s.wrG f.d 0 false)) ∧
      (s.st.rg (opIdx f.d) ≠ 1 → s.targetBad s.cur tgt = false →
        s.completes (.loop f) ((go s tgt).wrG f.d (s.st.rg (opIdx f.d) - 1) false))) ∧
    (s.runs (.nop f) f → s.completes (.nop f) s)

/-- R71, R82, R83. A transfer to a PC that has not the form of R65, whose slot is no target, or that is the higher slot
of a pair raises the target trap before any effect. `rep` starts repetition 0 of the next slot of its line, and
the PC stays at the `rep`; a `rep` in slot 4, or before a slot that no repeat may hold, raises the line-format
trap. -/
def Obligations.TransfersAndRepeatsCheckTheirTarget : Prop :=
  (∀ (f : Fields) (s : State) (i : Instr), i ∈ [Instr.jmpr f, .ret f] → s.runs i f →
     s.st.rgp (opIdx f.a) = false →
     let pc := s.st.rg (opIdx f.a)
     let w := s.lineWord s.cur (pcLine pc)
     (2 ^ 14 ≤ pc.toNat ∨ 5 ≤ pc.toNat % 8 ∨ w.getLsbD (10 + pcSlot pc) = false ∨
       highOfPair (bitsN w.toNat 20 4) (pcSlot pc) = true) →
     exec i s = .next (s.raise .target 0)) ∧
  (∀ (r : RepFields) (s : State), s.issues (.rep r) →
     let line := pcLine s.st.upc
     let slot := pcSlot s.st.upc
     let bad := slot = 4 ∨ pairAt (bitsN (s.lineWord s.cur line).toNat 20 4) (slot + 1) = true ∨
       repTargetBad r (s.slotWord s.cur line (slot + 1)) = true
     (bad → exec (.rep r) s = .next (s.raise .lineFormat 0)) ∧
     (¬ bad → s.completes (.rep r)
       (s.modSt fun st => { st with rpt := true, repidx := 0, target := some st.upc })))

/-- The instructions that R76 guards whole, with the fields f, in a state: `mtsr` of a register that the strand may
write (R59, R81), `xsend` in a form that its packet allows (R245). -/
def Sys2Proof.Rules.guards (s : State) (f : Fields) (i : Instr) : Prop :=
  i ∈ [Instr.add f, .sub f, .mul f, .mulh f, .div f, .rem f, .and f, .or f, .xor f, .andn f, .shl f,
      .shr f, .sar f, .rol f, .min f, .max f, .clz f, .ctz f, .popc f, .sel f, .mov f, .sext f, .zext f,
      .bfx f, .bfi f, .lea f, .ld f, .st f, .ldq f, .stq f, .qcfg f, .qadv f, .jmp f, .jmpr f, .call f,
      .ret f, .loop f, .nop f, .brk f, .trap f] ∨
    i ∈ [Instr.vclaim f, .vyield f, .pwlset f, .spawn f, .exit f, .wait f, .yield f, .wid f, .ssr f, .fence f,
      .facc f, .fcrd f, .xget f, .xput f, .xcpy f, .xmc f, .xld f, .xst f, .xopAdd f, .xopFadd f, .xopCas1 f,
      .xopCas2 f, .xopCas4 f, .xopEnq f, .xopChase f, .swset f, .swget f, .ctready f, .ctarm f, .ctstat f] ∨
    i ∈ [Instr.svc f, .svcReturn f, .tret f, .mfsr f, .park f, .klaunch f, .halt f, .tlbinvPage f, .tlbinvCtx f,
      .tlbinvAll f, .tlbprobe f, .fltrd f, .fltrep f, .migr f, .hld f, .hst f, .hmov f, .hpin f, .hunpin f,
      .hcmp f, .hobjAlloc f, .hobjFree f, .hobjInfo f, .hobjMove f, .hobjCompact f, .hobjFlip f, .region f,
      .regionClose f, .pair f, .unpair f] ∨
    (∃ c, i = .set c f ∨ i = .br c f) ∨ (∃ op, i = .amo op f) ∨ (∃ op, i = .sync op f) ∨
    (i = .mtsr f ∧ (s.st.sup = true ∨ f.imm.toNat % 4096 ∈ [0, 4, 8])) ∨
    (i = .xsend f ∧ if s.st.pkt.isSome then f.scp = 0 ∧ f.rnd = 0 ∧ f.imm = 0 ∧ f.d = 0 ∧ f.a = 0
      else 1 ≤ f.scp.toNat ∧ f.scp.toNat ≤ 5)

/-- R76. A guarded instruction, of any family, whose predicate is off has no effect and no trap of its own: it only
moves the PC. -/
def Obligations.PredicateOffOnlyMovesThePc : Prop :=
  ∀ (i : Instr) (f : Fields) (s : State),
    Rules.guards s f i → s.issues i → predOn f s.st = false → s.completes i s

/-- R113, R286. `brk` and `trap` take their trap: EPC is the PC of the issue unit, ECAUSE the cause and the 16-bit
code, the frame STATUS.RPT and REPIDX; with a trap route and no trap open the strand goes on at THPC in its
slot, every general register, vector register and byte of memory as before. A trap with no trap route, or inside
a handler before its return, stops the context: EPC and ECAUSE are written, the PC stays at the trapping unit,
STATE is 3 and every tile of the context's kernels is to park with STOP. Read as log 50 says. -/
def Obligations.TrapsEnterTheHandlerOrStopTheContext : Prop :=
  (∀ (i : Instr) (f : Fields) (s : State) (cause : Nat),
     (i, cause) ∈ [(Instr.brk f, 0x08), (.trap f, 0x09)] → s.runs i f → s.kern.trt = true →
     s.st.ecause.toNat % 256 = 0 →
     ∃ t, exec i s = .next t ∧ t.ended = .trapped ∧ t.st.pc = s.kern.thpc ∧ t.st.epc = s.st.upc ∧
       t.st.ecause = BitVec.ofNat 64 (f.imm.toNat % 65536 * 2 ^ 32 + cause) ∧
       t.st.frameRpt = s.st.rpt ∧ t.st.frameIdx = s.st.repidx ∧ t.st.rpt = false ∧
       t.st.slot = s.st.slot ∧ (∀ n, t.st.rg n = s.st.rg n ∧ t.st.rgp n = s.st.rgp n) ∧
       (∀ n, t.st.rv n = s.st.rv n ∧ t.st.rk n = s.st.rk n) ∧ t.mem = s.mem ∧ Rules.onlyStrand s t) ∧
  (∀ (s : State) (c : Cause) (code slot : Nat),
     (s.kern.trt = false ∨ s.st.ecause.toNat % 256 ≠ 0) → s.ctxSlot s.kern.asid = some slot →
     let t := s.takeTrap s.cur s.curRec c code
     t.st.epc = s.st.upc ∧ t.st.pc = s.st.upc ∧
       t.st.ecause = BitVec.ofNat 64 (code % 65536 * 2 ^ 32 + c.code) ∧
       (t.ctxs.val {} slot).st = 3 ∧
       (∀ n k, (s.tileAt n).kernel = some k → (s.kernAt k).asid = s.kern.asid →
         4 ≤ max (t.tileAt n).parkAsk (t.tileAt n).parkWhy))

/-- R78, R80, R81. A privileged instruction in a tenant strand raises the privilege trap; an instruction whose word
fails a check at decode raises that check's trap, whatever its predicate. -/
def Obligations.ChecksAtDecodeTrapFirst : Prop :=
  (∀ (i : Instr) (f : Fields) (s : State),
     i ∈ [Instr.tret f, .halt f, .tlbinvPage f, .tlbinvCtx f, .tlbinvAll f, .fltrd f, .fltrep f, .migr f] →
     s.running = true → wellFormed i = true → s.st.sup = false → s.st.partner = none →
     exec i s = .next (s.raise .privilege 0)) ∧
  (∀ (i : Instr) (e : DecodeErr) (s : State), isStrand i = true → s.running = true →
     s.st.partner = none → decodeErr i = some e →
     exec i s = .next (s.raise (match e with
       | .undefined => .undefinedInstr
       | .reservedField => .reservedField
       | .operandClass => .operandClass) 0))

/-- R71, R287. `svc 0` and `tret` return from a trap: the PC is EPC, the repeat comes back from the frame,
ECAUSE is 0 and the breakpoint at EPC does not fire for one issue. With ECAUSE 0 they raise the software trap with code
0. An EPC that `mtsr` wrote is checked as the target of a jump: one that has not the form of a PC, is no target or is
the higher slot of a pair raises the target trap. -/
def Obligations.TrapReturnsRestoreTheFrame : Prop :=
  ∀ (i : Instr) (f : Fields) (s : State), i ∈ [Instr.svcReturn f, .tret f] → s.runs i f →
    let pc := s.st.epc
    let w := s.lineWord s.cur (pcLine pc)
    let bad := 2 ^ 14 ≤ pc.toNat ∨ 5 ≤ pc.toNat % 8 ∨ w.getLsbD (10 + pcSlot pc) = false ∨
      highOfPair (bitsN w.toNat 20 4) (pcSlot pc) = true
    (s.st.ecause = 0 → exec i s = .next (s.raise .software 0)) ∧
    (s.st.ecause ≠ 0 → s.st.epcw = true → bad → exec i s = .next (s.raise .target 0)) ∧
    (s.st.ecause ≠ 0 → s.st.epcw = false ∨ ¬ bad → s.completes i (s.modSt fun st => { st with
      target := some st.epc, rpt := st.frameRpt, repidx := st.frameIdx, frameRpt := false,
      frameIdx := 0, ecause := 0, bkOff := true, epcw := false }))

/-! ### Vector and mask instructions (R116 to R142) -/

/-- A vector or mask command has entered the vector queue (R186). That a command of a strand without lanes
takes no place there is the model's choice (log 12). -/
def Sys2Proof.Rules.queued (s : State) : State :=
  if s.st.vl = 0 then s else s.modSt fun st => { st with vq := st.vq + 1 }

/-- The vector queue takes one more command of a strand with lanes (R119, R186). -/
def Sys2Proof.Rules.vecReady (s : State) : Prop := s.st.vl ≠ 0 ∧ s.st.vq < 2

/-- A source passes the tag check against a tag (R44, R119). -/
def Sys2Proof.Rules.tagOk (f : Fields) (tag : BitVec 4) (v : VSrc) : Prop :=
  f.ef = true ∨ v.const = true ∨ v.x.tag = tag

/-- A source passes the check against FMT; FMT 0 accepts every tag. -/
def Sys2Proof.Rules.fmtOk (f : Fields) (v : VSrc) : Prop := f.fmt = 0 ∨ Rules.tagOk f f.fmt v

/-- The lane-wise instructions on their sources a, b, c: the sources checked, what element e becomes
(with RNGS before and after it), the poison of the sources, the block field of the result (R122 to R124,
R139). -/
def Sys2Proof.Rules.laneOps (t : Tile) (f : Fields) (a b c : VSrc) :
    List (Instr × List VSrc × Elem × BitVec 64 × Option (BitVec 8)) :=
  let el (v : VSrc) (e : Nat) : Nat := v.x.elem f.ew e
  let iv (x : Nat) : Int := intVal f.ew (iwSigned f.iw) x
  let ar (o : Arith) : Elem := fun e g => o.elem f (el a e) (el b e) (el c e) g
  let ar2 (o : Arith) : Elem := fun e g => o.elem f (el a e) (el b e) 0 g
  let ar1 (o : Arith) : Elem := fun e g => o.elem f (el a e) 0 0 g
  let sh (e : Nat) : Nat := ((iv (el b e) + (bitsN f.imm.toNat 8 6 : Nat)) % (f.ew : Int)).toNat
  let lnBlk (x : Option (BitVec 8)) : Option (BitVec 8) := if f.fmt = 7 then x else some 0x80
  [ (.vadd f, [a, b], ar2 arAdd, a.x.pois ||| b.x.pois, some 0x80),
    (.vsub f, [a, b], ar2 arSub, a.x.pois ||| b.x.pois, some 0x80),
    (.vmul f, [a, b], ar2 arMul, a.x.pois ||| b.x.pois, lnBlk (blkSum a.x.blk b.x.blk)),
    (.vfma f, [a, b, c], ar arFma, a.x.pois ||| b.x.pois ||| c.x.pois, some 0x80),
    (.vmin f, [a, b], ar2 arMin, a.x.pois ||| b.x.pois, some 0x80),
    (.vmax f, [a, b], ar2 arMax, a.x.pois ||| b.x.pois, some 0x80),
    (.vabs f, [a], ar1 arAbs, a.x.pois, lnBlk (some a.x.blk)),
    (.vneg f, [a], ar1 arNeg, a.x.pois, lnBlk (some a.x.blk)),
    (.vand f, [a, b], fun e g => ((el a e &&& el b e, false), g), a.x.pois ||| b.x.pois, some 0x80),
    (.vor f, [a, b], fun e g => ((el a e ||| el b e, false), g), a.x.pois ||| b.x.pois, some 0x80),
    (.vxor f, [a, b], fun e g => ((el a e ^^^ el b e, false), g), a.x.pois ||| b.x.pois, some 0x80),
    (.vshl f, [a, b],
      fun e g => ((intBits f.ew (iwSigned f.iw) f.sat (iv (el a e) * (2 ^ sh e : Nat)), false), g),
      a.x.pois ||| b.x.pois, some 0x80),
    (.vshr f, [a, b], fun e g => ((el a e / 2 ^ sh e, false), g), a.x.pois ||| b.x.pois, some 0x80),
    (.vsar f, [a, b],
      fun e g => ((wrapN f.ew (sextN f.ew (el a e) / (2 ^ sh e : Nat)), false), g),
      a.x.pois ||| b.x.pois, some 0x80),
    (.vpwl f, [a], fun e g => ((t.pwlEval (el a e), false), g), a.x.pois, some 0x80) ]

/-- R44, R49, R116, R119, R122 to R124, R139. Every lane-wise instruction of a strand with lanes, whose sources pass the
tag check, whose block exponents have a sum and for whose command there is room, computes its elements in order
from RNGS, writes those of the active lanes of D with the result's tag and block field, and enters the vector
queue. (`vpwl` needs a table.) Without lanes it raises the claim trap; a source that fails the tag check raises the
format trap; the product of LN6 registers without a sum of block exponents raises the block-exponent trap. A write
of a vector register replaces the elements of the active lanes and their poison and keeps the other lanes and
registers. -/
def Obligations.LaneWiseInstructionsWriteTheirElements : Prop :=
  (∀ (f : Fields) (s : State) (i : Instr) (srcs : List VSrc) (op : Elem) (pois : BitVec 64) (blk : BitVec 8),
     (i, srcs, op, pois, some blk) ∈
       Rules.laneOps s.tl f (s.st.vsrc f.a) (s.st.vsrc f.b) (s.st.vsrc f.c) →
     s.issues i → Rules.vecReady s → (∀ v ∈ srcs, Rules.fmtOk f v) →
     (i = .vpwl f → s.tl.pwln ≠ 0) →
     let r := runElems op 0 (f.epl * s.st.vl) s.st.rngs
     s.completes i (Rules.queued ((s.modSt fun st => { st with rngs := r.2 }).wrV f.d
       (packElems f.ew (r.1.map Prod.fst)) (pois ||| poisonLanes f.epl r.1)
       (predMask f s.st &&& BitVec.ofNat 64 (2 ^ s.st.vl - 1)) f.fmt blk))) ∧
  (∀ (f : Fields) (s : State) (i : Instr) (srcs : List VSrc) (op : Elem) (pois : BitVec 64)
     (blk : Option (BitVec 8)),
     (i, srcs, op, pois, blk) ∈
       Rules.laneOps s.tl f (s.st.vsrc f.a) (s.st.vsrc f.b) (s.st.vsrc f.c) →
     s.issues i →
     (s.st.vl = 0 → exec i s = .next (s.raise .claim 0)) ∧
     (s.st.vl ≠ 0 → (∃ v ∈ srcs, ¬ Rules.fmtOk f v) → exec i s = .next (s.raise .format 0)) ∧
     (s.st.vl ≠ 0 → (∀ v ∈ srcs, Rules.fmtOk f v) → blk = none →
       exec i s = .next (s.raise .blockExponent 0))) ∧
  (∀ (s : State) (d : BitVec 8) (xs : List Nat) (pois act : BitVec 64) (tag : BitVec 4) (blk : BitVec 8)
     (i : Nat), i < 64 →
     let t := s.wrV d (packElems 32 xs) pois act tag blk
     let old := s.st.rv (opIdx d)
     let new := t.st.rv (opIdx d)
     (act.getLsbD i = true → new.lane i = xs.getD i 0 % 2 ^ 32 ∧ new.pois.getLsbD i = pois.getLsbD i) ∧
       (act.getLsbD i = false → new.lane i = old.lane i ∧ new.pois.getLsbD i = old.pois.getLsbD i) ∧
       new.tag = tag ∧ new.blk = blk ∧ Rules.onlyStrand s t ∧ { t.st with v := s.st.v } = s.st ∧
       ∀ n, n ≠ opIdx d → t.st.rv n = s.st.rv n)

/-- R125 to R127, R132, R135. Compare, select, poison test and the moves between lanes and registers. Read as log
10, log 12 and log 18 say. -/
def Obligations.LaneMovesWriteTheirResult : Prop :=
  ∀ (f : Fields) (s s1 : State) (x y : Word × Bool), Rules.vecReady s →
    let a := s.st.vsrc f.a
    let b := s.st.vsrc f.b
    let act := predMask f s.st &&& BitVec.ofNat 64 (2 ^ s.st.vl - 1)
    let all := fun p : Bool => if p then BitVec.allOnes 64 else 0#64
    (∀ c, s.issues (.vcmp c f) → Rules.fmtOk f a → Rules.fmtOk f b →
      let pz := (a.x.pois ||| b.x.pois) &&& act
      let m := maskOf fun i => vcondHolds c f (a.x.elem f.ew (f.epl * i + f.part))
        (b.x.elem f.ew (f.epl * i + f.part))
      s.completes (.vcmp c f) (Rules.queued (s.wrK f.d (m &&& ~~~ pz) act (pz != 0)))) ∧
    (s.issues (.vsel f) → Rules.fmtOk f a → Rules.fmtOk f b →
      (a.const = true ∨ b.const = true ∨ a.x.blk = b.x.blk) →
      let k := s.st.rk (opIdx f.c)
      s.completes (.vsel f) (Rules.queued (s.wrV f.d
        ((a.x.lanes &&& laneBits k) ||| (b.x.lanes &&& ~~~ laneBits k)).toNat
        ((a.x.pois &&& k) ||| (b.x.pois &&& ~~~ k)) act f.fmt (if a.const then b.x.blk else a.x.blk)))) ∧
    (s.issues (.vpois f) → (f.imm.getLsbD 0 = false ∨ a.const = true) →
      s.completes (.vpois f) (Rules.queued (s.wrK f.d a.x.pois act false))) ∧
    (s.issues (.vpois f) → f.imm.getLsbD 0 = true → a.const = false →
      s.completes (.vpois f) (Rules.queued ((s.wrK f.d a.x.pois act false).modSt fun st =>
        st.wv (opIdx f.a) { st.rv (opIdx f.a) with pois := (st.rv (opIdx f.a)).pois &&& ~~~ act }))) ∧
    (s.issues (.vperm f) → Rules.fmtOk f a → Rules.tagOk f 1 b →
      let off := fun i => decide (2 ^ 31 ≤ b.x.lane i)
      s.completes (.vperm f) (Rules.queued (s.wrV f.d
        (packElems 32 ((List.range 64).map fun i => if off i then 0 else a.x.lane (b.x.lane i % 64)))
        (maskOf fun i => b.x.pois.getLsbD i || (!off i && a.x.pois.getLsbD (b.x.lane i % 64)))
        act f.fmt a.x.blk))) ∧
    (s.issues (.vbcast f) → s.rdSrc f.a = .ok (x, s1) →
      s.completes (.vbcast f) (Rules.queued (s1.wrV f.d
        (packElems 32 (List.replicate 64 x.1.toNat)) (all x.2) act f.fmt 0x80))) ∧
    (s.issues (.vext f) → Rules.fmtOk f a → s.rdSrc f.b = .ok (y, s1) →
      let l := (y.1.toNat + bitsN f.imm.toNat 8 6) % 64
      (act.getLsbD l = false → s.completes (.vext f) (Rules.queued s1)) ∧
      (act.getLsbD l = true → s.completes (.vext f) (Rules.queued (s1.wrG f.d
        (if f.fmt = 1 ∧ f.iw = 0 then BitVec.ofInt 64 (sextN 32 (a.x.lane l))
          else BitVec.ofNat 64 (a.x.lane l)) (a.x.pois.getLsbD l || y.2))))) ∧
    (s.issues (.vins f) → Rules.fmtOk f (s.st.vsrc f.d) → s.rd2 f.a f.b = .ok (x, y, s1) →
      let l := (y.1.toNat + bitsN f.imm.toNat 8 6) % 64
      s.completes (.vins f) (Rules.queued (s1.wrV f.d (packElems 32 (List.replicate 64 x.1.toNat))
        (all (x.2 || y.2)) (act &&& (1#64 <<< l)) (if act.getLsbD l then f.fmt else (s.st.vsrc f.d).x.tag)
        (s.st.vsrc f.d).x.blk))) ∧
    (s.issues (.vblk f) → Rules.fmtOk f a →
      s.completes (.vblk f) (Rules.queued (s.wrG f.d
        (BitVec.ofInt 64 (blkChoose (activeVals f a.x act))) ((a.x.pois &&& act) != 0)))) ∧
    (s.issues (.vblkSet f) → Rules.fmtOk f a → s.rdSrc f.b = .ok (y, s1) →
      s.completes (.vblkSet f) (Rules.queued (s1.wrV f.d a.x.lanes.toNat
        (if y.2 then BitVec.allOnes 64 else a.x.pois) act f.fmt (y.1.truncate 8))))

/-- R128. What a conversion with parts leaves: its queue longer by one, the tag and block field of D those of the
result, the inactive lanes and the other registers as before. -/
def Sys2Proof.Rules.partFrame (s t : State) (f : Fields) (tag : BitVec 4) (blk : BitVec 8) : Prop :=
  Rules.onlyStrand s t ∧ { t.st with v := s.st.v, rngs := s.st.rngs, vq := s.st.vq } = s.st ∧
    t.st.vq = s.st.vq + 1 ∧ (t.st.rv (opIdx f.d)).tag = tag ∧ (t.st.rv (opIdx f.d)).blk = blk ∧
    (∀ n, n ≠ opIdx f.d → t.st.rv n = s.st.rv n) ∧
    ∀ i, i < 64 → (actOf f s.st).getLsbD i = false →
      (t.st.rv (opIdx f.d)).lane i = (s.st.rv (opIdx f.d)).lane i

/-- R128 to R131, R136. Conversions with parts, reductions, scans and quantization to codes. Read as log 10, log 12
and log 21 say. -/
def Obligations.VectorConversionsWriteTheirResult : Prop :=
  ∀ (f : Fields) (s s1 : State) (c : Word × Bool), Rules.vecReady s →
    let a := s.st.vsrc f.a
    let b := s.st.vsrc f.b
    let act := predMask f s.st &&& BitVec.ofNat 64 (2 ^ s.st.vl - 1)
    let all := fun p : Bool => if p then BitVec.allOnes 64 else 0#64
    let val := fun x => (fltOf f.fmt.toNat).val x
    (s.issues (.vcvt f) → Rules.tagOk f (BitVec.ofNat 4 f.sf) a →
      f.fmt ≠ 7 → f.fmt ≠ 10 → f.fmt ≠ 11 →
      ∃ t, s.partWise f (eplOf (BitVec.ofNat 4 f.sf) f.siw) f.epl a.x
        (fun x g _ => cvtElem f a.x.blk 0 x g) (a.x.pois ||| 0) f.fmt 0x80 = .ok t ∧ Rules.partFrame s t f f.fmt 0x80 ∧ s.completes (.vcvt f) t) ∧
    (s.issues (.vcvt f) → Rules.tagOk f (BitVec.ofNat 4 f.sf) a →
      (f.fmt = 7 ∨ f.fmt = 10 ∨ f.fmt = 11) → s.rdSrc f.c = .ok (c, s1) →
      (c.1.truncate 8 : BitVec 8) ≠ 0x80 →
      ∃ t, s1.partWise f (eplOf (BitVec.ofNat 4 f.sf) f.siw) f.epl a.x
        (fun x g _ => cvtElem f a.x.blk (c.1.truncate 8) x g) (a.x.pois ||| all c.2) f.fmt
        (c.1.truncate 8) = .ok t ∧ Rules.partFrame s1 t f f.fmt (c.1.truncate 8) ∧ s.completes (.vcvt f) t) ∧
    (∀ op, s.issues (.vred op f) → Rules.fmtOk f a → (redBitwise op = true → f.fmt = 1) →
      s.completes (.vred op f) (Rules.queued (s.wrG f.d
        (if f.fmt = 1 then BitVec.ofInt 64 (intVal f.ew (iwSigned f.iw) (redNarrow op f
            ((treeFold (redInt op f.ew) (redIntSrc op f a.x act) (levelsOf f.epl)).headD 0)))
          else BitVec.ofNat 64
            ((treeFold (redFlt op f) (redFltSrc op f a.x act) (levelsOf f.epl)).headD 0))
        ((a.x.pois &&& act) != 0)))) ∧
    (∀ op, s.issues (.vscan op f) → Rules.fmtOk f a → (redBitwise op = true → f.fmt = 1) →
      s.completes (.vscan op f) (Rules.queued (s.wrV f.d
        (packElems f.ew (if f.fmt = 1 then
            (scanSteps (redInt op f.ew) 1 (redIntSrc op f a.x act) (levelsOf f.epl)).map (redNarrow op f)
          else scanSteps (redFlt op f) 1 (redFltSrc op f a.x act) (levelsOf f.epl)))
        (prefixPois (a.x.pois &&& act)) act f.fmt 0x80))) ∧
    (s.issues (.vqPc f) → Rules.fmtOk f a → Rules.fmtOk f b → s.rdSrc f.c = .ok (c, s1) →
      let k := bitsN c.1.toNat 8 3 + 1
      ∃ t, s1.partWise f (eplOf f.fmt 0) 4 a.x
        (fun x g e => planeCode (val x) (val (b.x.elem (32 / eplOf f.fmt 0) e)) (bitsN c.1.toNat 0 8) k
          (rmOf f.rnd) g)
        (a.x.pois ||| b.x.pois ||| all c.2) 8 (BitVec.ofNat 8 (k - 1)) = .ok t ∧ Rules.partFrame s1 t f 8 (BitVec.ofNat 8 (k - 1)) ∧ s.completes (.vqPc f) t) ∧
    (s.issues (.vqCb f) → Rules.fmtOk f a → Rules.tagOk f 7 b → s.rdSrc f.c = .ok (c, s1) →
      let n := bitsN c.1.toNat 0 4 + 1
      let book := usable ((List.range n).map fun j => b.x.elem 8 j) (blkInt b.x.blk)
      let bp := (List.range ((n + 3) / 4)).any fun i => b.x.pois.getLsbD i
      ∃ t, s1.partWise f (eplOf f.fmt 0) 4 a.x (fun x g _ => (bookIndex book (val x), g))
        (a.x.pois ||| all (c.2 || bp)) 9 (BitVec.ofNat 8 (n - 1)) = .ok t ∧ Rules.partFrame s1 t f 9 (BitVec.ofNat 8 (n - 1)) ∧ s.completes (.vqCb f) t)

/-- R102, R133, R134, R137, R138. Vector loads and stores, and the loading of a piecewise table. Read as log 10, log
12 and log 18 say. -/
def Obligations.VectorMemoryInstructionsComplete : Prop :=
  ∀ (f : Fields) (s s1 : State) (x y : Word × Bool),
    let act := predMask f s.st &&& BitVec.ofNat 64 (2 ^ s.st.vl - 1)
    let as := laneAddrs f s.st (x.1 + y.1 * 4 + f.imm.signExtend 64)
    let d := s.st.vsrc f.d
    (Rules.vecReady s → s.issues (.vld f) → (f.c ≠ 0 → Rules.tagOk f 1 (s.st.vsrc f.c)) →
      s.rd2 f.a f.b = .ok (x, y, s1) → s1.laneChecks f (x.2 || y.2) as = .ok () →
      s1.laneWaits as = .ok () →
      let r := s1.laneLoads as
      let find := fun i => ((r.1.find? fun v => v.1 == i).map Prod.snd).getD (0, false)
      s.completes (.vld f) (Rules.queued (r.2.wrV f.d
        (packElems 32 ((List.range 64).map fun i => (find i).1)) (maskOf fun i => (find i).2) act f.fmt
        0x80))) ∧
    (Rules.vecReady s → s.issues (.vst f) → (f.c ≠ 0 → Rules.tagOk f 1 (s.st.vsrc f.c)) →
      Rules.fmtOk f d → s.rd2 f.a f.b = .ok (x, y, s1) → s1.laneChecks f (x.2 || y.2) as = .ok () →
      (f.sat = true ∨ ∀ a ∈ as, d.x.pois.getLsbD a.1 = false) → s1.laneWaits as = .ok () →
      s.completes (.vst f) (Rules.queued (as.foldl (fun s a =>
        s.putLocal a.2.toNat (natToBytes 4 (d.x.lane a.1)) (d.x.pois.getLsbD a.1)) s1))) ∧
    (let n := bitsN f.imm.toNat 0 6 + 1
     s.runs (.pwlset f) f → s.rdSrc f.a = .ok (x, s1) → s1.localCheck x.1 (20 * n) 4 x.2 = .ok () →
      s1.tl.flips = [] → (s.st.vl = 0 ∨ s.st.vq < 2) →
      let words := s1.pwlWords x.1.toNat n
      bpBad ((List.range n).map fun j => fp32.val (words.getD (5 * j) 0).toNat) = false →
      s1.ldPois s1.cur x.1.toNat (20 * n) = false →
      s.completes (.pwlset f) (Rules.queued (s1.modTl fun t =>
        { t with pwl := pwlMap words, pwln := n })))

/-- R46, R56, R120, R121, R141. `vclaim` releases the grant and asks for MIN to MAX lane groups; alone in the queue
and with MIN groups free, it is granted at once and D is the new VL; else the strand is held until `vclaim`
issues with its request granted. `vyield` sets VL to 0 once the vector queue is empty. The mask instructions act
bit by bit on the lanes of the predicate, `kpop` and `kfirst` count, `kmov` moves between masks and general
registers. Read as log 12 says. -/
def Obligations.LaneClaimsAndMasksTakeEffect : Prop :=
  (∀ (f : Fields) (s : State),
     (s.runs (.vyield f) f → s.st.vq = 0 →
       s.completes (.vyield f) (s.modSt fun st => { st with vl := 0 })) ∧
     (∀ d, s.runs (.vclaim f) f → s.st.vreq = some (0, 0, d) →
       s.completes (.vclaim f) ((s.modSt fun st => { st with vreq := none }).wrG f.d
         (BitVec.ofNat 64 s.st.vl) false)) ∧
     (s.runs (.vclaim f) f → s.st.vreq = none → s.st.vq = 0 → s.tl.vwait = [] →
       let lo := bitsN f.imm.toNat 4 3 + 1
       let hi := bitsN f.imm.toNat 0 3 + 1
       let s1 := (s.modSt fun st => { st with vl := 0, vreq := some (lo, hi, f.d) }).modTl
         fun t => { t with vwait := t.vwait ++ [s.curRec] }
       (lo ≤ s1.tl.freeGroups → ∃ s2 : State, s2.st.vl = 8 * min hi s1.tl.freeGroups ∧ s2.st.vreq = none ∧
         s2.tl.vwait = [] ∧ s2.mem = s.mem ∧
         s.completes (.vclaim f) (s2.wrG f.d (BitVec.ofNat 64 (8 * min hi s1.tl.freeGroups)) false)) ∧
       (s1.tl.freeGroups < lo → pcForm s.st.npc = true → ∃ t : State, exec (.vclaim f) s = .next t ∧ t.ended = .held ∧ t.st.vl = 0 ∧
         t.tl.vwait = [s.curRec]))) ∧
  (∀ (f : Fields) (s s1 : State) (x : Word × Bool), (s.st.vl = 0 ∨ s.st.vq < 2) →
     let p := predMask f s.st
     let a := s.st.rk (opIdx f.a)
     let b := s.st.rk (opIdx f.b)
     (∀ q ∈ [(Instr.kand f, a &&& b), (.kor f, a ||| b), (.kxor f, a ^^^ b), (.knot f, ~~~ a)],
       s.issues q.1 → s.completes q.1 (Rules.queued (s.wrK f.d q.2 p false))) ∧
     (s.issues (.kpop f) → s.completes (.kpop f) (Rules.queued (s.wrG f.d
       (BitVec.ofNat 64 ((List.range 64).filter fun j => (a &&& p).getLsbD j).length) false))) ∧
     (∀ n, s.issues (.kfirst f) → n ≤ 64 → (∀ j, j < n → (a &&& p).getLsbD j = false) →
       (n < 64 → (a &&& p).getLsbD n = true) →
       s.completes (.kfirst f) (Rules.queued (s.wrG f.d (BitVec.ofNat 64 n) false))) ∧
     (s.issues (.kmov f) → isK f.a = true → isK f.d = true →
       s.completes (.kmov f) (Rules.queued (s.wrK f.d a p false))) ∧
     (s.issues (.kmov f) → isK f.a = true → isK f.d = false →
       s.completes (.kmov f) (Rules.queued (s.wrG f.d (a &&& p) false))) ∧
     (s.issues (.kmov f) → isK f.a = false → s.rdSrc f.a = .ok (x, s1) →
       s.completes (.kmov f) (Rules.queued (s1.wrK f.d (if x.2 then 0 else x.1) p x.2))))

/-! ### The table engine (R143 to R166) -/

/-- A table command has entered the strand's table queue (R145, R186). -/
def Sys2Proof.Rules.tqueued (s : State) (c : TCmd) : State :=
  s.modSt fun st => { st with tq := st.tq ++ [{ c with pos := st.pos }], pos := st.pos + 1 }

/-- The table queue takes one more command of a strand that holds, or has asked for, a claim (R145, R147). -/
def Sys2Proof.Rules.tableReady (s : State) : Prop := s.st.claimNow.isSome = true ∧ s.st.tq.length < 2

/-- R143, R145, R147, R148. `mclaim` asks for a claim slot: with its strand's table queue empty, alone in the tile's
queue and with a slot free it holds the lowest one at once, its D is the slot's number and the slot's registers are
cleared; else the request waits. A second claim traps. `mrel` withdraws a waiting request, whose D reads all ones,
or releases the claim once every earlier table command has completed: behind one it waits in the queue. A strand
stalls, or suspends under R177, only where its queue of two is full. An instruction of the table engine in a strand
that holds and awaits no claim raises the claim trap. -/
def Obligations.ClaimInstructionsAskAndRelease : Prop :=
  (∀ (f : Fields) (s : State),
     (s.issues (.mclaim f) → s.st.claimNow.isSome = true → exec (.mclaim f) s = .next (s.raise .claim 0)) ∧
     (s.issues (.mclaim f) → s.st.claim = none → s.st.mreq = none → s.st.tq = [] → s.tl.mwait ≠ [] →
       ∃ s2 : State, s2.st.mreq = some f.d ∧ s2.st.claim = none ∧ s2.st.tq = [] ∧ s2.st.g = s.st.g ∧
         s2.tl.mwait = s.tl.mwait ++ [s.curRec] ∧ s2.mem = s.mem ∧ s.completes (.mclaim f) s2) ∧
     (∀ c, s.issues (.mclaim f) → s.st.claim = none → s.st.mreq = none → s.st.tq = [] →
       s.tl.mwait = [] → s.tl.freeSlot = some c →
       ∃ s2 : State, s2.st.claim = some c ∧ s2.st.mreq = none ∧ s2.st.tq = [] ∧ s2.tl.mwait = [] ∧
         (isG f.d = true → opIdx f.d ≠ 0 →
           s2.st.rg (opIdx f.d) = BitVec.ofNat 64 c ∧ s2.st.rgp (opIdx f.d) = false) ∧
         (∀ j, j < 4 → s2.tl.ra (4 * c + j) = {}) ∧ (∀ j, j < 8 → s2.tl.rm (8 * c + j) = {}) ∧
         (∀ j, j < 2 → s2.tl.rtb (2 * c + j) = {}) ∧
         s2.mem = s.mem ∧ s.completes (.mclaim f) s2) ∧
     (s.issues (.mrel f) → s.st.claimNow = none → exec (.mrel f) s = .next (s.raise .claim 0)) ∧
     (∀ d, s.issues (.mrel f) → s.st.mreq = some d → s.st.tq = [] →
       ∃ s2 : State, s2.st.mreq = none ∧ s2.st.claim = s.st.claim ∧ s2.st.tq = [] ∧ s.curRec ∉ s2.tl.mwait ∧
         (isG d = true → opIdx d ≠ 0 → s2.st.rg (opIdx d) = BitVec.allOnes 64 ∧ s2.st.rgp (opIdx d) = false) ∧
         s2.mem = s.mem ∧ s.completes (.mrel f) s2) ∧
     (∀ c, s.issues (.mrel f) → s.st.mreq = none → s.st.claim = some c → s.st.tq = [] →
       s.curRec ∉ s.tl.mwait →
       ∃ s2 : State, s2.st.claim = none ∧ s2.st.tq = [] ∧ (∀ j, j < 8 → s2.tl.rm (8 * c + j) = {}) ∧
         (∀ j, j < 4 → s2.tl.ra (4 * c + j) = {}) ∧ (∀ j, j < 2 → s2.tl.rtb (2 * c + j) = {}) ∧
         s2.mem = s.mem ∧ s.completes (.mrel f) s2) ∧
     (∀ q, s.issues (.mrel f) → s.st.claimNow.isSome = true → s.st.tq = [q] → q.onClaim = false →
       s.completes (.mrel f) (Rules.tqueued s { instr := .mrel f })) ∧
     (s.issues (.mrel f) → s.st.claimNow.isSome = true → 2 ≤ s.st.tq.length →
       exec (.mrel f) s = .next (s.fullOn 1))) ∧
  (∀ (f : Fields) (s : State) (i : Instr),
     i ∈ [Instr.mld f, .mst f, .ald f, .ast f, .tbuild f, .tbuildc f, .tlook f, .tlookc f, .tdrop f, .azero f,
       .aflush f, .aput f, .mchk f, .achk f] →
     s.issues i → s.st.claimNow = none → exec i s = .next (s.raise .claim 0))

/-- R144, R145, R149 to R151. The moves between local memory and claim registers. A move of a claim whose active
elements pass their checks and meet no earlier access of the strand enters the table queue with the addresses, the
layout and the columns of its issue. When the engine starts it, `mld` and `ald` load the active columns and keep
the others, `mst` and `ast` store the active columns: with rows that do not overlap and below the strand pool every
element reads back, and no other byte changes. Inactive columns as log 20 says. -/
def Obligations.MovesCarryTheActiveColumns : Prop :=
  (∀ (f : Fields) (s s1 : State) (x y z : Word × Bool) (cl : Nat),
     s.st.claimNow = some cl → s.st.tq.length < 2 → s.rd3 f.a f.b f.c = .ok (x, y, z, s1) →
     (x.2 || y.2 || z.2) = false →
     let p := movePlan f x.1 y.1 z.1
     let mask := predMask f s.st
     let es := p.elems mask
     let m := s.tl.rm (8 * cl + opIdx f.d)
     let a := s.tl.ra (4 * cl + opIdx f.d)
     (∀ e ∈ es, s1.rangeBad (p.at_ e.1 e.2) p.es 1 = false) → s1.moveWaits p es = .ok () →
     p.ea % p.es = 0 → p.rs % p.es = 0 →
     (∀ i ∈ [Instr.mld f, .ald f], s.issues i → (i = .mld f → mldBfBad f.fmt z.1 = false) →
       s.completes i (Rules.tqueued s1 { instr := i, x := x, y := y, z := z, mask := mask })) ∧
     (s.issues (.mst f) → (f.ef = true ∨ m.tag = f.fmt) →
       (f.sat = true ∨ ∀ e ∈ es, m.elPois f.fmt e.1 e.2 = false) →
       s.completes (.mst f) (Rules.tqueued s1 { instr := .mst f, x := x, y := y, z := z, mask := mask })) ∧
     (s.issues (.ast f) → (f.sat = true ∨ ∀ e ∈ es, a.poisAt e.1 e.2 = false) →
       s.completes (.ast f) (Rules.tqueued s1 { instr := .ast f, x := x, y := y, z := z, mask := mask }))) ∧
  (∀ (f : Fields) (s : State) (c : TCmd) (cl : Nat), s.st.claim = some cl → s.tl.flips = [] →
     let p := movePlan f c.x.1 c.y.1 c.z.1
     let key := fun r k => s.cur * 2 ^ 20 + p.at_ r k
     let t := s.runT c
     (c.instr = .mld f →
       let old := s.tl.rm (8 * cl + opIdx f.d)
       let new := t.tl.rm (8 * cl + opIdx f.d)
       new.tag = f.fmt ∧ new.blk = mldBlk f.fmt c.z.1 ∧ new.gen = old.gen + 1 ∧ t.mem = s.mem ∧
       (∀ j, j ≠ 8 * cl + opIdx f.d → t.tl.rm j = s.tl.rm j) ∧
       ∀ r k, r < p.rows → k < 64 →
         (c.mask.getLsbD k = true → new.el f.fmt r k = rdNat s.mem (key r k) p.es ∧
           new.pois.getLsbD (64 * r + k) = anyMarked s.marks (key r k) p.es) ∧
         (c.mask.getLsbD k = false → new.el f.fmt r k = old.el f.fmt r k ∧
           new.pois.getLsbD (64 * r + k) = old.pois.getLsbD (64 * r + k))) ∧
     (c.instr = .ald f → f.fmt = 2 →
       let old := s.tl.ra (4 * cl + opIdx f.d)
       let new := t.tl.ra (4 * cl + opIdx f.d)
       new.stage = old.stage ∧ new.sexp = old.sexp ∧ new.sovf = old.sovf ∧ t.mem = s.mem ∧
       (∀ j, j ≠ 4 * cl + opIdx f.d → t.tl.ra j = s.tl.ra j) ∧
       ∀ r k, r < 16 → k < 64 →
         (c.mask.getLsbD k = true → new.cAt r k = rdNat s.mem (key r k) 4 ∧
           new.poisAt r k = anyMarked s.marks (key r k) 4) ∧
         (c.mask.getLsbD k = false → new.cAt r k = old.cAt r k ∧ new.poisAt r k = old.poisAt r k)) ∧
     (∀ el : Nat → Nat → Nat,
       (c.instr = .mst f ∧ el = (s.tl.rm (8 * cl + opIdx f.d)).el f.fmt ∨
         c.instr = .ast f ∧ f.fmt = 2 ∧ el = (s.tl.ra (4 * cl + opIdx f.d)).cAt) →
       (∀ b, (∀ r k, r < p.rows → k < 64 → c.mask.getLsbD k = true → b < key r k ∨ key r k + p.es ≤ b) →
         rdByte t.mem b = rdByte s.mem b) ∧
       (s.mem.wf = true → 64 * p.es ≤ p.rs → p.ea + p.rows * p.rs ≤ poolBase →
         ∀ r k, r < p.rows → k < 64 → c.mask.getLsbD k = true → rdNat t.mem (key r k) p.es = el r k)))

/-- R145, R152 to R155, R159, R162. Table builds and drops pass their checks at issue and enter the table queue with
their operands; when the engine starts them, the new table carries the entries of R153 or R154, its descriptor and
its build word, `tdrop` drops the entries alone and `azero` clears an accumulator. -/
def Obligations.TableBuildsFillTheirTable : Prop :=
  (∀ (f : Fields) (s s1 : State) (cl : Nat) (z : Word × Bool), s.st.claimNow = some cl → s.st.tq.length < 2 →
     let m := s.tl.rm (8 * cl + opIdx f.a)
     let b := s.st.vsrc f.b
     (s.issues (.tbuild f) → (f.ef = true ∨ m.tag = f.fmt) → s.buildExp f = .ok (z, s1) →
       s.completes (.tbuild f) (Rules.tqueued s1 { instr := .tbuild f, z := z })) ∧
     (s.issues (.tbuildc f) → (f.ef = true ∨ m.tag = f.fmt) → (b.const = true ∨ b.x.tag = 7) →
       s.buildExp f = .ok (z, s1) →
       (blkSum (buildE f m { instr := .tbuildc f, z := z, v1 := b.x }) b.x.blk).isSome = true →
       s.completes (.tbuildc f) (Rules.tqueued s1 { instr := .tbuildc f, z := z, v1 := b.x })) ∧
     (∀ i ∈ [Instr.tdrop f, .azero f], s.issues i → s.completes i (Rules.tqueued s { instr := i }))) ∧
  (∀ (f : Fields) (s s1 : State) (x z : Word × Bool),
     ((f.fmt = 10 ∨ f.fmt = 11) → s.buildExp f = .ok ((0, false), s)) ∧
     (f.fmt ≠ 10 → f.fmt ≠ 11 → s.rdSrc f.c = .ok (x, s1) →
       ((x.1.truncate 8 : BitVec 8) ≠ 0x80 → s.buildExp f = .ok (x, s1)) ∧
       ((x.1.truncate 8 : BitVec 8) = 0x80 → s.buildExp f = .error (.trap .blockExponent 0)))) ∧
  (∀ (f : Fields) (s : State) (c : TCmd) (cl : Nat), s.st.claim = some cl →
     let src := 8 * cl + opIdx f.a
     let m := s.tl.rm src
     let e : BitVec 8 := if f.fmt = 10 ∨ f.fmt = 11 then (if m.blk = 0x80 then 0 else m.blk) else c.z.1.truncate 8
     let q := bitsN f.imm.toNat 4 2
     let n := bitsN f.imm.toNat 0 4 + 1
     let book : List Byte := (List.range 16).map fun k =>
       if k < n then BitVec.ofNat 8 (c.v1.elem 8 k % 64) else 0
     let t := s.runT c
     let frame := { t with tiles := s.tiles } = s ∧ { t.tl with tb := s.tl.tb } = s.tl ∧
       ∀ j, j ≠ 2 * cl + opIdx f.d → t.tl.rtb j = s.tl.rtb j
     (c.instr = .tbuild f →
       t.tl.rtb (2 * cl + opIdx f.d) =
         { ents := entImage (planeEnt m f.fmt e.toInt), drop := false, gen := m.gen, src := src,
           tag := 10, blk := e, pois := rowImage fun r => c.z.2 || m.rowPois f.fmt e.toInt r 0 64,
           changed := false, mode := false, q := 0, sfmt := f.fmt, eb := e, et := e, book := [] } ∧ frame) ∧
     (∀ et, c.instr = .tbuildc f → blkSum e c.v1.blk = some et →
       t.tl.rtb (2 * cl + opIdx f.d) =
         { ents := entImage (bookEnt m f.fmt e.toInt q book n), drop := false, gen := m.gen, src := src,
           tag := 9, blk := BitVec.ofNat 8 (n - 1),
           pois := rowImage fun r => c.z.2 || ((List.range n).any fun k => book.getD k 0 == 0x20) ||
             ((List.range 4).any fun i => c.v1.pois.getLsbD i) || m.rowPois f.fmt e.toInt r (16 * q) 16,
           changed := false, mode := true, q := q, sfmt := f.fmt, eb := e, et := et, book := book } ∧ frame) ∧
     (c.instr = .tdrop f →
       t.tl.rtb (2 * cl + opIdx f.d) = { s.tl.rtb (2 * cl + opIdx f.d) with drop := true, ents := 0 } ∧ frame) ∧
     (c.instr = .azero f →
       t.tl.ra (4 * cl + opIdx f.d) = { c := 0, stage := 0, sexp := 0x80, sovf := false, pois := 0 } ∧
         { t with tiles := s.tiles } = s ∧ { t.tl with a := s.tl.a } = s.tl ∧
         ∀ j, j ≠ 4 * cl + opIdx f.d → t.tl.ra j = s.tl.ra j))

/-- R145, R156 to R161, R163, R165, R166. Lookups, results and checksums of an unpaired strand with a claim pass their
checks at issue, on a table that is held or can be rebuilt, with codes in range and one stage exponent, and enter
the table queue; when the engine starts them they add to the stage, flush it, write an element or leave the
predictions, residues and flags. -/
def Obligations.LookupsAddToTheStage : Prop :=
  (∀ (f : Fields) (s s1 : State) (cl : Nat) (x y z : Word × Bool), s.st.claimNow = some cl → s.st.tq.length < 2 →
     let b := s.tl.rtb (2 * cl + opIdx f.a)
     let m := s.tl.rm (8 * cl + opIdx f.b)
     let k := bitsN m.blk.toNat 0 3 + 1
     let mask := predMask f s.st
     let usable := b.drop = false ∨ s.st.sourceDue cl b = false ∧ s.tl.sourceSame b = true
     let oneExp := (s.tl.ra (4 * cl + opIdx f.d)).sexp = 0x80 ∨ (s.tl.ra (4 * cl + opIdx f.d)).sexp = b.et
     (s.issues (.tlook f) → b.tag = 10 → m.tag = 8 → s.rdSrc f.c = .ok (z, s1) →
       codeBad m 8 mask.getLsbD 0 64 (2 ^ k - 1) = false → usable → oneExp →
       s.completes (.tlook f) (Rules.tqueued s1 { instr := .tlook f, z := z, mask := mask })) ∧
     (s.issues (.tlookc f) → b.tag = 9 → m.tag = 9 →
       codeBad m 9 mask.getLsbD (16 * b.q) 16 (min (bitsN m.blk.toNat 0 4) b.blk.toNat) = false →
       usable → oneExp →
       s.completes (.tlookc f) (Rules.tqueued s { instr := .tlookc f, mask := mask })) ∧
     (s.issues (.aflush f) → Rules.tagOk f 3 (s.st.vsrc f.a) →
       s.completes (.aflush f) (Rules.tqueued s { instr := .aflush f, v1 := (s.st.vsrc f.a).x })) ∧
     (s.issues (.aput f) → s.rd2 f.a f.b = .ok (x, y, s1) → y.2 = false →
       s.completes (.aput f) (Rules.tqueued s1 { instr := .aput f, x := x, y := y })) ∧
     (s.issues (.mchk f) → b.tag = 10 → m.tag = 8 → (s.st.rv (opIdx f.d)).tag = 3 → s.rdSrc f.c = .ok (z, s1) →
       codeBad m 8 (fun _ => true) 0 64 (2 ^ k - 1) = false → usable →
       s.completes (.mchk f) (Rules.tqueued s1 { instr := .mchk f, z := z, v1 := s.st.rv (opIdx f.d) })) ∧
     (s.issues (.achk f) →
       (f.ef = true ∨ (s.st.rv (opIdx f.b)).tag = 2 ∧ (s.st.rv (opIdx f.b + 1)).tag = 2) →
       s.rdSrc f.c = .ok (z, s1) →
       s.completes (.achk f) (Rules.tqueued s1
         { instr := .achk f, z := z, v1 := s.st.rv (opIdx f.b), v2 := s.st.rv (opIdx f.b + 1) }))) ∧
  (∀ (f : Fields) (s : State) (c : TCmd) (cl : Nat), s.st.claim = some cl →
     let jb := 2 * cl + opIdx f.a
     let ja := 4 * cl + opIdx f.d
     let m := s.tl.rm (8 * cl + opIdx f.b)
     let a := s.tl.ra ja
     let b := s.tl.tableFor jb
     let t := s.runT c
     let new := t.tl.ra ja
     let adds := fun (x : Nat → Nat → Int) (p : Nat → Nat → Bool) =>
       new.sexp = b.et ∧ new.c = a.c ∧
       (∀ r n, r < 16 → n < 64 → c.mask.getLsbD n = true → -(2 ^ 47 : Nat) ≤ a.stAt r n + x r n →
         a.stAt r n + x r n < (2 ^ 47 : Nat) →
         new.stAt r n = a.stAt r n + x r n ∧ new.poisAt r n = (a.poisAt r n || p r n)) ∧
       (∀ r n, r < 16 → n < 64 → c.mask.getLsbD n = false →
         new.stAt r n = a.stAt r n ∧ new.poisAt r n = a.poisAt r n) ∧
       (∀ r n, r < 16 → n < 64 → c.mask.getLsbD n = true → (2 ^ 47 : Nat) ≤ a.stAt r n + x r n →
         new.stAt r n = (2 ^ 47 : Nat) - 1 ∧ new.sovf = true) ∧
       (∀ r n, r < 16 → n < 64 → c.mask.getLsbD n = true → a.stAt r n + x r n < -(2 ^ 47 : Nat) →
         new.stAt r n = -(2 ^ 47 : Nat) ∧ new.sovf = true)
     (c.instr = .tlook f →
       adds (planeSum b m (bitsN m.blk.toNat 0 3 + 1) (bitsN c.z.1.toNat 0 8))
         fun r n => b.pois.getLsbD r || c.z.2 || codePois m 8 0 64 n) ∧
     (c.instr = .tlookc f →
       adds (bookSum b m) fun r n => b.pois.getLsbD r || codePois m 9 (16 * b.q) 16 n) ∧
     (c.instr = .aflush f → flipArmed s.tl.errinj ja = false →
       new.stage = 0 ∧ new.sexp = 0x80 ∧ new.sovf = a.sovf ∧ t.mem = s.mem ∧
       ∀ r n, r < 16 → n < 64 →
         new.cAt r n = flushEl (a.cAt r n) (a.stAt r n) (blkInt a.sexp) (c.v1.elem 16 n) % 2 ^ 32 ∧
         new.poisAt r n = (a.poisAt r n || c.v1.pois.getLsbD (n / 2))) ∧
     (c.instr = .aput f →
       let r0 := bitsN c.y.1.toNat 6 4
       let n0 := bitsN c.y.1.toNat 0 6
       new.cAt r0 n0 = c.x.1.toNat % 2 ^ 32 ∧ new.poisAt r0 n0 = c.x.2 ∧ new.stage = a.stage ∧
       new.sexp = a.sexp ∧ new.sovf = a.sovf ∧
       ∀ r n, r < 16 → n < 64 → (r ≠ r0 ∨ n ≠ n0) →
         new.cAt r n = a.cAt r n ∧ new.poisAt r n = a.poisAt r n) ∧
     (let zp : Int := (bitsN c.z.1.toNat 0 8 : Nat)
      let w := fun k n => ((m.el 8 k n : Nat) : Int) - zp
      let sB := fun n => bfUnits (c.v1.elem 16 n)
      let total := fun g : Nat → Int => sumI ((List.range 64).map g)
      c.instr = .mchk f →
        let v0 := t.st.rv (opIdx f.d)
        let v1 := t.st.rv (opIdx f.d + 1)
        v0.tag = 2 ∧ v1.tag = 2 ∧ v0.blk = 0x80 ∧ v1.blk = 0x80 ∧
        (∀ n, n < 64 → (sB n).2 = true → v0.lane n = sumRound (total (fun k =>
          sumI ((List.range 16).map fun r => b.mantAt r k) * w k n) * (sB n).1) b.et % 2 ^ 32) ∧
        (∀ r, r < 16 → (∀ n, n < 64 → (sB n).2 = true) → v1.lane r = sumRound (total (fun k =>
          b.mantAt r k * total (fun n => w k n * (sB n).1))) b.et % 2 ^ 32)) ∧
     (let aa := s.tl.ra (4 * cl + opIdx f.a)
      let tol := fp32.val (c.z.1.toNat % 2 ^ 32)
      let line := fun (xs : List Nat) (p : Nat) =>
        chkLine ((xs.map fp32.val).foldl (FVal.add false) (.fin true 0 1)) (fp32.val p) tol
      let col := fun n => line ((List.range 16).map fun r => aa.cAt r n) (c.v1.lane n)
      let row := fun r => line ((List.range 64).map fun n => aa.cAt r n) (c.v2.lane r)
      c.instr = .achk f → opIdx f.d ≠ 0 →
        let v0 := t.st.rv (opIdx f.b)
        let v1 := t.st.rv (opIdx f.b + 1)
        let k0 := t.st.rk (opIdx f.d)
        let k1 := t.st.rk (opIdx f.d + 1)
        v0.tag = 2 ∧ v1.tag = 2 ∧
        (∀ n, n < 64 → v0.lane n = (col n).1 % 2 ^ 32) ∧ (∀ r, r < 16 → v1.lane r = (row r).1 % 2 ^ 32) ∧
        (c.z.2 = true → k0 = 0 ∧ k1 = 0 ∧ t.st.psn = true) ∧
        (c.z.2 = false → ∀ n, n < 64 → (c.v1.pois.getLsbD n = false) →
          (∀ r, r < 16 → aa.poisAt r n = false) → k0.getLsbD n = (col n).2) ∧
        (c.z.2 = false → ∀ r, r < 16 → (c.v2.pois.getLsbD r = false) →
          (∀ n, n < 64 → aa.poisAt r n = false) → k1.getLsbD r = (row r).2)))

/-- The magnitude p/q of a code of a floating format (R23, R26). -/
def Sys2Proof.Rules.mag (f : FFmt) (c : Nat) : Nat × Nat :=
  match f.mag false c with
  | .fin _ p q => (p, q)
  | _ => (0, 1)

/-- The distance of n/d from p/q, times d q. -/
def Sys2Proof.Rules.gap (n d : Nat) (v : Nat × Nat) : Nat := ((n * v.2 : Nat) - (v.1 * d : Nat) : Int).natAbs

/-- R28, R29: how ±n/d rounds to a format. Up to the greatest finite magnitude the result is the nearest code (of two
equally near the even one), the next one toward zero or away from it, or under SR one of the two neighbours; above it,
the greatest magnitude or the overflow code, as the grid beyond it and the mode say. Only SR draws from RNGS. -/
def Sys2Proof.Rules.rounds (f : FFmt) (s : Bool) (n d : Nat) (md : Rm) (sat : Bool) (g : BitVec 32) : Prop :=
  let v := Rules.mag f
  let le := fun c => (v c).1 * d ≤ n * (v c).2
  let ge := fun c => n * (v c).2 ≤ (v c).1 * d
  let last := fun c => c ≤ f.maxCode ∧ le c ∧ ∀ x, x ≤ f.maxCode → le x → x ≤ c
  let inward := md = .rtz ∨ (md = .rdn ∧ s = false) ∨ (md = .rup ∧ s = true)
  let outward := (md = .rup ∧ s = false) ∨ (md = .rdn ∧ s = true)
  let r := roundF (.fin s n d) f md sat g
  r.2 = (if md = .sr then lfsrNext g else g) ∧
  (ge f.maxCode → ∃ c, c ≤ f.maxCode ∧ r.1 = f.signed s c ∧
    (md = .rne → ∀ x, x ≤ f.maxCode →
      Rules.gap n d (v c) * (v x).2 ≤ Rules.gap n d (v x) * (v c).2 ∧
      (Rules.gap n d (v c) * (v x).2 = Rules.gap n d (v x) * (v c).2 → x ≠ c → c % 2 = 0)) ∧
    (inward → last c) ∧ (outward → ge c ∧ ∀ x, x ≤ f.maxCode → ge x → c ≤ x) ∧
    (md = .sr → ∃ lo, last lo ∧ (c = lo ∨ (c = lo + 1 ∧ ¬ ge lo)))) ∧
  (¬ ge f.maxCode →
    let p := (v f.maxCode).1 / (v f.maxCode).2
    let half := (3 * p - (v (f.maxCode - 1)).1 / (v (f.maxCode - 1)).2) * d
    (sat = true ∨ inward → r.1 = f.signed s f.maxCode) ∧
    (sat = false → outward → r.1 = f.top s) ∧
    (sat = false → md = .rne ∨ md = .sr →
      (2 * n < half ∨ (2 * n = half ∧ f.maxCode % 2 = 0) → r.1 = f.signed s f.maxCode) ∧
      (half < 2 * n ∨ (2 * n = half ∧ f.maxCode % 2 = 1) → r.1 = f.top s)))

/-- R25, R28, R29, R35, R43, R153, R157. Rounding gives the code that its mode names of the codes beside the exact
value, in every floating format, in LN6 (to nearest) and in the halving of wire blocks; a NaN gives the canonical NaN.
The purpose of a plane table: for codes in range, what a lookup in the table of a register adds for row r and column n
is the dot product of the row's mantissas with the column's codes less the zero point. -/
def Obligations.RoundingsAndPlaneLookupsFollowTheReals : Prop :=
  (∀ (f : FFmt) (s : Bool) (n d : Nat) (md : Rm) (sat : Bool) (g : BitVec 32),
     f ∈ [fp32, fp16, bf16, e4m3, e5m2] →
     (0 < n → 0 < d → Rules.rounds f s n d md sat g) ∧ (roundF (.fin s 0 d) f md sat g).1 = f.signed s 0 ∧
       (roundF .nan f md sat g).1 = f.nan) ∧
  (∀ (x : FVal) (blk : Int) (s : Bool) (n d : Nat) (g : BitVec 32), x.scale (-blk) = .fin s n d → 0 < n → 0 < d →
     ∃ l, l ≤ 31 ∧ linToLn x blk .rne g = (if l = 0 then 0 else b2n s * 32 + l, g) ∧
       ∀ j, j ≤ 31 → Rules.gap n d (linVal19 l, 2 ^ 19) ≤ Rules.gap n d (linVal19 j, 2 ^ 19) ∧
         (Rules.gap n d (linVal19 l, 2 ^ 19) = Rules.gap n d (linVal19 j, 2 ^ 19) → j ≠ l → l % 2 = 0)) ∧
  (∀ (n d : Nat), 0 < d → 2 * Rules.gap n d (rneN n d, 1) ≤ d ∧
     (2 * Rules.gap n d (rneN n d, 1) = d → rneN n d % 2 = 0)) ∧
  (∀ (x m : MReg) (fmt : BitVec 4) (e : Int) (b : TbReg) (k zp r n : Nat),
     r < 16 → n < 64 → k ≤ 8 → b.ents = entImage (planeEnt x fmt e) →
     (∀ c, c < 64 → m.el 8 c n < 2 ^ k) →
     planeSum b m k zp r n =
       sumI ((List.range 64).map fun c => x.mant fmt e r c * ((m.el 8 c n : Int) - zp)))

/-! ### Strands, barriers and atomics (R171 to R183, R198 to R213, R351, R353) -/

/-- A suspension point may be taken: no open packet, `g1` to `g5` written (R85, R176, R48). -/
def Sys2Proof.Rules.mayStop (s : State) : Prop :=
  s.st.pkt = none ∧ ∀ p ∈ s.st.pendingRegs, ¬ (isG p.1 = true ∧ 1 ≤ opIdx p.1 ∧ opIdx p.1 ≤ 5)

/-- What a suspension leaves (R57, R58, R121, R174, R176): a record with its wait descriptor and the PC to resume at;
the region closed; `g1` to `g5`, the work identifier, privilege and trap registers as they were. With no vector command
queued the strand is out of its slot at once, its queues and pending drains empty, its lanes released; else it waits
in its slot for those commands with its lanes. -/
def Sys2Proof.Rules.suspended (s t : State) (kind scp swa : Nat) (gen : BitVec 32) (pc : Word) : Prop :=
  t.st.kind = kind ∧ t.st.scp = scp ∧ t.st.swa = swa ∧ t.st.gen = gen ∧ t.st.pc = pc ∧
    t.st.region = none ∧
    (s.st.vq = 0 → t.st.slot = none ∧ t.st.lq = [] ∧ t.st.sq = [] ∧ t.st.drains = [] ∧ t.st.vl = 0) ∧
    (s.st.vq ≠ 0 → t.st.slot = s.st.slot ∧ t.st.leaving = true ∧ t.st.vl = s.st.vl ∧ t.st.vq = s.st.vq) ∧
    (∀ n, t.st.rg n = s.st.rg n ∧ t.st.rgp n = s.st.rgp n) ∧ t.st.wid = s.st.wid ∧ t.st.widw = s.st.widw ∧
    t.st.sup = s.st.sup ∧ t.st.epc = s.st.epc ∧ t.st.ecause = s.st.ecause ∧ t.st.claim = s.st.claim ∧
    t.st.abortPc = s.st.abortPc

/-- R57, R58, R121, R176, R180 to R183. `exit` ends the strand: out of its slot, its lanes released, an arrival at
every level from then on, its record freed once the commands it queued have completed; `wait` goes on where the
generation is reached and no vector command is queued, and suspends with KIND 3 where it is not reached;
`yield` suspends with KIND 1; `wid` reads the work identifier. Every suspension, for whatever reason, keeps the
registers of the record and no queue, region or lane. Read as log 49 and log 51 say. -/
def Obligations.StrandInstructionsEndOrSuspend : Prop :=
  (∀ (s : State) (kind scp swa : Nat) (gen : BitVec 32) (pc : Word),
     Rules.suspended s (s.suspendAt s.cur s.curRec kind scp swa gen pc) kind scp swa gen pc ∧
       (∀ n, n ≠ s.cur → (s.suspendAt s.cur s.curRec kind scp swa gen pc).tileAt n = s.tileAt n) ∧
       Rules.memKept s (s.suspendAt s.cur s.curRec kind scp swa gen pc)
         (s.cur * 2 ^ 20 + (0xff000 + 64 * s.curRec)) 64) ∧
  (∀ (f : Fields) (s s1 : State) (x y : Word × Bool),
     (s.runs (.exit f) f → s.st.pkt = none → s.st.vq = 0 →
       (s.st.xq ≠ [] ∨ s.tl.drained s.curRec = false ∨
         s.st.mreq = none ∧ ∃ c rest, s.st.tq = c :: rest ∧ c.onClaim = false) →
       ∃ s2 : State, s2.st.exiting = true ∧ s2.st.slot = none ∧ s2.st.vl = 0 ∧ s2.st.lq = [] ∧
         s2.st.mreq = none ∧ s2.st.region = none ∧ (∀ l, s2.st.arrived l = true) ∧ s2.mem = s.mem ∧
         s.completes (.exit f) s2) ∧
     (s.runs (.exit f) f → s.st.pkt = none → s.st.vq = 0 → s.tl.quiet s.curRec = true →
       ∃ s2 : State, s2.tl.strands.val? s.curRec = none ∧ s.completes (.exit f) s2) ∧
     (s.runs (.wait f) f → s.rd2 f.a f.b = .ok (x, y, s1) → x.2 = false → y.2 = false →
       s1.rangeBad x.1.toNat 16 = false → x.1.toNat % 16 = 0 → Rules.mayStop s1 →
       s1.waitsAt true false [(x.1.toNat, 16)] = .ok () →
       let gen := BitVec.ofNat 32 (rdNat s1.mem (s1.cur * 2 ^ 20 + (x.1.toNat + 8)) 4)
       let g : BitVec 32 := y.1.truncate 32
       ((gen - g).toNat < 2 ^ 31 → s1.st.vq = 0 →
         s.completes (.wait f) (s1.passPoint.wrG f.d (gen.zeroExtend 64) false)) ∧
       (2 ^ 31 ≤ (gen - g).toNat →
         ∃ s2 : State, Rules.suspended s1 s2 3 0 (x.1.toNat / 16) g s1.st.npc ∧
           s.completes (.wait f) s2)) ∧
     (s.runs (.yield f) f → Rules.mayStop s →
       ∃ s2 : State, Rules.suspended s s2 1 0 0 0 s.st.npc ∧ s2.tl.ready = s.tl.ready ++ [s.curRec] ∧
         s2.st.pri = (if f.imm.getLsbD 3 then f.imm.toNat % 8 else s.st.pri) ∧
         s.completes (.yield f) s2) ∧
     (s.runs (.wid f) f →
       (f.imm.toNat % 8 = 7 → s.completes (.wid f) (s.wrG f.d s.st.wid false)) ∧
       (∀ i, i < 6 → f.imm.toNat % 8 = i → s.completes (.wid f)
         (s.wrG f.d (BitVec.ofNat 64 (bitsN s.st.wid.toNat
           ((List.range i).map fun j => bitsN s.st.widw.toNat (7 * j) 7).sum
           (bitsN s.st.widw.toNat (7 * i) 7))) false))))

/-- R179. `spawn` with a free record creates a runnable strand in the lowest one: its PC is the target, its
work identifier the spawner's with field 0 replaced, its `g1` to `g5` the spawner's; D is the record. With
no record free D reads all ones. -/
def Obligations.SpawnCreatesARunnableStrand : Prop :=
  ∀ (f : Fields) (s s1 : State) (x y : Word × Bool) (line : Nat),
    s.runs (.spawn f) f → s.rd2 f.a f.b = .ok (x, y, s1) → x.2 = false → y.2 = false → line < 2048 →
    (line : Int) = (pcLine s.st.upc : Int) + sextN 29 (f.imm.toNat / 8) →
    s1.targetBad s1.cur (mkPc line (f.imm.toNat % 8)) = false →
    x.1.toNat < 2 ^ bitsN s.st.widw.toNat 0 7 →
    (s1.tl.freeRecord = none →
      s.completes (.spawn f) (s1.wrG f.d (BitVec.allOnes 64) false)) ∧
    (∀ i, s1.tl.freeRecord = some i → i ≠ s.curRec →
      ∃ s2 : State, s2.tl.ready = s1.tl.ready ++ [i] ∧
        (isG f.d = true → opIdx f.d ≠ 0 → s2.st.rg (opIdx f.d) = BitVec.ofNat 64 i) ∧
        (let c := s2.strandAt s.cur i
         c.kind = 1 ∧ c.slot = none ∧ c.pc = mkPc line (f.imm.toNat % 8) ∧ c.pri = y.1.toNat % 8 ∧
          c.wid = setBits s.st.wid 0 (bitsN s.st.widw.toNat 0 7) x.1.toNat ∧ c.widw = s.st.widw ∧
          c.sup = s.st.sup ∧ c.abortPc = s.st.abortPc ∧
          (∀ n, 1 ≤ n → n ≤ 5 → c.rg n = s.st.rg n ∧ c.rgp n = s.st.rgp n) ∧
          c.rngs = rngsFix (c.wid.truncate 32 ^^^ 0xace12b57)) ∧
        s.completes (.spawn f) s2)

/-- R198, R200, R203, R206, R210, R351, R353, R354. `sync` brings its value and code to the barriers of levels 1 to
SCP and suspends with KIND 4, its abort PC set; `ssr` reads the superstep count, the abort record or the domain state.
`region` opens a region at the next slot with RNGS and the open packet's size, `region.close` closes it; `pair` gives
D 1 where the partner slot is taken, 2 in a paired slot, else makes the slot a leader, with D 0, whose follower has
its registers with their poison; `unpair` of an unpaired slot gives 0, of a pair whose follower has come as far and
whose fingerprints agree the fingerprint, and the pair ends. -/
def Obligations.BarriersRegionsAndPairsTakeEffect : Prop :=
  (∀ (f : Fields) (s s1 : State) (x y : Word × Bool),
     (∀ op, s.runs (.sync op f) f → Rules.mayStop s →
       (f.c.getLsbD 6 = true ∨ s.targetBad s.cur (s.sTarget f.imm) = false) →
       s.rd2 f.a f.b = .ok (x, y, s1) →
       ∃ s2 : State, Rules.suspended
           (s1.modSt fun st => { st with abortPc := if f.c.getLsbD 6 then s.st.npc else s.sTarget f.imm }) s2
           4 f.scp.toNat 0 (s1.tl.ssc.val 0 f.scp.toNat) s.st.npc ∧
         s2.st.abortPc = (if f.c.getLsbD 6 then s.st.npc else s.sTarget f.imm) ∧
         s2.st.arrival = some
           { scp := f.scp.toNat, op := op, fmt := f.fmt, f32 := f.c.getLsbD 7, x := x.1, px := x.2,
             val := true, code := if y.2 then 0x40 else y.1.truncate 8, d := f.d } ∧
         (∀ l, 1 ≤ l → l ≤ f.scp.toNat → s2.st.arrived l = true) ∧
         (∀ l d, (s2.domAt l d).ssn = (s.domAt l d).ssn) ∧ s.completes (.sync op f) s2) ∧
     (s.runs (.ssr f) f →
       s.completes (.ssr f) (s.wrG f.d
         (if f.scp.toNat = 0 then 0
           else match f.imm.toNat % 4 with
             | 0 => (s.tl.ssc.val 0 f.scp.toNat).zeroExtend 64
             | 1 => s.tl.arec.val 0 f.scp.toNat
             | _ =>
               let l := f.scp.toNat
               let n := s.domOf l s.cur
               { s.domAt l n with trun := (s.domAt l n).trun && !s.preempted l n }.word) false))) ∧
  (∀ (f : Fields) (s : State),
     (s.runs (.region f) f → ∀ r : Region, r.entry = s.st.npc → r.rngs = s.st.rngs →
       r.pkt = ((s.st.pkt.map fun p => p.words.length / 8).getD 0) → r.count = 0 → r.mism = false →
       r.restart = none →
       s.completes (.region f) (s.modSt fun st => { st with region := some r })) ∧
     (s.runs (.regionClose f) f →
       s.completes (.regionClose f) (s.modSt fun st => { st with region := none })) ∧
     (let mate := if s.st.slot.getD 0 % 2 = 0 then s.st.slot.getD 0 + 1 else s.st.slot.getD 0 - 1
      s.runs (.pair f) f →
       (s.tl.slotUsed mate = true → s.completes (.pair f) (s.wrG f.d 1 false)) ∧
       (s.tl.slotUsed mate = false → s.curRec < 64 → ∃ s2 : State, s2.st.partner = some (64 + mate) ∧
         s2.st.folw = false ∧ s2.st.mis = false ∧
         (let q := s2.strandAt s.cur (64 + mate)
          q.slot = some mate ∧ q.partner = some s.curRec ∧ q.folw = true ∧ q.pc = s.st.npc ∧
           (∀ n, q.rg n = s2.st.rg n ∧ q.rgp n = s2.st.rgp n ∧ q.rv n = s2.st.rv n ∧ q.rk n = s2.st.rk n ∧
             q.rh n = s2.st.rh n) ∧
           q.rngs = s.st.rngs ∧ q.vl = s.st.vl ∧ q.claim = s.st.claim ∧
           q.crc = 0xffffffff ∧ s2.st.crc = 0xffffffff ∧ q.retired = 0 ∧ s2.st.retired = 0) ∧
         (isG f.d = true → opIdx f.d ≠ 0 → s2.st.rg (opIdx f.d) = 0 ∧ s2.st.rgp (opIdx f.d) = false) ∧
         (∀ n, n ≠ opIdx f.d → s2.st.rg n = s.st.rg n ∧ s2.st.rgp n = s.st.rgp n) ∧ s2.mem = s.mem ∧
         s.completes (.pair f) s2)) ∧
     (s.runs (.unpair f) f → s.completes (.unpair f) (s.wrG f.d 0 false))) ∧
  (∀ (f : Fields) (s : State) (i : Instr) (p : Nat), i ∈ [Instr.pair f, .unpair f] → s.running = true →
     wellFormed i = true → s.st.awaits i = none → s.injectReg i = s → predOn f s.st = true → pcForm s.st.npc = true →
     s.st.partner = some p → p ≠ s.curRec → s.st.folw = false → s.st.retired < 1024 →
     isG f.d = true → opIdx f.d ≠ 0 →
     (i = .pair f → ∃ (t : State) (w : Fwd), exec i s = .next t ∧ t.st.rg (opIdx f.d) = 2 ∧
       t.st.rgp (opIdx f.d) = false ∧ t.st.partner = some p ∧
       (t.strandAt s.cur p).fwd = (s.strandAt s.cur p).fwd ++ [w] ∧ (opIdx f.d, 2, false) ∈ w.g ∧ t.mem = s.mem) ∧
     (i = .unpair f → s.followerHere s.cur s.curRec = false →
       ∃ t, exec i s = .next t ∧ t.ended = .stalled ∧ t.st.partner = some p) ∧
     (i = .unpair f → s.followerHere s.cur s.curRec = true → (s.strandAt s.cur p).crc = s.st.crc →
       ∃ t, exec i s = .next t ∧ t.st.rg (opIdx f.d) = s.st.crc.zeroExtend 64 ∧
         t.st.rgp (opIdx f.d) = false ∧ t.st.partner = none ∧ (t.tileAt s.cur).strands.val? p = none ∧
         (∀ n, n ≠ opIdx f.d → t.st.rg n = s.st.rg n ∧ t.st.rgp n = s.st.rgp n) ∧ t.mem = s.mem))

/-- R212, R213. A local atomic reads w/8 bytes, writes them back with its operation applied and gives the
old value to D; a failed compare-and-swap writes nothing. `facc` adds an FP32 value exactly into a cell of
32 bytes, `fcrd` reads one and may clear it. -/
def Obligations.AtomicsReadModifyWrite : Prop :=
  ∀ (f : Fields) (s s1 s2 : State) (x y z d : Word × Bool),
    (∀ op, s.runs (.amo op f) f → s.rd3 f.a f.b f.c = .ok (x, y, z, s1) → x.2 = false → y.2 = false →
      z.2 = false →
      let w := fmtW f.fmt
      let n := w / 8
      let ea := (x.1 + y.1 * BitVec.ofNat 64 n + f.imm.signExtend 64).toNat
      s1.rangeBad ea n = false → ea % n = 0 → s1.localWait ea n = .ok () → s1.tl.flips = [] →
      s1.ldPois s1.cur ea n = false →
      (op = .cas → isG f.d = true → s1.st.rgp (opIdx f.d) = false) →
      let old := rdNat s1.mem (s1.cur * 2 ^ 20 + ea) n
      let v := z.1.toNat % 2 ^ w
      let res : Option Nat := match op with
        | .add => some ((old + v) % 2 ^ w)
        | .and => some (old &&& v)
        | .or => some (old ||| v)
        | .xor => some (old ^^^ v)
        | .min => some (if sextN w old ≤ sextN w v then old else v)
        | .max => some (if sextN w v ≤ sextN w old then old else v)
        | .minu => some (if old ≤ v then old else v)
        | .maxu => some (if v ≤ old then old else v)
        | .swap => some v
        | .cas => if old = (if isG f.d then (s1.st.rg (opIdx f.d)).toNat % 2 ^ w else 0) then some v else none
      s.completes (.amo op f) ((match res with
        | some r => s1.putLocal ea (natToBytes n r) false
        | none => s1).wrG f.d (extendTo f.fmt old) false)) ∧
    (let ea := (x.1 + y.1 * 32 + f.imm.signExtend 64).toNat
     s.runs (.facc f) f → s.rd2 f.a f.b = .ok (x, y, s1) → s1.rd1 f.d = .ok (d, s2) →
      x.2 = false → y.2 = false → d.2 = false → s2.rangeBad ea 32 = false → ea % 32 = 0 →
      s2.localWait ea 32 = .ok () → s2.tl.flips = [] → s2.ldPois s2.cur ea 32 = false →
      let c := rdNat s2.mem (s2.cur * 2 ^ 20 + ea) 32
      let r := fixAdd (BitVec.ofNat 192 c) (c.testBit 192) (d.1.toNat % 2 ^ 32)
      s.completes (.facc f) (s2.putCell ea (cellPut c r.1 r.2))) ∧
    (let ea := x.1 + y.1 * 32 + f.imm.signExtend 64
     s.runs (.fcrd f) f → s.rd2 f.a f.b = .ok (x, y, s1) →
      s1.localCheck ea 32 32 (x.2 || y.2) = .ok () → s1.tl.flips = [] →
      let c := rdNat s1.mem (s1.cur * 2 ^ 20 + ea.toNat) 32
      let v := BitVec.ofNat 64 (fixRd (BitVec.ofNat 192 c) (c.testBit 192))
      let p := s1.ldPois s1.cur ea.toNat 32
      (f.c.getLsbD 0 = false → s.completes (.fcrd f) (s1.wrG f.d v p)) ∧
      (f.c.getLsbD 0 = true →
        s.completes (.fcrd f) ((s1.putCell ea.toNat (cellPut c 0 false)).wrG f.d v p)))

/-! ### Exchange commands at issue (R232 to R247, R254, R255) -/

/-- R242 to R247: what each command of format X captures for the values a, b, c of its fields A, B and C, with the
local ranges and the alignments it is checked for (`xld` without `.lq`). -/
def Sys2Proof.Rules.xPlans (f : Fields) (a b c : Word) : List (Instr × XPlan) :=
  let len := bitsN c.toNat 0 32
  let n := 8 * 2 ^ f.fmt.toNat
  let rsw := if f.imm.getLsbD 0 then some (16 * bitsN f.imm.toNat 4 16) else none
  let block := fun (k : Nat) (size : Nat) =>
    ({ cmd := { kind := .xop k, dst := xAddr f.a a c, src := .loc b.toNat, len := size },
       bad := offBad f c, ranges := [(b.toNat, 128)],
       aligns := [(xAlignOf f.a a c, size), (b.toNat, 128)] } : XPlan)
  [ (.xget f, { cmd := { kind := .get, dst := .loc a.toNat, src := xAddr f.b b c, len := len,
                         arg := bitsN c.toNat 32 32 },
                bad := lenBad f c, ranges := [(a.toNat, len)] }),
    (.xput f, { cmd := { kind := .put, dst := xAddr f.a a c, src := .loc b.toNat, len := len,
                         arg := bitsN c.toNat 32 32, rsw := rsw },
                bad := lenBad f c,
                ranges := [if f.gen then ((b - 8).toNat, len + 8) else (b.toNat, len)] }),
    (.xcpy f, { cmd := { kind := .cpy, dst := xAddr f.a a c, src := xAddr f.b b c, len := len,
                         arg := bitsN c.toNat 32 32, rsw := rsw },
                bad := lenBad f c }),
    (.xmc f, { cmd := { kind := .mc, dst := .loc a.toNat, src := xAddr f.b b c, len := len,
                        arg := bitsN f.imm.toNat 26 6, rsw := rsw },
               bad := lenBad f c, ranges := [(a.toNat, len)] }),
    (.xst f, { cmd := { kind := .st, dst := xAddr f.a a c, src := .loc b.toNat, len := n, rsw := rsw },
               bad := offBad f c, ranges := [(b.toNat, n)],
               aligns := [(xAlignOf f.a a c, n), (b.toNat, n)] }),
    (.xopAdd f, block 0 8), (.xopFadd f, block 1 32), (.xopCas1 f, block 2 8),
    (.xopCas2 f, block 3 16), (.xopCas4 f, block 4 32), (.xopEnq f, block 5 32),
    (.xopChase f, block 6 8) ]

/-- A command has entered the exchange queue of the issuing strand: the youngest there, numbered next, with its place
in the strand's program order and nothing else of the strand changed. -/
def Sys2Proof.Rules.enqueued (s t : State) (c : XCmd) : Prop :=
  t.st.xq = s.st.xq ++ [c] ∧ c.no = s.tl.xnext ∧ c.ri = s.curRec ∧ t.tl.xnext = s.tl.xnext + 1 ∧
    c.pos = s.st.pos ∧ { t.st with xq := s.st.xq, pos := s.st.pos } = s.st ∧ t.mem = s.mem ∧
    ∀ n, n ≠ s.cur → t.tileAt n = s.tileAt n

/-- R235 to R237, R242 to R247. A command of format X that passes its checks with room in the queue enters it with
what it captures at issue: kind, addresses, length, sync words, scope and flags. `xld.lq` also takes a place in
its load queue. A command raises, in this order, the open-packet trap, the poison trap, the exchange-operand
trap, the local-range trap and the alignment trap; with its queue full and queue stops off it waits in its slot.
Read as log 35 says. -/
def Obligations.ExchangeCommandsAreCapturedOrTrap : Prop :=
  (∀ (f : Fields) (s s1 s2 s3 : State) (a b c : Word × Bool),
     s.rdX f.a = .ok (a, s1) → s1.rdX f.b = .ok (b, s2) → s2.rdX f.c = .ok (c, s3) →
     s.st.pkt = none → s.st.rgp (opIdx f.d) = false → a.2 = false → b.2 = false → c.2 = false →
     (isH f.a = true → a.1.getLsbD 63 = true) → (isH f.b = true → b.1.getLsbD 63 = true) →
     s3.st.xq.length < 2 →
     let d := s.st.rg (opIdx f.d)
     let sw := if f.d = 0 then none else some d.toNat
     (∀ x, sw = some x → s3.rangeBad x 16 1 = false ∧ x % 16 = 0) →
     (∀ i p, (i, p) ∈ Rules.xPlans f a.1 b.1 c.1 → s.runs i f → p.bad = false →
       (∀ r ∈ p.ranges, s3.rangeBad r.1 r.2 1 = false) → (∀ r ∈ p.aligns, r.1 % r.2 = 0) →
       ∃ (t : State) (cmd : XCmd), Rules.enqueued s3 t cmd ∧ cmd.kind = p.cmd.kind ∧
         cmd.dst = xCapture s.st p.cmd.dst ∧ cmd.src = xCapture s.st p.cmd.src ∧ cmd.len = p.cmd.len ∧
         cmd.arg = p.cmd.arg ∧ cmd.sw = sw ∧ cmd.rsw = p.cmd.rsw ∧ cmd.scp = f.scp.toNat ∧
         cmd.acq = f.acq ∧ cmd.rel = f.rel ∧ cmd.gen = f.gen ∧ s.completes i t) ∧
     (let n := 8 * 2 ^ f.fmt.toNat
      s.runs (.xld f) f → offBad f c.1 = false → xAlignOf f.b b.1 c.1 % n = 0 →
       (f.lq = false → s3.rangeBad a.1.toNat n 1 = false → a.1.toNat % n = 0 →
         ∃ (t : State) (cmd : XCmd), Rules.enqueued s3 t cmd ∧ cmd.kind = .ld ∧ cmd.dst = .loc a.1.toNat ∧
           cmd.src = xCapture s.st (xAddr f.b b.1 c.1) ∧ cmd.len = n ∧ cmd.sw = sw ∧ s.completes (.xld f) t) ∧
       (f.lq = true → (s3.st.lqOf (f.imm.toNat % 4)).length ≤ s3.st.dep.val 3 (f.imm.toNat % 4) →
         ∃ (t : State) (cmd : XCmd), t.st.xq = s3.st.xq ++ [cmd] ∧ cmd.kind = .ldlq ∧
           cmd.src = xCapture s.st (xAddr f.b b.1 c.1) ∧ cmd.len = n ∧ cmd.arg = f.imm.toNat % 4 ∧
           t.st.lqOf (f.imm.toNat % 4) = s3.st.lqOf (f.imm.toNat % 4) ++ [.land s.tl.xnext] ∧
           s.completes (.xld f) t))) ∧
  (∀ (f : Fields) (s s1 s2 s3 : State) (a b c : Word × Bool) (i : Instr) (p : XPlan),
     s.rdX f.a = .ok (a, s1) → s1.rdX f.b = .ok (b, s2) → s2.rdX f.c = .ok (c, s3) →
     (i, p) ∈ Rules.xPlans f a.1 b.1 c.1 → s.runs i f →
     let d := s.st.rg (opIdx f.d)
     let sw := if f.d = 0 then [] else [(d.toNat, 16)]
     let pois := s.st.rgp (opIdx f.d) || a.2 || b.2 || c.2
     let bad := p.bad || (isH f.a && !a.1.getLsbD 63) || (isH f.b && !b.1.getLsbD 63)
     (s.st.pkt.isSome = true → exec i s = .next (s.raise .openPacket 0)) ∧
     (s.st.pkt = none → pois = true → exec i s = .next (s.raise .poison 0)) ∧
     (s.st.pkt = none → pois = false → bad = true → exec i s = .next (s.raise .exchangeOperand 0)) ∧
     (s.st.pkt = none → pois = false → bad = false → (∃ r ∈ sw ++ p.ranges, s3.rangeBad r.1 r.2 1 = true) →
       exec i s = .next (s.raise .localRange 0)) ∧
     (s.st.pkt = none → pois = false → bad = false → (∀ r ∈ sw ++ p.ranges, s3.rangeBad r.1 r.2 1 = false) →
       (∃ r ∈ sw ++ p.aligns, r.1 % r.2 ≠ 0) → exec i s = .next (s.raise .alignment 0)) ∧
     (s.st.pkt = none → pois = false → bad = false → (∀ r ∈ sw ++ p.ranges, s3.rangeBad r.1 r.2 1 = false) →
       (∀ r ∈ sw ++ p.aligns, r.1 % r.2 = 0) → 2 ≤ s3.st.xq.length → s.kern.qsf = false →
       exec i s = .next (s.stallOn { idle := some 7 })))

/-- R85, R234, R245, R254, R255. `xsend` opens a packet with its first word, adds a word to an open one, and with
`.end` closes it into the exchange queue; a seventeenth word raises the open-packet trap. The sync-word and
collective commands enter the exchange queue with the word and the entry that they name. Read as log 35 says. -/
def Obligations.PacketsAndSyncWordCommandsEnterTheQueue : Prop :=
  (∀ (f : Fields) (s s1 s2 : State) (a b : Word × Bool) (p : XCmd),
     s.runs (.xsend f) f →
     let word := (natToBytes 8 b.1.toNat).map fun x => (x, b.2)
     (s.st.pkt = none → 1 ≤ f.scp.toNat → f.scp.toNat ≤ 5 →
       s.rdX f.a = .ok (a, s1) → s1.rdSrc f.b = .ok (b, s2) → s.st.rgp (opIdx f.d) = false → a.2 = false →
       (f.d ≠ 0 → s.rangeBad (s.st.rg (opIdx f.d)).toNat 16 = false ∧ (s.st.rg (opIdx f.d)).toNat % 16 = 0) →
       a.1.toNat % 128 = 0 → (b.2 = false ∨ f.c.getLsbD 0 = true) →
       (f.endf = false → ∃ (t : State) (q : XCmd), t.st.pkt = some q ∧ q.kind = .send ∧
         q.dst = .virt a.1.toNat ∧ q.words = word ∧ q.scp = f.scp.toNat ∧ t.st.xq = s.st.xq ∧ t.mem = s.mem ∧
         s.completes (.xsend f) t) ∧
       (f.endf = true → s.st.xq.length < 2 → ∃ (t : State) (q : XCmd), t.st.pkt = none ∧
         t.st.xq = s.st.xq ++ [q] ∧ q.kind = .send ∧ q.dst = .virt a.1.toNat ∧ q.words = word ∧ q.len = 8 ∧
         q.scp = f.scp.toNat ∧ t.mem = s.mem ∧ s.completes (.xsend f) t)) ∧
     (s.st.pkt = some p → f.d = 0 → f.a = 0 → f.scp = 0 → f.rnd = 0 → f.imm = 0 → s.rdSrc f.b = .ok (b, s2) →
       (128 ≤ p.words.length → exec (.xsend f) s = .next (s.raise .openPacket 0)) ∧
       (p.words.length < 128 → (b.2 = false ∨ f.c.getLsbD 0 = true) →
         (f.endf = false → s.completes (.xsend f) (s2.modSt fun st =>
           { st with pkt := some { p with words := p.words ++ word } })) ∧
         (f.endf = true → s2.st.xq.length < 2 → ∃ (t : State) (q : XCmd), t.st.pkt = none ∧
           t.st.xq = s2.st.xq ++ [q] ∧ q.kind = p.kind ∧ q.dst = p.dst ∧ q.words = p.words ++ word ∧
           q.len = p.words.length + 8 ∧ s.completes (.xsend f) t)))) ∧
  (∀ (f : Fields) (s s1 : State) (x y : Word × Bool),
     (let ea := (x.1 + y.1 * 16 + f.imm.signExtend 64).toNat
      s.rd2 f.a f.b = .ok (x, y, s1) → x.2 = false → y.2 = false → ea % 16 = 0 →
       (s.runs (.swset f) f → s.st.rgp (opIdx f.d) = false → s1.rangeBad ea 16 = false →
         s1.st.xq.length < 2 →
         ∃ (t : State) (c : XCmd), Rules.enqueued s1 t c ∧ c.kind = .swset (f.c.getLsbD 0) ∧
           c.sw = some ea ∧ c.arg = (s.st.rg (opIdx f.d)).toNat ∧ s.completes (.swset f) t) ∧
       (s.runs (.swget f) f → s1.rangeBad ea 16 = false → s1.st.xq.length < 2 →
         ∃ (t : State) (c : XCmd), Rules.enqueued s1 t c ∧ c.kind = .swget (f.c.getLsbD 0) ∧
           c.sw = some ea ∧ c.d = some f.d ∧ s.completes (.swget f) t)) ∧
     (s.st.pkt = none → s.rd1 f.a = .ok (x, s1) → x.2 = false → x.1.toNat < 2 ^ 13 →
       (s1.tt.val {} x.1.toNat).v = true → (s1.tt.val {} x.1.toNat).asid = s1.kern.asid →
       s1.st.xq.length < 2 →
       (s.runs (.ctready f) f → s1.kern.mmask.getLsbD (bitsN s1.kern.mctl.toNat 56 8) = true →
         ((s1.tt.val {} x.1.toNat).op = 3 →
           s1.kern.mmask.getLsbD (s1.tt.val {} x.1.toNat).root = true) →
         ∃ (t : State) (c : XCmd), Rules.enqueued s1 t c ∧ c.kind = .ctready ∧ c.scp = 5 ∧
           c.rel = true ∧ c.arg = x.1.toNat ∧ s.completes (.ctready f) t) ∧
       (s.runs (.ctstat f) f →
         ∃ (t : State) (c : XCmd), Rules.enqueued s1 t c ∧ c.kind = .ctstat ∧ c.arg = x.1.toNat ∧
           c.d = some f.d ∧ s.completes (.ctstat f) t)) ∧
     (s.st.pkt = none → s.runs (.ctarm f) f → s.rd2 f.a f.b = .ok (x, y, s1) → x.2 = false →
       y.2 = false → s.st.rgp (opIdx f.d) = false → x.1.toNat < 2 ^ 13 →
       (s1.tt.val {} x.1.toNat).v = true → (s1.tt.val {} x.1.toNat).asid = s1.kern.asid →
       (f.imm.getLsbD 0 = true → y.1.toNat < 2 ^ 32) →
       (f.d ≠ 0 → s.rangeBad (s.st.rg (opIdx f.d)).toNat 16 = false ∧ (s.st.rg (opIdx f.d)).toNat % 16 = 0) →
       s1.st.xq.length < 2 →
       ∃ (t : State) (c : XCmd), Rules.enqueued s1 t c ∧ c.kind = .ctarm (f.imm.getLsbD 0) ∧
         c.sw = (if f.d = 0 then none else some (s.st.rg (opIdx f.d)).toNat) ∧ c.arg = x.1.toNat ∧
         s.completes (.ctarm f) t))

/-! ### System, translation and heap instructions (R59, R287, R288, R303 to R306, R318 to R329) -/

/-- R10, R11, R59, R60, R287. `mfsr` reads the special register that IMM names, unpoisoned. `mtsr` writes it, its
read-only fields keeping their value; a tenant writes STATUS, RNGS and EPC only, any other number is the
privilege trap; a poisoned operand and a value that breaks the register's map trap. Read as log 22 says. -/
def Obligations.SpecialRegistersReadAndWrite : Prop :=
  (∀ (f : Fields) (s : State), s.runs (.mfsr f) f →
     let st := s.st
     let n := f.imm.toNat % 4096
     let reads := fun v : Word => s.completes (.mfsr f) (s.wrG f.d v false)
     (n = 0 → reads (BitVec.ofNat 64 (st.acode.toNat * 2 ^ 16 + st.slot.getD 0 % 8 * 2 ^ 13 +
       (if st.psn then 128 else 0) + (if st.region.isSome then 64 else 0) + (if st.partner.isSome then 32 else 0) +
       (if st.folw then 16 else 0) + (if st.rpt then 8 else 0) + (if st.pkt.isSome then 4 else 0) +
       (if st.sup then 2 else 0)))) ∧
     (n = 1 → reads (BitVec.ofNat 64 st.repidx)) ∧ (n = 2 → reads st.widw) ∧ (n = 3 → reads st.wid) ∧
     (n = 4 → reads (st.rngs.zeroExtend 64)) ∧ (n = 5 → reads (BitVec.ofNat 64 st.vl)) ∧
     (n = 6 → reads (match st.claim with
       | some c => BitVec.ofNat 64 (c * 2 + 1)
       | none => 0)) ∧
     (n = 7 → reads st.qst) ∧ (n = 8 → reads st.epc) ∧ (n = 9 → reads st.ecause) ∧
     (∀ l, l < 6 → n = 0x10 + l → reads ((s.tl.ssc.val 0 l).zeroExtend 64)) ∧
     (n = 0x20 → reads s.tl.parkt) ∧ (n = 0x21 → reads s.tl.errinj) ∧ (n = 0x22 → reads st.fprint) ∧
     (∀ k, k < 12 → n = 0x30 + k → reads (s.tl.idle.val 0 k))) ∧
  (∀ (f : Fields) (s s1 : State) (x : Word × Bool), s.issues (.mtsr f) →
     let n := f.imm.toNat % 4096
     let ok := fun t : State => s.completes (.mtsr f) t
     (s.st.sup = false → n ≠ 0 → n ≠ 4 → n ≠ 8 → exec (.mtsr f) s = .next (s.raise .privilege 0)) ∧
     ((s.st.sup = true ∨ n = 0 ∨ n = 4 ∨ n = 8) → predOn f s.st = true → s.rd1 f.a = .ok (x, s1) →
       (x.2 = true → exec (.mtsr f) s = .next (s.raise .poison 0)) ∧
       (x.2 = false → x.1 &&& specialReserved n ≠ 0 → exec (.mtsr f) s = .next (s.raise .reservedField 0)) ∧
       (x.2 = false → x.1 &&& specialReserved n = 0 →
         (n = 0 → ok (s1.modSt fun st => { st with psn := st.psn && !x.1.getLsbD 7 })) ∧
         (n = 4 → ok (s1.modSt fun st =>
           { st with rngs := if (x.1.truncate 32 : BitVec 32) = 0 then 1 else x.1.truncate 32 })) ∧
         (n = 8 → pcForm x.1 = true → ok (s1.modSt fun st => { st with epc := x.1, epcw := true })) ∧
         (n = 9 → ok (s1.modSt fun st => { st with ecause := x.1 })) ∧
         (n = 0x20 → ok (s1.modTl fun t => { t with parkt := x.1, parkCnt := 0 })) ∧
         (n = 0x21 → errinjBad x.1 = false → ok (s1.putErrinj s1.cur x.1)) ∧
         (∀ k, k < 12 → n = 0x30 + k → ok (s1.modTl fun t => { t with idle := t.idle.put k x.1 })) ∧
         ((n = 1 ∨ n = 2 ∨ n = 3 ∨ n = 5 ∨ n = 6 ∨ n = 7 ∨ (0x10 ≤ n ∧ n ≤ 0x15) ∨ n = 0x22) → ok s1))))

/-- R269, R276, R281, R287, R288. `svc` posts a service event, whose sequence number is its result; `park` suspends
the strand and asks for a park of the tile, which begins where fewer than two groups of the die are parking; `halt`
stops the context with STATE 4, records its code and asks for a park of every tile of the context. `klaunch` appends
the 256 bytes at Rd(A) to a kernel launch queue once the strand's commands of package scope are performed, with the
ASID of the issuer in the first doubleword, its KEYID unless the context holds the one named there, and SUP 0 unless
the issuer is a supervisor strand: D is the ticket, or all ones where the queue is full. Read as log 27 and log 28
say. -/
def Obligations.ServiceParkHaltAndLaunchTakeEffect : Prop :=
  (∀ (f : Fields) (s s1 : State) (x : Word × Bool),
     (s.runs (.svc f) f → s.rd1 f.a = .ok (x, s1) → x.2 = false →
       s.completes (.svc f) ((s1.postEvent s1.kern.asid 1 0 s1.st.wid x.1
         (BitVec.ofNat 64 (f.imm.toNat % 65536))).wrG f.d
         ((s1.ctxOf s1.kern.asid).evNext.zeroExtend 64) false)) ∧
     (s.runs (.svc f) f → s.rd1 f.a = .ok (x, s1) → x.2 = true →
       exec (.svc f) s = .next (s.raise .poison 0)) ∧
     (s.runs (.park f) f → Rules.mayStop s → s.tl.parkWhy = 0 → s.tl.parkAsk = 0 →
       ∃ t : State, Rules.suspended s t 1 0 0 0 s.st.npc ∧ max t.tl.parkAsk t.tl.parkWhy = 1 ∧
         t.tl.parkBy = true ∧ t.tl.ready = s.tl.ready ++ [s.curRec] ∧
         ((∀ p ∈ s.tiles, groupOfTile p.1 ≠ groupOfTile s.cur →
             p.2.parkAsk = 0 ∧ (p.2.parkWhy = 0 ∨ p.2.parkSt ≠ 0)) → t.tl.parkWhy = 1) ∧
         s.completes (.park f) t) ∧
     (∀ slot, s.runs (.halt f) f → s.ctxSlot s.kern.asid = some slot →
       ∃ t : State, t.st.epc = s.st.upc ∧ t.st.target = some s.st.upc ∧
         t.st.ecause = BitVec.ofNat 64 (f.imm.toNat % 65536 * 2 ^ 32 + 0x19) ∧
         (t.ctxs.val {} slot).st = 4 ∧
         { t.st with epc := s.st.epc, epcw := s.st.epcw, ecause := s.st.ecause, frameRpt := s.st.frameRpt,
                     frameIdx := s.st.frameIdx, target := s.st.target } = s.st ∧
         (∀ n k, (s.tileAt n).kernel = some k → (s.kernAt k).asid = s.kern.asid →
           4 ≤ max (t.tileAt n).parkAsk (t.tileAt n).parkWhy) ∧
         s.completes (.halt f) t)) ∧
  (∀ (f : Fields) (s s1 : State) (x y : Word × Bool),
     s.runs (.klaunch f) f → s.rd2 f.a f.b = .ok (x, y, s1) → x.2 = false → y.2 = false →
     s1.localCheck x.1 256 64 false = .ok () → s1.fenceReady s1.cur s1.curRec 4 = true →
     s1.tl.flips = [] →
     let q := max (y.1.toNat % 4) s1.kern.prio
     ((s1.kq.val {} q).full = true → s.completes (.klaunch f) (s1.wrG f.d (BitVec.allOnes 64) false)) ∧
     ((s1.kq.val {} q).full = false →
       ∃ t : State, t.st = s1.st ∧
         (t.kq.val {} q).recs = (s1.kq.val {} q).recs ++ [(s1.tickets.val 0 q, s1.kern.asid)] ∧
         t.tickets.val 0 q = (s1.tickets.val 0 q + 1) % 2 ^ 32 ∧
         (t.kq.val {} q).tail.toNat = ((s1.kq.val {} q).tail.toNat + 1) % (s1.kq.val {} q).size.toNat ∧
         (s1.mem.wf = true →
           let at_ := hbmKey s1.own ((s1.kq.val {} q).base.toNat % 2 ^ 39 + 256 * (s1.kq.val {} q).tail.toNat)
           let w := rdNat s1.mem (s1.cur * 2 ^ 20 + x.1.toNat) 8
           let kid := w / 2 ^ 35 % 2 ^ 13
           let holds := kid ∈ (s1.ctxOf s1.kern.asid).keys ∨ (s1.ctxOf s1.kern.asid).supok = true ∧ kid = 0
           (∀ k, (holds → k = kid) → (¬ holds → k = s1.kern.keyid) → k < 2 ^ 13 →
             rdNat t.mem at_ 8 = s1.kern.asid % 2 ^ 16 * 2 ^ 48 + k * 2 ^ 35 + w / 2 ^ 33 % 4 * 2 ^ 33 +
               (if s1.st.sup = true ∧ w.testBit 32 = true then 2 ^ 32 else 0) + w % 2 ^ 32) ∧
           (∀ j, 8 ≤ j → j < 256 → rdByte t.mem (at_ + j) = rdByte s1.mem (s1.cur * 2 ^ 20 + x.1.toNat + j)) ∧
           ∀ a, a / 32 < at_ / 32 ∨ (at_ + 255) / 32 < a / 32 → rdByte t.mem a = rdByte s1.mem a) ∧
         s.completes (.klaunch f) (t.wrG f.d (BitVec.ofNat 64 (s1.tickets.val 0 q)) false)))

/-- R211, R303 to R306. The translation instructions: `fence` waits until what it orders is performed; `tlbinv`
drops the matching entries of its scope and ends once the commands that used them have ended or translate again,
`tlbprobe` gives the leaf or 0, `fltrd` takes the oldest fault record,
`fltrep` replays a group's faults, `migr` asks for a migration. The status of `migr` is the first of its table
that applies: 1 no mapping, 2 a migration under way, 3 a heap page, 4 a leaf that may not take the place of the
old one, 5 no request slot free; a request that is taken locks the page: ML of the old leaf becomes 1. Read as log 29
and log 39 say. -/
def Obligations.TranslationInstructionsTakeEffect : Prop :=
  (∀ (f : Fields) (s s1 : State) (a b c : Word × Bool),
     (s.runs (.fence f) f →
       (s.fenceReady s.cur s.curRec f.scp.toNat = true →
         s.completes (.fence f) (s.modSt fun st => { st with fence := none })) ∧
       (s.fenceReady s.cur s.curRec f.scp.toNat = false → s.st.fence = none → pcForm s.st.npc = true →
         ∃ t, exec (.fence f) s = .next t ∧ t.ended = .held ∧ t.st.fence = some f.scp.toNat) ∧
       (s.fenceReady s.cur s.curRec f.scp.toNat = false → s.st.fence.isSome = true →
         ∃ t, exec (.fence f) s = .next t ∧ t.ended = .stalled ∧ t.mem = s.mem)) ∧
     (∀ (i : Instr) (p : Xlate → Bool),
       ((i = .tlbinvPage f ∧ s.rd2 f.a f.b = .ok (a, b, s1) ∧ a.2 = false ∧ b.2 = false ∧
           p = fun x => if f.imm.getLsbD 0 then s1.mapsPa x a.1.toNat else x.covers (b.1.toNat % 2 ^ 16) a.1.toNat) ∨
         (i = .tlbinvCtx f ∧ s.rd1 f.b = .ok (b, s1) ∧ b.2 = false ∧
           p = fun x => x.asid == b.1.toNat % 2 ^ 16) ∨
         (i = .tlbinvAll f ∧ s1 = s ∧ p = fun _ => true)) →
       s.runs i f → s.st.tlbinv = none →
       let gs := s1.groupIn s1.cur f.scp.toNat
       let t := s1.tlbDrop gs (s1.dieIn s1.cur f.scp.toNat) p
       (t.usersOf gs p = [] → s.completes i t) ∧
       (t.usersOf gs p ≠ [] → pcForm s.st.npc = true → ∃ u, exec i s = .next u ∧ u.ended = .held ∧
         u.st.tlbinv = some (t.usersOf gs p) ∧ u.groups = t.groups ∧ u.dies = t.dies)) ∧
     (∀ i ws, i ∈ [Instr.tlbinvPage f, .tlbinvCtx f, .tlbinvAll f] → s.runs i f → s.st.tlbinv = some ws →
       ((∀ w ∈ ws, s.retranslated w = true) →
         s.completes i (s.modSt fun st => { st with tlbinv := none })) ∧
       ((∃ w ∈ ws, s.retranslated w = false) →
         ∃ u, exec i s = .next u ∧ u.ended = .stalled ∧ u.st.tlbinv = some ws)) ∧
     (s.runs (.tlbprobe f) f → (f.b = 0 ∨ s.st.sup = true) → s.rd2 f.a f.b = .ok (a, b, s1) →
       a.2 = false → b.2 = false →
       let asid := if f.b = 0 then s.kern.asid else b.1.toNat % 2 ^ 16
       (∀ x, (s1.tlbLookup s1.cur asid a.1.toNat).1 = some x →
         s.completes (.tlbprobe f) (s1.wrG f.d x.leaf false)) ∧
       ((s1.tlbLookup s1.cur asid a.1.toNat).1 = none →
         (∀ e l k, s1.walkLeaf asid (a.1.toNat % 2 ^ 56) = .leaf e l k →
           s.completes (.tlbprobe f) (s1.wrG f.d e false)) ∧
         (∀ ca su l, s1.walkLeaf asid (a.1.toNat % 2 ^ 56) = .bad ca su l →
           s.completes (.tlbprobe f) (s1.wrG f.d 0 false)))) ∧
     (let g := pkgOfTile s1.cur * 32 + a.1.toNat % 32
      s.runs (.fltrd f) f → s.rd1 f.a = .ok (a, s1) → a.2 = false →
       ((s1.groupAt g).fbuf = [] →
         s.completes (.fltrd f) ((s1.wrG f.d 0 false).wrG (f.d + 1) 0 false)) ∧
       (∀ r rest, (s1.groupAt g).fbuf = r :: rest →
         let w := r.words (s1.faultWaits g r).1 (s1.faultWaits g r).2
         s.completes (.fltrd f) (((s1.modGroup g fun x => { x with fbuf := rest }).wrG f.d w.1 false).wrG
           (f.d + 1) w.2 false))) ∧
     (s.runs (.fltrep f) f → s.rd1 f.a = .ok (a, s1) → a.2 = false →
       s.completes (.fltrep f)
         (s1.replayGroup (pkgOfTile s1.cur * 32 + a.1.toNat % 32) (f.imm.getLsbD 0))) ∧
     (s.runs (.migr f) f → s.rd3 f.a f.b f.c = .ok (a, b, c, s1) → a.2 = false → b.2 = false →
       c.2 = false → (∀ w, xRsw f = some w → s1.rangeBad w 16 = false ∧ w % 16 = 0) →
       let r := s1.startMigr (c.1.toNat % 2 ^ 16) a.1.toNat b.1 (xRsw f)
       s.completes (.migr f) (r.2.wrG f.d (BitVec.ofNat 64 r.1) false))) ∧
  (∀ (s : State) (asid va : Nat) (new : BitVec 64) (sw : Option Nat),
     (∀ ca su l, s.walkLeaf asid (va % 2 ^ 56) = .bad ca su l → s.startMigr asid va new sw = (1, s)) ∧
     (∀ e l key, s.walkLeaf asid (va % 2 ^ 56) = .leaf e l key →
       let unfit := 1 ≤ pteTT e ∧ pteTT e ≤ 3 ∧ (leafBad e).isSome = true
       let locked := e.getLsbD 40 = true ∨ s.migrating key = true
       (unfit → s.startMigr asid va new sw = (1, s)) ∧
       (¬ unfit → locked → s.startMigr asid va new sw = (2, s)) ∧
       (¬ unfit → ¬ locked → e.getLsbD 39 = true → s.startMigr asid va new sw = (3, s)) ∧
       (¬ unfit → ¬ locked → e.getLsbD 39 = false → migrBad e new = true →
         s.startMigr asid va new sw = (4, s)) ∧
       (¬ unfit → ¬ locked → e.getLsbD 39 = false → migrBad e new = false → s.freeChervil = none →
         s.startMigr asid va new sw = (5, s)) ∧
       (∀ i, ¬ unfit → ¬ locked → e.getLsbD 39 = false → migrBad e new = false →
         s.freeChervil = some i → (s.startMigr asid va new sw).1 = 0 ∧
           ((s.startMigr asid va new sw).2.chervil.val? i).isSome = true ∧
           (s.mem.wf = true → rdNat (s.startMigr asid va new sw).2.mem key 8 = e.toNat + 2 ^ 40))))

/-- R318, R321 to R323, R325. Loads, stores and moves of references, the comparison of two, and pins. Read as log 25
and log 48 say. -/
def Obligations.ReferenceInstructionsTakeEffect : Prop :=
  ∀ (f : Fields) (s s1 : State) (x y : Word × Bool),
    (let ea := x.1 + y.1 * 8 + f.imm.signExtend 64
     s.rd2 f.a f.b = .ok (x, y, s1) → s1.localCheck ea 8 8 (x.2 || y.2) = .ok () → s1.tl.flips = [] →
      (s.runs (.hld f) f →
        let r : Word := BitVec.ofNat 64 (rdNat s1.mem (s1.cur * 2 ^ 20 + ea.toNat) 8)
        s.completes (.hld f) (s1.modSt fun st => st.wh (opIdx f.d)
          { val := r, poi := s1.ldPois s1.cur ea.toNat 8, unh := s1.unhealed s1.cur r, hbv := true,
            hba := ea.truncate 20 })) ∧
      (s.runs (.hst f) f → ((s1.st.rh (opIdx f.d)).poi = false ∨ f.c.getLsbD 7 = true) →
        s.completes (.hst f) (s1.putLocal ea.toNat (natToBytes 8 (s1.st.rh (opIdx f.d)).val.toNat)
          (s1.st.rh (opIdx f.d)).poi))) ∧
    (s.runs (.hmov f) f →
      (isH f.a = true → isH f.d = true →
        s.completes (.hmov f) (s.modSt fun st => st.wh (opIdx f.d) (s.st.rh (opIdx f.a)))) ∧
      (isH f.a = true → isH f.d = false →
        s.completes (.hmov f) (s.wrG f.d (s.st.rh (opIdx f.a)).val (s.st.rh (opIdx f.a)).poi)) ∧
      (isH f.a = false → s.rd1 f.a = .ok (x, s1) →
        s.completes (.hmov f) (s1.modSt fun st => st.wh (opIdx f.d)
          { val := x.1, poi := x.2, unh := s1.unhealed s1.cur x.1, hbv := false, hba := 0 }))) ∧
    (let a := s.st.rh (opIdx f.a)
     let b := s.st.rh (opIdx f.b)
     s.runs (.hcmp f) f → a.poi = false → b.poi = false →
      (sameObj a.val b.val = true → s.completes (.hcmp f) (s.wrG f.d 1 false)) ∧
      (sameObj a.val b.val = false → (a.val.getLsbD 63 = false ∨ b.val.getLsbD 63 = false) →
        s.completes (.hcmp f) (s.wrG f.d 2 false)) ∧
      (∀ p e q e', sameObj a.val b.val = false → a.val.getLsbD 63 = true → b.val.getLsbD 63 = true →
        s.resolve (s.openTo s.cur) a.val = .ok p e → s.resolve (s.openTo s.cur) b.val = .ok q e' →
        s.completes (.hcmp f) ((s.modSt fun st =>
          (st.heal (opIdx f.a) a.val p).heal (opIdx f.b) b.val q).wrG f.d
          (if sameObj p q then 1 else 0) false)) ∧
      (sameObj a.val b.val = false → a.val.getLsbD 63 = true → b.val.getLsbD 63 = true →
        (∃ c u, s.resolve (s.openTo s.cur) a.val = .bad c u ∨ s.resolve (s.openTo s.cur) b.val = .bad c u) →
        s.completes (.hcmp f) ((s.modSt fun st =>
          (st.healIf (opIdx f.a) a.val (s.resolve (s.openTo s.cur) a.val)).healIf (opIdx f.b) b.val
            (s.resolve (s.openTo s.cur) b.val)).wrG f.d 2 false))) ∧
    (let h := s.st.rh (opIdx f.a)
     h.poi = false →
      (∀ n, s.named h.val = .status n →
        (s.runs (.hpin f) f → s.completes (.hpin f)
          ((s.wrG f.d (BitVec.ofNat 64 n) false).wrG (f.d + 1) 0 false)) ∧
        (s.runs (.hunpin f) f → s.completes (.hunpin f) (s.wrG f.d (BitVec.ofNat 64 n) false))) ∧
      (∀ ref e, s.named h.val = .ok ref e →
        (s.runs (.hpin f) f → e.mv = false → e.pin = 4095 →
          s.completes (.hpin f) ((s.wrG f.d 3 false).wrG (f.d + 1) 0 false)) ∧
        (s.runs (.hpin f) f → e.mv = false → e.pin < 4095 → h.unh = false →
          s.compactOf (refRg ref) (refObj ref) = none →
          let t := s.wrEnt (refRg ref) (refObj ref)
            { s.rdEnt (refRg ref) (refObj ref) with pin := (s.rdEnt (refRg ref) (refObj ref)).pin + 1 }
          s.completes (.hpin f) (((t.modSt fun st => st.heal (opIdx f.a) h.val (setBits ref 61 1 1)).wrG f.d 0
            false).wrG (f.d + 1) ((t.heapAt (refRg ref)).windowOf (s.rdEnt (refRg ref) (refObj ref)).w1) false)) ∧
        (s.runs (.hunpin f) f → e.pin = 0 → s.completes (.hunpin f) (s.wrG f.d 3 false)) ∧
        (s.runs (.hunpin f) f → e.pin ≠ 0 →
          s.completes (.hunpin f) (((s.wrEnt (refRg ref) (refObj ref) { e with pin := e.pin - 1 }).modSt fun st =>
            if (st.rh (opIdx f.a)).val = h.val then
              st.wh (opIdx f.a) { st.rh (opIdx f.a) with val := setBits h.val 61 1 0 }
            else st).wrG f.d 0 false))))

/-- R324, R326, R327, R329. The object instructions: a request that names no valid region, no live object or meets a
condition of its table gives that status; else it takes effect and gives 0 or a reference. Read as log 25 and
log 40 say. -/
def Obligations.ObjectInstructionsTakeEffect : Prop :=
  ∀ (f : Fields) (s s1 : State) (x y : Word × Bool),
    (let size := x.1.toNat % 2 ^ 32
     let rg := y.1.toNat % 64
     let put := fun (t : State) (v : Word) => s.completes (.hobjAlloc f) (t.modSt fun st =>
       st.wh (opIdx f.d) { val := v, poi := false, unh := false, hbv := false, hba := 0 })
     let named := (s1.heapAt rg).v = true ∧ s1.mayName rg = true
     s.runs (.hobjAlloc f) f → s.rd2 f.a f.b = .ok (x, y, s1) → x.2 = false → y.2 = false →
      (¬ named → put s1 1) ∧ (named → size = 0 → put s1 8) ∧
      (named → size ≠ 0 → s1.allocObj rg size 1 = none → put s1 5) ∧
      (∀ n s2, named → size ≠ 0 → s1.allocObj rg size 1 = some (n, s2) →
        let e := s2.rdEnt rg n
        let t := s2.zeroStore (s2.heapAt rg).key (s2.copyKey e.w1) (4096 * chunksOf size)
        put t (mkRef (t.heapAt rg).col rg n e.gen))) ∧
    (let h := s.st.rh (opIdx f.a)
     h.poi = false →
      (∀ n, s.named h.val = .status n →
        (s.runs (.hobjFree f) f → s.completes (.hobjFree f) (s.wrG f.d (BitVec.ofNat 64 n) false)) ∧
        (s.runs (.hobjInfo f) f → s.completes (.hobjInfo f)
          ((s.wrG f.d (BitVec.ofNat 64 (2 ^ 63 + n)) false).wrG (f.d + 1) 0 false))) ∧
      (∀ ref e, s.named h.val = .ok ref e →
        (s.runs (.hobjInfo f) f → s.completes (.hobjInfo f)
          ((s.wrG f.d (BitVec.ofNat 64 e.word0) false).wrG (f.d + 1) (BitVec.ofNat 64 e.word2) false)) ∧
        (s.runs (.hobjFree f) f → h.val.getLsbD 60 = true → s.completes (.hobjFree f) (s.wrG f.d 10 false)) ∧
        (s.runs (.hobjFree f) f → h.val.getLsbD 60 = false → e.pin ≠ 0 →
          s.completes (.hobjFree f) (s.wrG f.d 4 false)) ∧
        (s.runs (.hobjFree f) f → h.val.getLsbD 60 = false → e.pin = 0 → e.mv = true →
          s.compactOf (refRg ref) (refObj ref) = none → s.completes (.hobjFree f) (s.wrG f.d 9 false)) ∧
        (s.runs (.hobjFree f) f → h.val.getLsbD 60 = false → e.pin = 0 →
          (e.mv = false ∨ (s.compactOf (refRg ref) (refObj ref)).isSome = true) →
          let t := s.abandonCompact (refRg ref) (refObj ref)
          s.completes (.hobjFree f)
            (((if t.compacting (refRg ref) then t.leaveCompact (refRg ref) (refObj ref) e else t).freeEnt
              (refRg ref) (refObj ref)).wrG f.d 0 false))) ∧
      (s.runs (.hobjMove f) f → s.rd1 f.b = .ok (y, s1) → y.2 = false →
        let rg2 := y.1.toNat % 64
        let shut := (s1.heapAt rg2).v = false ∨ s1.mayName rg2 = false ∨
          (s1.heapAt rg2).asid ≠ (s1.heapAt (refRg h.val)).asid
        (∀ ref e, s1.named h.val = .ok ref e →
          let r := s1.startMove h.val ref e rg2
          s.completes (.hobjMove f) (r.2.modSt fun st => st.wh (opIdx f.d) r.1)) ∧
        (∀ n, s1.named h.val = .status n →
          (n = 2 → shut → s.completes (.hobjMove f) (s1.modSt fun st => st.wh (opIdx f.d) { val := 1 })) ∧
          (¬ (n = 2 ∧ shut) → s.completes (.hobjMove f)
            (s1.modSt fun st => st.wh (opIdx f.d) { val := BitVec.ofNat 64 n }))))) ∧
    (let rg := y.1.toNat % 64
     let named := (s1.heapAt rg).v = true ∧ s1.mayName rg = true
     s.rd1 f.b = .ok (y, s1) → y.2 = false →
      (s.runs (.hobjCompact f) f →
        (¬ named → s.completes (.hobjCompact f) (s1.wrG f.d 1 false)) ∧
        (named → (s1.compacting rg = true ∨ (s1.heapAt rg).flipping = true) →
          s.completes (.hobjCompact f) (s1.wrG f.d 9 false)) ∧
        (named → s1.compacting rg = false → (s1.heapAt rg).flipping = false → s1.freeChervil = none →
          s.completes (.hobjCompact f) (s1.wrG f.d 6 false)) ∧
        (∀ i, named → s1.compacting rg = false → (s1.heapAt rg).flipping = false → s1.freeChervil = some i →
          ∃ t : State, t.chervil.val? i = some (.compact rg (s1.toCompact rg) none) ∧
            { t with chervil := s1.chervil, heaps := s1.heaps } = s1 ∧
            s.completes (.hobjCompact f) (t.wrG f.d 0 false))) ∧
      (s.runs (.hobjFlip f) f →
        (¬ named → s.completes (.hobjFlip f) (s1.wrG f.d 1 false)) ∧
        (named → (s1.heapAt rg).flipping = false →
          ∃ t : State, (t.heapAt rg).col = !(s1.heapAt rg).col ∧ (t.heapAt rg).flipping = true ∧
            (t.heapAt rg).epoch = (s1.heapAt rg).epoch + 1 ∧
            t.st = s1.st ∧ t.mem = s1.mem ∧ (∀ n, n ≠ rg → t.heapAt n = s1.heapAt n) ∧
            s.completes (.hobjFlip f) (t.wrG f.d 0 false))))

/-! ### Steps of a tile (R57, R85, R105, R108, R120, R147, R163, R168, R184 to R190, R275, R304, R349, R354, R358, R359) -/

/-- Everything but one tile is the same. -/
def Sys2Proof.Rules.onlyTile (s t : State) (tile : Nat) : Prop :=
  { t with tiles := s.tiles } = s ∧ ∀ n, n ≠ tile → t.tileAt n = s.tileAt n

/-- A step of the machine that is not due answers the state unchanged. -/
def Sys2Proof.Rules.idles (i : Instr) (s : State) : Prop := exec i s = .next s

/-- R185. The issue cycle of a tile: the first ready slot after the last one that issued takes the tc, its credits
rise by its weight and at 8 it wins the next tc as a bonus; the bonus goes to the same slot and leaves its
credits; with no slot ready nothing issues. Read as log 11 and log 55 say. -/
def Obligations.IssueCyclesChooseTheNextReadySlot : Prop :=
  ∀ (s : State) (tile : Nat),
    let t := s.tileAt tile
    (∀ k, t.bonus = false → k < 8 → s.slotReady tile ((t.issT + 1 + k) % 8) = true →
      (∀ j, j < k → s.slotReady tile ((t.issT + 1 + j) % 8) = false) →
      let n := (t.issT + 1 + k) % 8
      ∃ (u : State) (r : Nat) (st : Strand), t.inSlot n = some (r, st) ∧
        exec (.tileIssueCycle tile) s = .next u ∧ u.issuing = true ∧ u.cur = tile ∧ u.curRec = r ∧
        (u.tileAt tile).issT = n ∧ (u.tileAt tile).bonus = decide (8 ≤ t.cr.val 0 n + st.pri + 1) ∧
        (u.tileAt tile).cr.val 0 n = (if 8 ≤ t.cr.val 0 n + st.pri + 1 then t.cr.val 0 n + st.pri + 1 - 8
          else t.cr.val 0 n + st.pri + 1) ∧
        (∀ m, m ≠ n → (u.tileAt tile).cr.val 0 m = t.cr.val 0 m) ∧ u.mem = s.mem ∧
        ∀ m, m ≠ tile → u.tileAt m = s.tileAt m) ∧
    (t.bonus = true → s.slotReady tile t.issT = true →
      ∃ (u : State) (r : Nat) (st : Strand), t.inSlot t.issT = some (r, st) ∧
        exec (.tileIssueCycle tile) s = .next u ∧ u.issuing = true ∧ u.cur = tile ∧ u.curRec = r ∧
        (u.tileAt tile).issT = t.issT ∧ (u.tileAt tile).bonus = false ∧ (u.tileAt tile).cr = t.cr ∧
        u.mem = s.mem) ∧
    ((∀ n, n < 8 → s.slotReady tile n = false) → t.issT < 8 →
      ∃ u : State, exec (.tileIssueCycle tile) s = .next u ∧ u.issuing = s.issuing ∧
        (u.tileAt tile).bonus = false ∧ (u.tileAt tile).issT = t.issT ∧ u.mem = s.mem)

/-- R120, R147, R168, R176, R187. Grants and windows: `vclaim` and `mclaim` requests are granted from the heads of
their queues. A window of the vector unit adds each claimant's weight to its credit and serves the claimant waiting
longest of those with 36 tc of age, else the one of most credit; each tc it starts one command of the strand it
serves, four at most, while the heads of the others age; a suspended strand leaves its slot with its last vector
command. The table engine starts the ready head of the claimant that started least recently. Read as log 55 says. -/
def Obligations.GrantsAndWindowsServeTheirClaimants : Prop :=
  ∀ (s : State) (tile : Nat),
    let t := s.tileAt tile
    (t.claimReady = false → Rules.idles (.vclaimGrant tile) s) ∧
    (∀ r lo hi d rest, t.vwait = r :: rest → (s.strandAt tile r).vreq = some (lo, hi, d) →
      lo ≤ t.freeGroups →
      ∃ u : State, exec (.vclaimGrant tile) s = .next u ∧ Rules.onlyTile s u tile ∧
        (u.tileAt tile).vwait = rest ∧ (u.strandAt tile r).vl = 8 * min hi t.freeGroups ∧
        (u.strandAt tile r).vreq = some (0, 0, d) ∧ ∀ q, q ≠ r → u.strandAt tile q = s.strandAt tile q) ∧
    (t.mclaimReady = false → Rules.idles (.mclaimGrant tile) s) ∧
    (∀ r c d rest, t.mwait = r :: rest → t.freeSlot = some c → (s.strandAt tile r).mreq = some d →
      ∃ u : State, exec (.mclaimGrant tile) s = .next u ∧ Rules.onlyTile s u tile ∧
        (u.tileAt tile).mwait = rest ∧ (u.strandAt tile r).claim = some c ∧
        (u.strandAt tile r).mreq = none ∧
        (isG d = true → opIdx d ≠ 0 → (u.strandAt tile r).rg (opIdx d) = BitVec.ofNat 64 c) ∧
        (∀ j, j < 4 → (u.tileAt tile).ra (4 * c + j) = {}) ∧
        (∀ j, j < 8 → (u.tileAt tile).rm (8 * c + j) = {})) ∧
    (let cs := t.vClaimants
     let aged := cs.any fun p => decide (36 ≤ p.2.vage)
     let total : Nat := (cs.map fun p => p.2.pri + 1).sum
     (cs = [] → Rules.idles (.vectorWindow tile) s) ∧
     ((∀ p ∈ t.strands, s.strandAt tile p.1 = p.2 ∧ p.2.leaving = false) →
      (∀ r n st, t.vwin = some (r, n) → (r, st) ∈ cs →
        ∃ u : State, exec (.vectorWindow tile) s = .next u ∧ Rules.onlyTile s u tile ∧
          (u.tileAt tile).vwin = (if n ≤ 1 then none else some (r, n - 1)) ∧
          u.strandAt tile r = { st with vq := st.vq - 1, vage := 0 } ∧
          ∀ p ∈ cs, p.1 ≠ r → u.strandAt tile p.1 = { p.2 with vage := p.2.vage + 1 }) ∧
      (t.windowOn = false → cs ≠ [] →
        ∃ (u : State) (r : Nat) (st : Strand), (r, st) ∈ cs ∧
          exec (.vectorWindow tile) s = .next u ∧ Rules.onlyTile s u tile ∧
          (aged = true → ∀ p ∈ cs, p.2.vage ≤ st.vage) ∧
          (aged = false → ∀ p ∈ cs, p.2.vc + (p.2.pri + 1 : Nat) ≤ st.vc + (st.pri + 1 : Nat)) ∧
          (u.tileAt tile).vwin = some (r, 3) ∧
          u.strandAt tile r =
            { st with vq := st.vq - 1, vage := 0, vc := st.vc + ((st.pri + 1 : Nat) : Int) - (total : Int) } ∧
          ∀ p ∈ cs, p.1 ≠ r → u.strandAt tile p.1 =
            { p.2 with vc := p.2.vc + (p.2.pri + 1 : Nat), vage := p.2.vage + 1 })) ∧
     (∀ r st, cs = [(r, st)] → s.strandAt tile r = st → st.leaving = true → st.vq = 1 →
      (∀ p ∈ t.strands, p.1 ≠ r → p.2.leaving = false) →
      ∃ u : State, exec (.vectorWindow tile) s = .next u ∧ (u.strandAt tile r).slot = none ∧
        (u.strandAt tile r).vl = 0 ∧ (u.strandAt tile r).vq = 0 ∧ (u.strandAt tile r).lq = [] ∧
        (u.strandAt tile r).kind = st.kind ∧ u.mem = s.mem)) ∧
    (let cs := t.tClaimants
     (cs = [] → Rules.idles (.tableCommandStart tile) s) ∧
     (cs ≠ [] → t.rebuildDue = none → (∀ p ∈ cs, s.strandAt tile p.1 = p.2 ∧ p.2.exiting = false) →
      ∃ (r : Nat) (st : Strand) (c : TCmd) (rest : List TCmd), (r, st) ∈ cs ∧ st.tq = c :: rest ∧
        (∀ p ∈ cs, staleness t.tlast r ≤ staleness t.tlast p.1) ∧
        ((∀ q ∈ rest, q.onClaim = false) →
          exec (.tableCommandStart tile) s = .next (({ s.modTileAt tile fun t =>
            { t.modStrand r (fun st => { st with tq := rest }) with
              tlast := t.tlast.filter (· != r) ++ [r] } with cur := tile, curRec := r }).runT c))))

/-- R85, R105, R108, R163, R184, R196, R211, R304. Queues, timeouts, readiness and loading: the oldest load in flight
becomes poppable; the bounds of R108 and R85 trap; a record whose event has come turns runnable at the tail of
the ready order; the first of that order that has left its slot is loaded into the lowest free slot, or into the slot
it yielded alone; a bank, a `tlbinv` and a `fence`
that are done end their wait; a dropped table is built again. -/
def Obligations.QueuesRecordsAndWaitsGoOn : Prop :=
  ∀ (s : State) (tile r : Nat),
    let t := s.tileAt tile
    let st := s.strandAt tile r
    (∀ q v p pre rest, st.lqOf q = pre ++ .load v p :: rest →
      (∀ x ∈ pre, ∀ v p, x ≠ QPlace.load v p) → (t.strands.val? r).isSome = true →
      ∃ u : State, exec (.ldqPush tile r q) s = .next u ∧ Rules.onlyTile s u tile ∧
        (u.strandAt tile r).lqOf q = pre ++ .held v p :: rest ∧
        { (u.strandAt tile r) with lq := st.lq } = st) ∧
    (st.slot.isSome = true → st.hold < 4096 → Rules.idles (.queueDeadlockTimeout tile r) s) ∧
    (st.slot.isSome = true → 4096 ≤ st.hold → (s.stopping tile = false ∨ st.pkt.isSome = true) → s.stopped tile r = false →
      exec (.queueDeadlockTimeout tile r) s = .next (s.trapAt tile r .queueDeadlock)) ∧
    (st.pkt = none → Rules.idles (.openPacketTimeout tile r) s) ∧
    (st.slot.isSome = true → st.pkt.isSome = true → 4096 ≤ st.pktStop.getD 0 →
      exec (.openPacketTimeout tile r) s = .next (s.trapAt tile r .openPacket)) ∧
    (∀ g, st.kind = 3 → g = s.swGen tile (st.swa * 16) → (g - st.gen).toNat < 2 ^ 31 →
      ∃ u : State, exec (.recordReady tile r) s = .next u ∧ (u.strandAt tile r).kind = 1 ∧
        (u.tileAt tile).ready = (if t.ready.contains r then t.ready else t.ready ++ [r]) ∧
        (u.strandAt tile r).resume = st.resume.map (fun x => (x.1, g.zeroExtend 64, false)) ∧
        (u.strandAt tile r).g = st.g) ∧
    (st.kind = 3 → 2 ^ 31 ≤ (s.swGen tile (st.swa * 16) - st.gen).toNat → Rules.idles (.recordReady tile r) s) ∧
    (st.kind = 5 → st.queueOpen st.scp = true →
      ∃ u : State, exec (.recordReady tile r) s = .next u ∧ (u.strandAt tile r).kind = 1 ∧
        (u.tileAt tile).ready = (if t.ready.contains r then t.ready else t.ready ++ [r])) ∧
    (∀ n low rest, t.ready = r :: rest → r ∉ rest → st.slot = none → t.lowSlot = some low →
      n = (match st.back with
        | some b => if t.slotUsed b then low else b
        | none => low) →
      s.loads tile = true → t.flips = [] →
      s.ldPois tile (recAddr r) 24 = false → st.resume = [] → st.stale = false →
      ∃ u : State, exec (.slotLoad tile) s = .next u ∧ (u.strandAt tile r).slot = some n ∧
        (u.strandAt tile r).kind = 2 ∧
        (u.strandAt tile r).pc = BitVec.ofNat 64 (s.ldNum tile (recAddr r) 8) ∧
        (u.strandAt tile r).wid = BitVec.ofNat 64 (s.ldNum tile (recAddr r + 8) 8) ∧
        (∀ j, j < 5 → (u.strandAt tile r).rg (j + 1) =
          BitVec.ofNat 64 (s.ldNum tile (recAddr r + 24 + 8 * j) 8)) ∧
        (u.tileAt tile).ready = rest ∧ u.mem = s.mem) ∧
    (((∀ q ∈ t.ready, (s.strandAt tile q).slot.isSome = true) ∨ t.lowSlot = none ∨ s.loads tile = false) →
      Rules.idles (.slotLoad tile) s) ∧
    (∀ b, b < 64 → t.bankWaking.getLsbD b = true →
      ∃ u : State, exec (.bankWake tile b) s = .next u ∧ Rules.onlyTile s u tile ∧
        (u.tileAt tile).bankWaking.getLsbD b = false ∧
        ∀ c, c ≠ b → (u.tileAt tile).bankWaking.getLsbD c = t.bankWaking.getLsbD c) ∧
    (∀ ws, st.tlbinv = some ws → ws.all s.retranslated = true →
      exec (.tlbinvComplete tile r) s =
        .next (s.modStrandAt tile r fun x => { x with tlbinv := some [], stall := none })) ∧
    (∀ ws, st.tlbinv = some ws → ws.all s.retranslated = false → Rules.idles (.tlbinvComplete tile r) s) ∧
    (∀ l, st.fence = some l → s.fenceReady tile r l = true →
      exec (.fenceComplete tile r) s =
        .next (s.modStrandAt tile r fun x => { x with fence := none, stall := none })) ∧
    (∀ l, st.fence = some l → s.fenceReady tile r l = false → Rules.idles (.fenceComplete tile r) s) ∧
    (∀ tb, t.rebuildDue ≠ some (r, tb) → (∀ q, q ≠ r → t.rebuildDue ≠ some (q, tb)) →
      Rules.idles (.silentRebuild tile tb) s) ∧
    (∀ tb, t.rebuildDue = some (r, tb) →
      ∃ u : State, exec (.silentRebuild tile tb) s = .next u ∧ Rules.onlyTile s u tile ∧
        (u.tileAt tile).rtb tb = t.rebuilt (t.rtb tb) ∧ ((u.tileAt tile).rtb tb).drop = false)

/-- R264, R275, R354, R358, R359. Pair compares, threshold parks, freezing and armed injections: a pair whose
fingerprints agree after 1,024 results starts them anew; a tile whose strands only wait past PARKT.TH asks for a
THRESH park; a freeze is requested and thawed, and is done once no packet is open and no request in flight, with
the vector queues empty; a write of ERRINJ of each form arms it and is answered, a value with a reserved bit is
answered with the error status and writes nothing. -/
def Obligations.ParksFreezesAndInjectionsTakeEffect : Prop :=
  ∀ (s : State) (tile r : Nat) (x : Word),
    let t := s.tileAt tile
    let st := s.strandAt tile r
    (∀ p, p ≠ r → st.partner = some p → st.folw = false → 1024 ≤ st.retired →
      s.followerHere tile r = true → st.crc = (s.strandAt tile p).crc →
      ∃ u : State, exec (.pairCompare tile r) s = .next u ∧ Rules.onlyTile s u tile ∧
        (∀ q, q = r ∨ q = p → (u.strandAt tile q).retired = 0 ∧ (u.strandAt tile q).crc = 0xffffffff ∧
          (u.strandAt tile q).foldQ = []) ∧
        (u.strandAt tile r).partner = some p ∧ u.mem = s.mem) ∧
    (st.retired < 1024 → Rules.idles (.pairCompare tile r) s) ∧
    (t.parkt.getLsbD 32 = true → t.parkt.toNat % 2 ^ 32 ≤ t.parkCnt → t.onlyWaiting = true → t.parkSt = 0 →
      t.parkWhy = 0 → t.parkAsk = 0 →
      ∃ u : State, exec (.parkThresholdExpiry tile) s = .next u ∧ { u with tiles := s.tiles } = s ∧
        max (u.tileAt tile).parkAsk (u.tileAt tile).parkWhy = 1 ∧ (u.tileAt tile).parkBy = false ∧
        (∀ n, (u.tileAt n).strands = (s.tileAt n).strands) ∧
        ((∀ p ∈ s.tiles, groupOfTile p.1 ≠ groupOfTile tile →
            p.2.parkAsk = 0 ∧ (p.2.parkWhy = 0 ∨ p.2.parkSt ≠ 0)) → (u.tileAt tile).parkWhy = 1)) ∧
    (t.parkt.getLsbD 32 = false → Rules.idles (.parkThresholdExpiry tile) s) ∧
    (∀ w : FreezeWrite,
      let owner := t.kernel.isSome = true ∧ s.asidOf tile = w.asid
      (4 ≤ w.value.toNat ∨ (w.supervisor = false ∧ ¬ owner) →
        exec (.freezeRequest tile w) s = .next (s.told false)) ∧
      (w.value.toNat < 4 → (w.supervisor = true ∨ owner) → (w.value.getLsbD 0 = true ∨ t.lateArm = []) →
        ∃ u : State, exec (.freezeRequest tile w) s = .next (u.told true) ∧ Rules.onlyTile s u tile ∧
          u.tileAt tile = { t with
            freezeReq := w.value.getLsbD 0, frozen := t.frozen && w.value.getLsbD 0 })) ∧
    (t.freezeReq = true → t.frozen = false → t.atRest = true → (∀ p ∈ t.strands, p.2.leaving = false) →
      ∃ u : State, exec (.freezeDone tile) s = .next u ∧ Rules.onlyTile s u tile ∧
        (u.tileAt tile).frozen = true ∧ (u.strandAt tile r).vq = 0 ∧
        { u.strandAt tile r with vq := st.vq } = st) ∧
    ((t.freezeReq = false ∨ t.atRest = false) → Rules.idles (.freezeDone tile) s) ∧
    (∀ i n, (i, n) ∈ [(Instr.errinjSram tile x, 1), (.errinjRegister tile x, 2), (.errinjAccumulator tile x, 3),
        (.errinjFingerprint tile x, 4), (.errinjPlaneCopy tile x, 5)] →
      (x.toNat / 2 ^ 60 = n → x.getLsbD 0 = true → errinjBad x = true → exec i s = .next (s.told false)) ∧
      (x.toNat / 2 ^ 60 = n → x.getLsbD 0 = true → errinjBad x = false →
        exec i s = .next ((s.putErrinj tile x).told true) ∧
        (n ≠ 1 → ((s.putErrinj tile x).tileAt tile).errinj =
          setBits x 1 1 (if t.errinj.getLsbD 1 && !x.getLsbD 1 then 1 else 0))) ∧
      (x.toNat / 2 ^ 60 ≠ n ∨ x.getLsbD 0 = false → Rules.idles i s)) ∧
    (x.getLsbD 0 = false → errinjBad x = true → exec (.errinjDisarm tile x) s = .next (s.told false)) ∧
    (x.getLsbD 0 = false → errinjBad x = false →
      ∃ u : State, exec (.errinjDisarm tile x) s = .next (u.told true) ∧ Rules.onlyTile s u tile ∧
        (u.tileAt tile).errinj = setBits x 1 1 (if t.errinj.getLsbD 1 && !x.getLsbD 1 then 1 else 0)) ∧
    (x.getLsbD 0 = true → Rules.idles (.errinjDisarm tile x) s)

/-! ### Collectives, the step log and the port (R225 to R229, R252 to R263, R369 to R374) -/

/-- Everything but one entry of the tile table is the same. -/
def Sys2Proof.Rules.onlyEntry (s t : State) (i : Nat) : Prop :=
  { t with tt := s.tt } = s ∧ ∀ n, n ≠ i → t.entryAt n = s.entryAt n

/-- R257 to R259, R261, R369. What reaches a member and what it does with it: a segment of the running firing is kept
once, one of the next firing waits for it, any other is counted in DUPC; a result block that is missing is written,
another is a duplicate; a step of the reduce folds the own contribution first and then the next segment; a firing
whose blocks have all been written completes: FG rises, its `ctready` commands leave the engine; a segment that is not
acknowledged is sent again four times, then its slot counts as unreachable. A segment for a stack whose queue of 64
steps is full, and a result for a page that a migration locks, arrive again later. Read as log 54 says. -/
def Obligations.FiringsCollectReduceAndComplete : Prop :=
  ∀ (s : State) (g : Segment) (i b seg : Nat),
    let e := s.entryAt g.entry
    let f := s.entryAt i
    let dup := fun j : Instr => ∃ t : State, exec j s = .next t ∧ Rules.onlyEntry s t g.entry ∧
      t.entryAt g.entry = { e with dupc := min 255 (e.dupc + 1) }
    (s.segIgnored g = true → Rules.idles (.segmentArrival g) s ∧ Rules.idles (.resultGatherWrite g) s) ∧
    (s.segIgnored g = false →
      (s.adderFull g = true →
        exec (.segmentArrival g) s = .next { s with agenda := s.agenda ++ [.segmentArrival g] }) ∧
      (e.isCurrent g = true → e.known g = false → s.adderFull g = false →
        ∃ t : State, exec (.segmentArrival g) s = .next t ∧ Rules.onlyEntry s t g.entry ∧
          t.entryAt g.entry = { e with waitSegs := e.waitSegs ++ [g] }) ∧
      (e.isCurrent g = true → e.known g = true → dup (.segmentArrival g)) ∧
      (e.isCurrent g = false → e.isNext g = true →
        ∃ t : State, exec (.segmentArrival g) s = .next t ∧ Rules.onlyEntry s t g.entry ∧
          t.entryAt g.entry = { e with nextSegs := e.nextSegs ++ [g] }) ∧
      (e.isCurrent g = false → e.isNext g = false →
        dup (.segmentArrival g) ∧ dup (.resultGatherWrite g)) ∧
      (e.isCurrent g = true → e.missing.contains (g.pos / 64) = false → dup (.resultGatherWrite g)) ∧
      (e.isCurrent g = true → e.missing.contains (g.pos / 64) = true → g.stamp = none →
        g.data.length = 64 →
        (s.landLocked g = true →
          exec (.resultGatherWrite g) s = .next { s with agenda := s.agenda ++ [.resultGatherWrite g] }) ∧
        (s.landLocked g = false → ∃ t : State, exec (.resultGatherWrite g) s = .next t ∧
          (t.entryAt g.entry).missing = e.missing.filter (· != g.pos / 64) ∧
          t.mem = (s.wrVia ((s.entryKern g.entry).getD 0) e.dstX (e.raddr.toNat + g.pos) g.data).mem))) ∧
    (s.reducible i b = false → Rules.idles (.reduceStep i b) s) ∧
    (s.reducible i b = true →
      ∃ t : State, exec (.reduceStep i b) s = .next t ∧ (t.entryAt i).folds.val? b = some
        (match (s.nextSeg f b).1 with
          | none => s.openFold f b
          | some g => (s.openFold f b).add f.op g.src (segContrib f.op g))) ∧
    ((f.running = false ∨ f.missing ≠ []) → Rules.idles (.firingComplete i) s) ∧
    (f.running = true → f.missing = [] → f.rdyc < f.nrdy + 1 →
      ∃ t : State, exec (.firingComplete i) s = .next t ∧ (t.entryAt i).running = false ∧
        (t.entryAt i).fg = f.fg + 1 ∧ (t.entryAt i).waitSegs = [] ∧
        (t.entryAt i).xn = (slotsOf f.exclm).length % 256 ∧
        ∀ n, ∀ a ∈ (s.tileAt n).xact, a.cmd.kind = .ctready → a.cmd.arg = i → a.counted = 1 →
          ∀ c ∈ (t.tileAt n).xact, c.cmd.no ≠ a.cmd.no) ∧
    (s.sentSeg i seg = none → Rules.idles (.segmentResendTimeout i seg) s) ∧
    (∀ q, s.sentSeg i seg = some q → f.resends.val 0 (segKey seg q) < 4 →
      ∃ t : State, exec (.segmentResendTimeout i seg) s = .next t ∧
        (t.entryAt i).resends.val 0 (segKey seg q) = f.resends.val 0 (segKey seg q) + 1 ∧
        t.segsOut = s.segsOut ++ [(seg % 256, (seg / 256).testBit 0, q)] ∧ t.mem = s.mem) ∧
    (∀ q, s.sentSeg i seg = some q → 4 ≤ f.resends.val 0 (segKey seg q) →
      ∃ t : State, exec (.segmentResendTimeout i seg) s = .next t ∧ Rules.onlyEntry s t i ∧
        (t.entryAt i).resends.val 0 (segKey seg q) = 5)

/-- R11, R225, R228, R229, R252, R253, R372, R374. Writes from outside a tile: a table image that keeps the rules
replaces the image fields of an entry that does not run; CKPT is written; a spare keeps a received log record; an
exchange write of another package reaches the bytes of its tile, waits for a bank or for a port that holds 16 writes,
or is held for order in a replay, and at another home is performed with an undo record of its line; TRC is written,
its flags cleared by ones. A write that is rejected changes nothing and is answered with the error status. Read as log
47 says. -/
def Obligations.WritesFromOutsideReachTheirTile : Prop :=
  ∀ (s : State) (asid i tile : Nat) (image : BitVec 512) (x : Word) (bs : List Byte) (w : RemoteWrite),
    (let e := s.entryAt i
     let may := s.plane.halt = false ∧ (2 ^ 16 ≤ asid ∨ asid = image.toNat / 2 ^ 496) ∧ i < 8192 ∧ e.running = false ∧
       s.imageOk image.toNat = true
     (¬ may → exec (.tileTableWrite asid i image) s = .next (s.told false)) ∧
     (may → ∃ t : State, exec (.tileTableWrite asid i image) s = .next (t.told true) ∧ Rules.onlyEntry s t i ∧
       (let n := t.entryAt i
        n.peers = image.truncate 256 ∧ n.src = image.extractLsb' 256 64 ∧
          n.raddr = image.extractLsb' 320 64 ∧ n.len = (image.extractLsb' 384 28).toNat ∧
          n.stamp = image.extractLsb' 416 32 ∧ n.asid = image.toNat / 2 ^ 496 ∧
          n.root = (image.extractLsb' 488 8).toNat ∧ n.nrdy = (image.extractLsb' 469 10).toNat ∧
          n.v = image.getLsbD 455 ∧ n.op = (image.extractLsb' 452 3).toNat ∧ n.j = image.getLsbD 451 ∧
          n.chk = image.getLsbD 450 ∧ n.dupc = 0 ∧ n.fg = e.fg ∧ n.epoch = e.epoch ∧ n.rdyc = e.rdyc))) ∧
    (2 ^ 32 ≤ x.toNat → exec (.ckptWrite x) s = .next (s.told false)) ∧
    (x.toNat < 2 ^ 32 → ∃ t : State, exec (.ckptWrite x) s = .next (t.told true) ∧ t.slog.ckpt = x.truncate 32 ∧
      (s.slog.steps.length ≤ 64 → ∀ p, t.slog.steps.head? = some p → x.toNat < p.1) ∧
      { t with slog := s.slog } = s) ∧
    ((s.slog.mode ≠ 2 ∨ bs.length < 32) → Rules.idles (.stepLogReceive bs) s) ∧
    (s.slog.mode = 2 → 32 ≤ bs.length → s.slog.steps = [] →
     (s.slog.lostAt = some (bytesToNat (bs.take 4)) → Rules.idles (.stepLogReceive bs) s) ∧
     (s.slog.lostAt ≠ some (bytesToNat (bs.take 4)) → s.slog.wr + bs.length ≤ s.slog.area →
      ∃ t : State, exec (.stepLogReceive bs) s = .next t ∧
        t.slog.steps = [(bytesToNat (bs.take 4), bs.length, true)] ∧
        t.slog.wr = (s.slog.wr + bs.length) % s.slog.area ∧ t.mem = (s.logWrite s.slog.wr bs).mem)) ∧
    (let n := w.data.length
     ((s.plane.halt = true ∨ s.fenced w.src = true ∨ (w.home = none ∧ s.landDrops w.tile w.addr n = true)) →
       Rules.idles (.remoteWriteArrival w) s) ∧
     (∀ h, w.home = some h → s.plane.halt = false → s.fenced w.src = false →
       (s.lockedAt h.key = true →
         exec (.remoteWriteArrival w) s = .next { s with agenda := s.agenda ++ [.remoteWriteArrival w] }) ∧
       (s.chervil = [] → s.plane.refresh = false → s.mem.wf = true → w.data ≠ [] →
         (∀ l ∈ lineKeys h.key n, s.keyOf l = h.kid) →
         ∃ t : State, exec (.remoteWriteArrival w) s = .next t ∧
           (∀ j (h' : j < n), rdByte t.mem (h.key + j) = w.data[j].1) ∧ Rules.memKept s t h.key n ∧
           ((s.dieAt (journalDie h.key)).journal.length + n < journalCap →
             ∃ u ∈ (t.dieAt (journalDie h.key)).journal, u.line = h.key / 32 * 32 ∧ u.tile = w.src ∧ u.lvl = 5 ∧
               u.kern = some h.kern ∧ u.sscs[4]? = some h.ssc5 ∧ u.data = rdBytes s.mem (h.key / 32 * 32) 32))) ∧
     (w.home = none → s.plane.halt = false → s.fenced w.src = false → s.landDrops w.tile w.addr n = false →
       (s.portWaits w.tile w.addr n = true →
         exec (.remoteWriteArrival w) s = .next { s with agenda := s.agenda ++ [.remoteWriteArrival w] }) ∧
       (s.portWaits w.tile w.addr n = false → (s.tileAt w.tile).trcMode = 0 →
         (s.tileAt w.tile).heldW = [] → s.mem.wf = true →
         ∃ t : State, exec (.remoteWriteArrival w) s = .next t ∧
           (∀ j (h : j < n), rdByte t.mem (w.tile * 2 ^ 20 + w.addr + j) = w.data[j].1) ∧
           Rules.memKept s t (w.tile * 2 ^ 20 + w.addr) n) ∧
       (s.portWaits w.tile w.addr n = false → (s.tileAt w.tile).heldW.length < 16 →
         (s.tileAt w.tile).holdsWrite w.addr n w.src w.kind = true →
         ∃ t : State, exec (.remoteWriteArrival w) s = .next t ∧ Rules.onlyTile s t w.tile ∧
           (t.tileAt w.tile).heldW.length = (s.tileAt w.tile).heldW.length + 1) ∧
       (s.portWaits w.tile w.addr n = false → 16 ≤ (s.tileAt w.tile).heldW.length → w.kind ≠ 1 →
         exec (.remoteWriteArrival w) s = .next { s with agenda := s.agenda ++ [.remoteWriteArrival w] }))) ∧
    (let t := s.tileAt tile
     let bad := x.toNat % 4 = 3 ∨ 2 ^ 34 ≤ x.toNat ∨ x.toNat / 64 % 8 ≠ 0
     (bad → exec (.trcWrite tile x) s = .next (s.told false)) ∧
     (¬ bad → ∃ u : State, exec (.trcWrite tile x) s = .next (u.told true) ∧ Rules.onlyTile s u tile ∧
       (u.tileAt tile).trcMode = x.toNat % 4 ∧ (u.tileAt tile).trcR = x.toNat / 2 ^ 18 % 256 ∧
       (u.tileAt tile).trcDiv = (t.trcDiv && !x.getLsbD 5) ∧
       (u.tileAt tile).trcFov = (t.trcFov && !x.getLsbD 4) ∧
       (u.tileAt tile).trcRov = (t.trcRov && !x.getLsbD 3)))

/-! ### Commands, requests and walks (R218, R219, R234, R238 to R249, R255, R298 to R305, R331) -/

/-- A command is active in a tile's engine with one request, and nothing bars that request at its home: its turn
has come, the home is reachable, no page of it is locked, and a tile's bank is awake. -/
def Sys2Proof.Rules.atHome (s : State) (tile no : Nat) (a : XAct) (r : XReq) (kid k : Nat) : Prop :=
  (s.tileAt tile).act? no = some a ∧ a.reqs = [r] ∧ r.owes = 0 ∧ 0 < r.len ∧ s.goal tile a r = some (kid, k) ∧
    s.gate tile no a r k = none

/-- The SRAM port of a tile performs writes as they come: no replay, nothing held. -/
def Sys2Proof.Rules.openPort (s : State) (tile : Nat) : Prop :=
  (s.tileAt tile).trcMode = 0 ∧ (s.tileAt tile).heldW = [] ∧ s.mem.wf = true

/-- R218, R234, R238, R239, R249, R255, R300, R305, R331. The start of a command takes it off its queue: a transfer
enters the active table, `swset` writes its word, `ctstat` reads its entry, `ctarm` arms it; a prepared transfer
sends its next request, of 128 bytes at most; a replayed or redirected command is translated and resolved again
from its restart point. An engine that is stopped starts nothing. Read as log 35 says. -/
def Obligations.EnginesStartAndSendCommands : Prop :=
  ∀ (s : State) (tile no : Nat),
    let t := s.tileAt tile
    (s.engineGo tile = false →
      Rules.idles (.exchangeCommandStart tile) s ∧ Rules.idles (.requestInject tile no) s) ∧
    (16 ≤ t.active → Rules.idles (.exchangeCommandStart tile) s) ∧
    (∀ r st c rest, s.engineGo tile = true → t.active < 16 →
      (t.strands.filter fun p => s.headReady tile p.2) = [(r, st)] → s.strandAt tile r = st →
      st.exiting = false → st.xq = c :: rest →
      ∃ u : State, exec (.exchangeCommandStart tile) s = .next u ∧ (u.strandAt tile r).xq = rest ∧
        (u.tileAt tile).xlast = t.xlast.filter (· != r) ++ [r] ∧
        (c.kind ∈ [XKind.get, .put, .cpy, .mc, .st, .ld, .ldlq, .send] → c.len ≠ 0 →
          ∃ a : XAct, (u.tileAt tile).xact = t.xact ++ [a] ∧ a.cmd = c ∧ a.counted = c.from0 ∧
            a.nxt = c.from0 ∧ a.reqs = [] ∧ u.mem = s.mem) ∧
        (∀ g w, c.kind = .swset g → c.sw = some w → s.mem.wf = true →
          u.ldNum tile w 4 = c.arg % 2 ^ 32 ∧ (u.tileAt tile).xact = t.xact) ∧
        (∀ d, c.kind = .ctstat → c.ri = r → c.d = some d → isG d = true → opIdx d ≠ 0 →
          (u.strandAt tile r).rg (opIdx d) = (s.entryAt c.arg).word) ∧
        (∀ f, c.kind = .ctarm f →
          (u.entryAt c.arg).armed = c.sw.map fun w => (tile, w, t.kernel.getD 0))) ∧
    (∀ a, t.act? no = some a → s.engineGo tile = true → a.replay = false → a.walking = false →
      a.redir = false → a.prep = true → a.held = none → a.ended = false → a.stampLeft = false →
      a.cmd.kind ∈ [XKind.get, .cpy, .mc, .ld, .ldlq] → a.nxt < a.cmd.len →
      s.sendOut? tile no a = none → s.sidesKnown tile a = true →
      s.orderLets tile a (a.cmd.kind == .mc) a.nxt a.pieceLen = true → a.lim = none →
      (∀ k, s.slotClass tile a = some k → t.land.val 0 k < 8) →
      ∃ (u : State) (b : XAct) (r : XReq), exec (.requestInject tile no) s = .next u ∧
        (u.tileAt tile).act? no = some b ∧ b.reqs = a.reqs ++ [r] ∧ b.nxt = a.nxt + r.len ∧
        r.off = a.nxt ∧ 1 ≤ r.len ∧ r.len ≤ 128 ∧ r.phase = .injected ∧ u.mem = s.mem) ∧
    (∀ a, t.act? no = some a → a.redir = true →
      ∃ (u : State) (b : XAct), exec (.redirectNoticeReceived tile no) s = .next u ∧
        Rules.onlyTile s u tile ∧ (u.tileAt tile).act? no = some b ∧ b.redir = false ∧
        (a.srcO.isSome = true ∨ a.dstO.isSome = true → b.prep = false)) ∧
    (∀ a, t.act? no = some a → a.redir = false → Rules.idles (.redirectNoticeReceived tile no) s) ∧
    (∀ a, t.act? no = some a → a.replay = true → (∀ r ∈ a.reqs, r.phase = .done ∨ r.phase = .buffered) →
      ∃ (u : State) (b : XAct), exec (.replayRetranslate tile no) s = .next u ∧
        (u.tileAt tile).act? no = some b ∧ b.cmd = a.cmd ∧ b.held = none ∧ b.replay = false ∧
        b.nxt = a.counted ∧ b.wnxt = a.counted ∧ b.counted = a.counted ∧ b.reqs = [] ∧ b.pages = [] ∧
        b.prep = false) ∧
    (∀ a, t.act? no = some a → a.replay = false → Rules.idles (.replayRetranslate tile no) s)

/-- R247. What operation n does at its home k for a block with control word 0 (`.chase`: KOFF, NOFF and HM) and a target
without poison: RES, the 32 bytes returned, the bytes written there in their order. `loc` gives the place that a
pointer reaches inside the page or object. The nodes of a `.chase` are those of `path`. -/
def Sys2Proof.Rules.operation (s : State) (n kid k node : Nat) (loc : Nat → Option Nat) (blk : List PByte) : Prop :=
  let o := s.agentOp n kid k node loc blk
  let ctl := numAt blk 0 8
  let x := numAt blk 8 8
  let old := s.rdP kid k (xopSize n)
  (n < 6 → ctl ≠ 0 → o.res = 7 ∧ o.writes = []) ∧
  (ctl = 0 → anyP old = false →
    (n = 0 → o.res = 0 ∧ o.data = pad32 old ∧ o.writes = [(k, word8 (numAt old 0 8 + x) false)]) ∧
    (n = 1 →
      let c := numAt old 0 32
      let r := fixAdd (BitVec.ofNat 192 c) false (x % 2 ^ 32)
      o.res = (if r.2 then 6 else 0) ∧ o.data = pad32 [] ∧
        o.writes = [(k, clean (natToBytes 32 (cellPut c r.1 (c.testBit 192 || r.2))))]) ∧
    (∀ w, (n, w) ∈ [(2, 8), (3, 16), (4, 32)] → o.data = pad32 old ∧
      (old.map (·.1) = ((blk.drop 8).take w).map (·.1) →
        o.res = 0 ∧ o.writes = [(k, clean (((blk.drop 40).take w).map (·.1)))]) ∧
      (old.map (·.1) ≠ ((blk.drop 8).take w).map (·.1) → o.res = 1 ∧ o.writes = [])) ∧
    (n = 5 →
      let tail := numAt old 8 8
      let cnt := numAt old 16 8
      let apart := fun a => a + 8 ≤ k ∨ k + 32 ≤ a
      (o.data = pad32 (word8 cnt false) ∨ o.res = 5) ∧
      ((x % 8 ≠ 0 ∨ loc x = none ∨ (cnt ≠ 0 ∧ loc tail = none)) → o.res = 3 ∧ o.writes = []) ∧
      (∀ a, x % 8 = 0 → loc x = some a → apart a → cnt = 0 → o.res = 0 ∧
        o.writes = [(a, word8 0 false), (k, word8 x false),
          (k, word8 x false ++ word8 x false ++ word8 1 false ++ old.drop 24)]) ∧
      (∀ a b, x % 8 = 0 → loc x = some a → apart a → cnt ≠ 0 → loc tail = some b → apart b →
        (s.rd8 kid b).2 = false → o.res = 0 ∧
        o.writes = [(a, word8 0 false), (b, word8 x false),
          (k, old.take 8 ++ word8 x false ++ word8 (cnt + 1) false ++ old.drop 24)]))) ∧
  (let koff := ctl % 2 ^ 16
   let noff := ctl / 2 ^ 16 % 2 ^ 16
   let hm := ctl / 2 ^ 32 % 2 ^ 4
   let bad := 2 ^ 36 ≤ ctl ∨ koff % 8 ≠ 0 ∨ noff % 8 ≠ 0
   n = 6 → o.writes = [] ∧ (bad → o.res = 7) ∧
   ∀ (path : Nat → Nat) (h : Nat), ¬ bad → path 0 = node → h ≤ hm →
     (∀ i, i < h → path (i + 1) ≠ 0 ∧ ∃ a b y, loc (path i + koff) = some a ∧ loc (path i + noff) = some b ∧
       s.rd8 kid a = (y, false) ∧ y ≠ x ∧ s.rd8 kid b = (path (i + 1), false)) →
     ((loc (path h + koff) = none ∨ loc (path h + noff) = none) →
       o.res = 3 ∧ o.hops = h ∧ o.data = pad32 (word8 (path h) false)) ∧
     ∀ a b y z, loc (path h + koff) = some a → loc (path h + noff) = some b → s.rd8 kid a = (y, false) →
       s.rd8 kid b = (z, false) →
       (y = x → o.res = 0 ∧ o.hops = h ∧ o.data = pad32 (word8 (path h) false)) ∧
       (y ≠ x → z = 0 → o.res = 2 ∧ o.hops = h + 1 ∧ o.data = pad32 (word8 (path h) false)) ∧
       (y ≠ x → z ≠ 0 → h = hm → o.res = 4 ∧ o.hops = h + 1 ∧ o.data = pad32 (word8 z false)))

/-- R208, R225, R239, R243, R246, R247. Requests at their homes: a read takes the bytes on their way back; a write to
another memory than SRAM is journaled and stored; an operation runs as one access with the result of its table, and
`.add` stores the sum and returns RES 0 and the old value; a multicast packet reaches the SRAM of its tile. Read as
log 35 says. -/
def Obligations.HomesPerformRequests : Prop :=
  ∀ (s : State) (tile no : Nat) (a : XAct) (r : XReq) (kid k : Nat), Rules.atHome s tile no a r kid k →
    (a.cmd.kind ∈ [XKind.get, .ld, .ldlq] → keyType k ≠ 0 →
      ∃ (u : State) (b : XAct), exec (.homeAccess tile no) s = .next u ∧
        (u.tileAt tile).act? no = some b ∧
        b.reqs = [{ r with data := s.readCut a r.off r.len kid k, phase := .performed }] ∧ u.mem = s.mem) ∧
    (a.frags = [] → s.readCut a r.off r.len kid k = s.rdP kid k r.len) ∧
    (a.cmd.kind ∈ [XKind.put, .st, .send] → keyType k ≠ 0 → keyType k ≠ 6 → s.awaitsNext tile a r k = false →
      r.data.length = r.len →
      ∃ (u : State) (b : XAct) (q : XReq), exec (.homeAccess tile no) s = .next u ∧
        (u.tileAt tile).act? no = some b ∧ b.reqs = [q] ∧ q.phase = .written ∧ q.cnt = r.len ∧
        u.mem = (s.homeWrite tile kid k r.data).mem) ∧
    (a.cmd.kind ∈ [XKind.put, .st, .send] → keyType k = 0 → Rules.openPort s (k / 2 ^ 20) →
      s.gatedAt (k / 2 ^ 20) (k % 2 ^ 20) r.len = false → s.awaitsNext tile a r k = false →
      r.data.length = r.len →
      ∃ u : State, exec (.homeAccess tile no) s = .next u ∧
        (∀ j (h : j < r.data.length), rdByte u.mem (k + j) = r.data[j].1) ∧
        Rules.memKept s u k r.data.length) ∧
    (∀ n, a.cmd.kind = .xop n → keyType k ≠ 0 →
      exec (.xopExecute tile no) s = .next ((s.opRun tile no).crossed k)) ∧
    (a.cmd.kind = .xop 0 → r.off = 0 → keyType k ≠ 0 → numAt a.block 0 8 = 0 → anyP (s.rdP kid k 8) = false →
      ∃ (u : State) (b : XAct) (q : XReq), exec (.xopExecute tile no) s = .next u ∧
        (u.tileAt tile).act? no = some b ∧ b.reqs = [q] ∧ q.phase = .performed ∧
        q.data = word8 0 false ++ pad32 (s.rdP kid k 8) ∧
        u.mem = (s.homeWrite tile kid k
          (word8 (numAt (s.rdP kid k 8) 0 8 + numAt a.block 8 8) false)).mem) ∧
    (∀ n node loc blk, Rules.operation s n kid k node loc blk) ∧
    (∀ x w, a.cmd.kind = .mc → a.cmd.dst = .loc x → keyType k ≠ 0 → s.mcTiles tile a.cmd.arg = [w] →
      s.landDrops w (x + r.off) r.len = false → s.portWaits w (x + r.off) r.len = false →
      Rules.openPort s w → s.awaitsNext tile a r (x + r.off) = false →
      ∃ u : State, exec (.multicastPacket tile no) s = .next u ∧
        (∀ j (h : j < (s.readCut a r.off r.len kid k).length), j < r.len →
          rdByte u.mem (w * 2 ^ 20 + x + r.off + j) = (s.readCut a r.off r.len kid k)[j].1) ∧
        Rules.memKept s u (w * 2 ^ 20 + x + r.off) r.len)

/-- R219, R239, R242, R249, R296, R300. The way back: a response lands in the tile's SRAM or in the place of its
load queue; a write that is performed is acknowledged; a chunk whose requests are all done is counted into the
sync word, the last one ends the command; a walk that reaches a leaf fills the TLBs and its waiters go on, and
one that fails leaves a fault entry. Read as log 35 says. -/
def Obligations.ResponsesLandAndCount : Prop :=
  ∀ (s : State) (tile no : Nat),
    let t := s.tileAt tile
    (∀ a r x, t.act? no = some a → a.reqs = [r] → r.phase = .performed → s.parkOn tile = false →
      (a.cmd.kind = .ld ∨ (a.cmd.kind = .get ∧ a.wnxt = r.off ∧ r.data.length = r.len ∧ 0 < r.len ∧
        (r.off + r.len = a.cmd.len ∨ (x + r.off + r.len) % 8 = 0))) → a.cmd.dst = .loc x →
      s.landWaits tile (x + r.off) r.len = false → Rules.openPort s tile →
      ∃ (u : State) (b : XAct) (q : XReq), exec (.responseLanding tile no) s = .next u ∧
        (∀ j (h : j < r.data.length), rdByte u.mem (tile * 2 ^ 20 + x + r.off + j) = r.data[j].1) ∧
        Rules.memKept s u (tile * 2 ^ 20 + x + r.off) r.data.length ∧
        (u.tileAt tile).act? no = some b ∧ b.reqs = [q] ∧ q.phase = .done ∧ q.cnt = r.len) ∧
    (∀ a r q pre rest, t.act? no = some a → a.reqs = [r] → r.phase = .performed → a.cmd.kind = .ldlq →
      s.parkOn tile = false → (s.strandAt tile a.cmd.ri).lqOf q = pre ++ .land no :: rest → QPlace.land no ∉ pre →
      QPlace.land no ∉ rest →
      ∃ u : State, exec (.responseLanding tile no) s = .next u ∧
        (u.strandAt tile a.cmd.ri).lqOf q =
          pre ++ .held (BitVec.ofNat 64 (numAt r.data 0 8)) (anyP r.data) :: rest ∧ u.mem = s.mem) ∧
    (∀ a, t.act? no = some a → (∀ r ∈ a.reqs, r.phase ≠ .performed) →
      Rules.idles (.responseLanding tile no) s) ∧
    (∀ a r, t.act? no = some a → a.reqs = [r] → r.phase = .written →
      ∃ (u : State) (b : XAct), exec (.acknowledgementReceived tile no) s = .next u ∧
        Rules.onlyTile s u tile ∧ (u.tileAt tile).act? no = some b ∧
        b.reqs = [{ r with phase := .done, lost := s.parkOn tile }]) ∧
    (∀ a, t.act? no = some a → (∀ r ∈ a.reqs, r.phase ≠ .written) →
      Rules.idles (.acknowledgementReceived tile no) s) ∧
    (∀ a, t.act? no = some a → a.cmd.kind ≠ .ctready → a.counted < a.cmd.len → a.held = none → a.ended = false →
      a.cmd.rsw = none → a.relRem = [] → a.cmd.rel = false →
      (∀ r ∈ a.reqs, r.phase = .done ∧ r.lost = false ∧ r.rem = []) → a.chunkEnd ≤ a.nxt →
      (a.cmd.kind = .cpy → a.chunkEnd ≤ a.wnxt) → s.localLeft tile a.cmd.ri a.cmd.pos = false → (∀ w, a.cmd.sw = some w → s.landWaits tile w 16 = false) →
      a.relErr = false → (∀ r ∈ a.reqs, r.err = false) → (s.strandAt tile a.cmd.ri).exiting = false →
      let rs := a.reqs.filter fun r => decide (r.off < a.chunkEnd)
      ∃ u : State, exec (.chunkComplete tile no) s = .next u ∧
        u.mem = (s.countOwn tile a.cmd (a.relCnt + (rs.map (·.cnt)).sum)
          (a.relPois || rs.any (·.pois))).mem ∧
        (a.chunkEnd = a.cmd.len → (u.tileAt tile).act? no = none) ∧
        (a.chunkEnd ≠ a.cmd.len → ∃ b : XAct, (u.tileAt tile).act? no = some b ∧
          b.counted = a.chunkEnd ∧ b.reqs = a.reqs.filter fun r => decide (a.chunkEnd ≤ r.off))) ∧
    (∀ a, t.act? no = some a → a.cmd.len ≤ a.counted → a.ended = false → Rules.idles (.chunkComplete tile no) s) ∧
    (∀ die i m, (s.dieAt die).miss.val? i = some m → m.fault = none → s.plane.halt = false →
      (∀ e lvl key, s.walk m.asid m.va = .leaf e lvl key → s.keyAlias die e = false →
        (∀ w ∈ m.waits, s.waitFault m.va e w = none) →
        ∃ u : State, exec (.pageWalkComplete die i) s = .next u ∧
          (∀ w ∈ m.waits, ∀ b ∈ (u.tileAt w.1).xact, b.cmd.no = w.2 → b.walking = false) ∧
          u.mem = s.mem) ∧
      (∀ e lvl key w sub b, s.walk m.asid m.va = .leaf e lvl key → s.keyAlias die e = false → m.waits = [w] →
        dieOfTile w.1 = die → s.waitFault m.va e w = some (2, sub) → (s.tileAt w.1).act? w.2 = some b →
        b.failing = false → b.stop ≤ b.nxt → b.held = none → (∀ r, (s.dieAt die).sameFault r = none) →
        ∃ (u : State) (b' : XAct) (r : FaultRec), exec (.pageWalkComplete die i) s = .next u ∧
          (u.tileAt w.1).act? w.2 = some b' ∧ b'.walking = false ∧ b'.held = some r ∧ r.cause = 2 ∧ r.sub = sub ∧
          r.lvl = lvl) ∧
      (∀ c sub lvl w, s.walk m.asid m.va = .bad c sub lvl → m.waits = [w] →
        (∀ b, (s.tileAt w.1).act? w.2 = some b → b.failing = false ∧ b.stop ≤ b.nxt) →
        (∀ r : FaultRec, (s.dieAt die).sameFault r = none) →
        ∃ (u : State) (x : Miss) (r : FaultRec), exec (.pageWalkComplete die i) s = .next u ∧
          (u.dieAt die).miss.val? i = some x ∧ x.fault = some r ∧ r.asid = m.asid ∧ r.cause = c ∧
          r.sub = sub ∧ r.lvl = lvl ∧ x.waits = m.waits)) ∧
    (∀ die i, ((s.dieAt die).miss.val? i = none ∨ s.plane.halt = true) → Rules.idles (.pageWalkComplete die i) s)

/-! ### Barriers (R198 to R210, R229, R262, R363 to R365, R389) -/

/-- The tiles and strands of a domain are each listed once. -/
def Sys2Proof.Rules.listed (s : State) (level dom : Nat) : Prop :=
  s.tiles.keys.Nodup ∧ ∀ x ∈ s.domStrands level dom, s.strandAt x.1 x.2.1 = x.2.2

/-- R198, R199, R204, R206 to R210. A normal completion: SSC of the level advances by one in every tile of the
domain, the conditions and the pending code clear, and every strand that stood at this level by `sync` is
runnable, its D to take the reduction. An aborted completion of levels 1 to 4 with a code that does not
escalate: SSC advances, the tiles take the abort record, and every strand goes on at its abort PC with the code
in `g1`, those that have suspended as runnable records; where an expired timer has first to end the drain, the step
does that. A rollback gives a journaled line its bytes again. Read
as log 36 says. -/
def Obligations.BarriersCompleteOrAbort : Prop :=
  (∀ (s : State) (level dom : Nat),
     (s.completeDue level dom = false → Rules.idles (.barrierComplete level dom []) s) ∧
     (s.completeDue level dom = true → Rules.listed s level dom → (∀ r ∈ s.routes, r.1 = s.slotOf (domKern dom) → r.2.st ≠ 3) →
       ∃ t : State, exec (.barrierComplete level dom []) s = .next t ∧
         (∀ n u, (n, u) ∈ s.domTiles level dom →
           (t.tileAt n).ssc.val 0 level = u.ssc.val 0 level + 1 ∧
           ∀ l, l ≠ level → (t.tileAt n).ssc.val 0 l = u.ssc.val 0 l) ∧
         (t.domAt level dom).ssn = (s.domAt level dom).ssn + 1 ∧ (t.domAt level dom).conds = [] ∧
         (t.domAt level dom).pend = 0 ∧
         ∀ x ∈ s.domStrands level dom, ∀ a, x.2.2.arrival = some a → a.scp = level →
           (t.strandAt x.1 x.2.1).kind = 1 ∧ (t.strandAt x.1 x.2.1).arrival = none ∧
           (t.strandAt x.1 x.2.1).resume = [(a.d, (reduceShares (s.shares level dom)).1,
             (reduceShares (s.shares level dom)).2)] ∧
           x.2.1 ∈ (t.tileAt x.1).ready)) ∧
  (∀ (s : State) (level dom : Nat),
     let d := s.domAt level dom
     let fin := d.final (s.verdict level dom)
     (s.abortDue level dom = false → Rules.idles (.abortedCompletion level dom []) s) ∧
     (s.drainCut level dom = true → s.outcast level dom = false →
       exec (.abortedCompletion level dom []) s = .next (s.cutDrain level dom)) ∧
     (s.abortDue level dom = true → s.drainCut level dom = false → level ≤ 4 → fin.1 < 0x80 →
       Rules.listed s level dom →
       ∃ t : State, exec (.abortedCompletion level dom []) s = .next t ∧
         (∀ n u, (n, u) ∈ s.domTiles level dom →
           (t.tileAt n).ssc.val 0 level = u.ssc.val 0 level + 1 ∧
           (t.tileAt n).arec.val 0 level =
             BitVec.ofNat 64 (d.ssn.toNat * 2 ^ 32 + fin.2 % 2 ^ 18 * 256 + fin.1 % 256)) ∧
         (∀ x ∈ s.domStrands level dom, x.2.2.slot.isSome = true → x.2.2.leaving = false →
           (t.strandAt x.1 x.2.1).slot = x.2.2.slot ∧ (t.strandAt x.1 x.2.1).pc = x.2.2.abortPc ∧
           (t.strandAt x.1 x.2.1).rg 1 = BitVec.ofNat 64 fin.1 ∧
           (t.strandAt x.1 x.2.1).acode = BitVec.ofNat 8 fin.1) ∧
         (∀ x ∈ s.domStrands level dom, (x.2.2.slot = none ∨ x.2.2.leaving = true) →
           (t.strandAt x.1 x.2.1).kind = 1 ∧ (t.strandAt x.1 x.2.1).pc = x.2.2.abortPc ∧
           (t.strandAt x.1 x.2.1).resume.getLast? = some (1, BitVec.ofNat 64 fin.1, false) ∧
           (t.strandAt x.1 x.2.1).arrival = none ∧ x.2.1 ∈ (t.tileAt x.1).ready)) ∧
     (∀ u, d.nab = false → s.mem.wf = true → s.mirrorOf u.line = none → u.data.length = 32 →
       (s.dies.flatMap fun x => x.2.journal.filter (undoes level dom d.ssn)) = [u] →
       (∀ j (h : j < u.data.length), rdByte (s.rollback level dom).mem (u.line + j) = u.data[j]) ∧
         Rules.memKept s (s.rollback level dom) u.line 32))

/-- R206, R229, R363, R365. Timers, probes and the flush: the expiry of a timer whose own parties are missing adds
condition 0x44 with the lowest missing tile; a member that does not answer its probe is lost, the own package
takes ST 2; held writes are performed where a park or a group barrier waits for nothing else, and DIV is set.
Read as log 36 and log 53 say. -/
def Obligations.TimersProbesAndFlushesTakeEffect : Prop :=
  ∀ (s : State) (level dom slot tile : Nat) (answered : Bool),
    let d := s.domAt level dom
    (d.trun = false → Rules.idles (.barrierTimeout level dom) s) ∧
    (d.trun = true → d.tmo ≠ 0 → d.expired = false → s.preempted level dom = false →
      s.ownArrived level dom = false →
      ∃ t : State, exec (.barrierTimeout level dom) s = .next t ∧
        (t.domAt level dom).expired = true ∧ (t.domAt level dom).trun = false ∧
        (t.domAt level dom).conds = d.conds ++ [(0x44,
          ((s.domTiles level dom).filter fun u => !u.2.arrived level).foldl
            (fun m u => min m u.1) (2 ^ 18 - 1))] ∧ t.tiles = s.tiles ∧ t.mem = s.mem) ∧
    (s.isOwn slot = false → s.probed slot = false → Rules.idles (.livenessProbeExpiry slot answered) s) ∧
    (s.isOwn slot = false → s.probed slot = true → s.lost.contains slot = false →
      exec (.livenessProbeExpiry slot false) s = .next { s with lost := s.lost ++ [slot] }) ∧
    (s.isOwn slot = true → ∃ t : State, exec (.livenessProbeExpiry slot false) s = .next t ∧
      (t.routes.val {} slot).st = 2 ∧ { t with routes := s.routes } = s) ∧
    ((s.tileAt tile).heldW = [] → Rules.idles (.thymeHeldFlush tile) s) ∧
    (∀ h, (s.tileAt tile).heldW = [h] → h.w.tile = tile → h.op = false → h.src = none →
      ((s.tileAt tile).parkWhy ≠ 0 ∨ s.onlyHeld (s.domOf 2 tile) = true) → s.mem.wf = true →
      ∃ t : State, exec (.thymeHeldFlush tile) s = .next t ∧ (t.tileAt tile).heldW = [] ∧
        (t.tileAt tile).trcDiv = true ∧
        (∀ j (k : j < h.w.data.length), rdByte t.mem (tile * 2 ^ 20 + h.w.addr + j) = h.w.data[j].1) ∧
        Rules.memKept s t (tile * 2 ^ 20 + h.w.addr) h.w.data.length)

/-! ### Chervil: migrations, relocations, compactions, forwards, descriptors (R307, R311, R327, R329 to R332) -/

/-- R307, R311, R327, R329 to R332. A migration copies one chunk at a step with its poison to the new frame; with
every chunk copied it commits, and the entry of the page is the new leaf, unlocked; when every notice has been
received it leaves; one whose new home cannot be reached puts the old leaf back. A move of an object does the
same with its entries; a compaction with no object left sets NEXT and ends; a flip frees its old forwards and
then finishes; a descriptor that keeps the rules is written for a region at rest; a halted plane does none of it, and a
relocation whose new home cannot be reached is abandoned. That a migration copies 4 KiB
at a step is the model's choice (log 39); relocations are read as log 40 says. -/
def Obligations.MigrationsAndRelocationsGoOn : Prop :=
  (∀ (s : State) (i rg : Nat) (xs : List (BitVec 64)), s.plane.halt = true →
     Rules.idles (.migrationCopyChunk i) s ∧ Rules.idles (.migrationCommit i) s ∧ Rules.idles (.migrationRelease i) s ∧
       Rules.idles (.migrationAbandon i) s ∧ Rules.idles (.relocationChunkCopy i) s ∧
       Rules.idles (.relocationCommit i) s ∧ Rules.idles (.relocationRelease i) s ∧ Rules.idles (.compactionEnd i) s ∧
       Rules.idles (.forwardFree rg) s ∧ exec (.regionDescriptorWrite rg xs) s = .next (s.told false)) ∧
  (∀ (s : State) (i : Nat), s.plane.halt = false →
     (∀ m, s.chervil.val? i = some (.migr m) → m.committed = false →
       (s.newHome m = true → m.cur < m.chunks →
         ∃ t : State, exec (.migrationCopyChunk i) s = .next t ∧
           t.chervil.val? i = some (.migr { m with cur := m.cur + 1 }) ∧
           t.mem = (s.copyBytes (pteKey m.old) ((s.frameOf m.old).1 + 4096 * m.cur) (pteKey m.new)
             ((s.frameOf m.new).1 + 4096 * m.cur) 4096).mem) ∧
       (s.newHome m = true → m.chunks ≤ m.cur → m.again = [] → Rules.idles (.migrationCopyChunk i) s ∧
         ∃ t : State, exec (.migrationCommit i) s = .next t ∧
           t.chervil.val? i = some (.migr { m with committed := true }) ∧
           t.mem = (s.putLeaf m.leafKey (withMl m.new false)).mem ∧
           ∀ d x, x ∈ (s.dieAt d).tlb → s.sameFrame x.leaf m.old = true → x.covers m.asid m.va = true →
             x.log ≤ psLog (ptePS m.old) →
             mkXlate x.asid x.va (withMl m.new false) ∈ (t.dieAt d).tlb) ∧
       (m.cur < m.chunks → Rules.idles (.migrationCommit i) s) ∧
       (s.newHome m = true → Rules.idles (.migrationAbandon i) s) ∧
       (s.newHome m = false → m.sw = none →
         ∃ t : State, exec (.migrationAbandon i) s = .next t ∧ t.chervil.val? i = none ∧
           t.mem = (s.putLeaf m.leafKey (withMl m.old false)).mem) ∧
       Rules.idles (.migrationRelease i) s) ∧
     (∀ m, s.chervil.val? i = some (.migr m) → m.committed = true →
       (s.noticed = false → Rules.idles (.migrationRelease i) s) ∧
       (s.noticed = true →
         ∃ t : State, exec (.migrationRelease i) s = .next t ∧ t.chervil.val? i = none ∧
           (m.sw = none → t.mem = s.mem)))) ∧
  (∀ (s : State) (i rg : Nat) (xs : List (BitVec 64)), s.plane.halt = false →
     (∀ r, s.chervil.val? i = some (.move r) → r.committed = false →
       (s.reaches (pkgOfKey r.new) = false →
         exec (.relocationChunkCopy i) s = .next (s.relocAbandon i) ∧ Rules.idles (.relocationCommit i) s) ∧
       (s.reaches (pkgOfKey r.new) = true → r.cur < chunksOf r.size →
         ∃ t : State, exec (.relocationChunkCopy i) s = .next t ∧
           t.chervil.val? i = some (.move { r with cur := r.cur + 1 }) ∧
           t.mem = (s.copyBytes (s.heapAt r.rg).key (r.old + 4096 * r.cur) (s.heapAt r.rg2).key
             (r.new + 4096 * r.cur) 4096).mem) ∧
       (r.cur < chunksOf r.size → Rules.idles (.relocationCommit i) s) ∧
       (s.reaches (pkgOfKey r.new) = true → chunksOf r.size ≤ r.cur → Rules.idles (.relocationChunkCopy i) s ∧
         ∃ t : State, exec (.relocationCommit i) s = .next t ∧
           t.chervil.val? i = some (.move { r with committed := true }) ∧
           t.mem = (s.commitEnts (.move r) r).mem) ∧
       Rules.idles (.relocationRelease i) s) ∧
     (∀ r, s.chervil.val? i = some (.move r) → r.committed = true →
       (s.noticed = false → Rules.idles (.relocationRelease i) s) ∧
       (s.noticed = true →
         ∃ t : State, exec (.relocationRelease i) s = .next t ∧ t.chervil.val? i = none ∧
           t.mem = s.mem)) ∧
     (s.chervil.val? i = some (.compact rg [] none) →
       ∃ t : State, exec (.compactionEnd i) s = .next t ∧ t.chervil.val? i = none ∧
         (t.heapAt rg).next = (s.stored rg []).foldl (fun m x => max m (x.1 + x.2)) 0 ∧ t.mem = s.mem) ∧
     (∀ obj todo, s.chervil.val? i = some (.compact rg (obj :: todo) none) →
       Rules.idles (.compactionEnd i) s ∧
       ((s.rdEnt rg obj).pin ≠ 0 →
         ∃ t : State, exec (.relocationChunkCopy i) s = .next t ∧
           t.chervil.val? i = some (.compact rg todo none) ∧ t.mem = s.mem)) ∧
     ((s.heapAt rg).flipping = false → Rules.idles (.forwardFree rg) s) ∧
     (∀ n, (s.heapAt rg).flipping = true → s.oldForward rg = some n →
       exec (.forwardFree rg) s = .next (s.freeEnt rg n)) ∧
     ((s.heapAt rg).flipping = true → s.oldForward rg = none →
       ∃ t : State, exec (.forwardFree rg) s = .next t ∧ (t.heapAt rg).flipping = false ∧
         { t with heaps := s.heaps } = s) ∧
     (¬ (rg < 64 ∧ heapWordsOk xs = true ∧ s.heapIdle rg = true) →
       exec (.regionDescriptorWrite rg xs) s = .next (s.told false)) ∧
     (rg < 64 → heapWordsOk xs = true → s.heapIdle rg = true →
       ∃ t : State, exec (.regionDescriptorWrite rg xs) s = .next (t.told true) ∧
         (let h := t.heapAt rg
          let w := fun n => (xs.getD n 0).toNat
          h.asid = w 0 / 2 ^ 48 ∧ h.key = w 0 / 2 ^ 35 % 2 ^ 13 ∧ h.v = (w 0).testBit 34 ∧ h.tt = w 0 / 2 ^ 30 % 8 ∧
            h.win = xs.getD 1 0 ∧ h.nobj = w 2 / 2 ^ 32 ∧ h.otbase = w 3 % 2 ^ 39 ∧
            h.abase = w 4 % 2 ^ 47 ∧ h.asize = w 5 % 2 ^ 32 ∧ h.col = false ∧ h.epoch = 0 ∧ h.next = 0) ∧
         ∀ n, n ≠ rg → t.heapAt n = s.heapAt n))

/-! ### Launches, parks and contexts (R268 to R270, R273, R274, R276 to R285, R290) -/

/-- R268, R270, R273, R274. Launches: a notification that keeps the ring's rules adds its records with the next
tickets; the record at the head of the queue served next becomes a kernel that waits, or a rejection event with
its status; a kernel whose groups are free starts on all of them together, with one entry strand in each tile.
Read as logs 27 and 38 say. -/
def Obligations.LaunchesEnterAndStart : Prop :=
  ∀ (s : State) (q tail asid k : Nat),
    (let r := s.lq.val {} q
     let n := r.size.toNat
     let held := (r.tail.toNat + n - r.head.toNat) % n
     let add := (tail + n - r.tail.toNat) % n
     (s.plane.halt = true → Rules.idles (.launchNotify q tail asid) s) ∧
     (s.plane.halt = false → (3 < q ∨ 2 ^ 16 ≤ tail) → exec (.launchNotify q tail asid) s = .next (s.told false)) ∧
     (s.plane.halt = false → q ≤ 3 → tail < 2 ^ 16 → (n = 0 ∨ n ≤ tail ∨ n - 1 < held + add) →
      exec (.launchNotify q tail asid) s = .next (s.told true)) ∧
     (s.plane.halt = false → q ≤ 3 → 0 < n → tail < n → held + add ≤ n - 1 →
      ∃ t : State, exec (.launchNotify q tail asid) s = .next (t.told true) ∧
        (t.lq.val {} q).tail = BitVec.ofNat 16 tail ∧
        (t.lq.val {} q).recs = r.recs ++ (List.range add).map (fun i =>
          ((s.tickets.val 0 q + i) % 2 ^ 32, asid % 2 ^ 16)) ∧
        t.tickets.val 0 q = (s.tickets.val 0 q + add) % 2 ^ 32 ∧ t.mem = s.mem)) ∧
    ((s.plane.halt = true ∨ s.nextQueue = none) → Rules.idles .launchRecordTake s) ∧
    (∀ kq tk who, s.plane.halt = false → s.nextQueue = some q → s.nextOf q = some (kq, tk, who) →
      let h := s.readRecord q kq who
      let s1 := if kq then { s with kq := s.kq.put q (s.kq.val {} q).pop }
        else { s with lq := s.lq.put q (s.lq.val {} q).pop }
      let n := s1.hdrStatus h who
      (n = 0 → ∃ (t : State) (x : Kernel), exec .launchRecordTake s = .next t ∧
        t.kernels.val? s.nextK = some x ∧ x.phase = 0 ∧ x.asid = hdrAsid h ∧
        x.prio = max (if kq then q else 0) (hdrPrio h) ∧
        x.ticket = tk ∧ x.hdr = h ∧ t.nextK = s.nextK + 1) ∧
      (n ≠ 0 → s1.evqOk who h = true →
        exec .launchRecordTake s =
          .next ((s1.nameEvq who h).postEvent who 4 n (BitVec.ofNat 64 tk) 0 0)) ∧
      (n ≠ 0 → s1.evqOk who h = false → exec .launchRecordTake s = .next s1)) ∧
    (s.startDue k = false → Rules.idles (.launchStart k) s) ∧
    (s.startDue k = true →
      let kr := s.kernAt k
      ∃ t : State, exec (.launchStart k) s = .next t ∧ (t.kernAt k).phase = 1 ∧
        ∀ g ∈ s.groupsOf kr, (t.groupAt g).holder = some k ∧ ∀ n ∈ tilesOfGroup g,
          (t.tileAt n).kernel = some k ∧ (t.tileAt n).ready = [0] ∧ (t.tileAt n).ssc = [] ∧
          (t.tileAt n).strands.keys = [0] ∧
          (let st := t.strandAt n 0
           st.kind = 1 ∧ st.slot = none ∧ st.pc = BitVec.ofNat 64 (hdrEntry kr.hdr) ∧
             st.abortPc = BitVec.ofNat 64 (hdrAbort kr.hdr) ∧ st.sup = kr.sup ∧
             st.wid = s.entryWid kr n ∧ st.rngs = rngsStart (s.entryWid kr n) ∧
             ∀ j, j < 5 → st.rg (j + 1) = BitVec.ofNat 64 (hdrWord kr.hdr (192 + 8 * j))))

/-- R276 to R278, R281, R282, R285, R290. The end and the parks of kernels: a kernel that is done frees its groups
and leaves its context with one kernel less; a slice that ends asks for SLICE parks; a tile at rest parks with
its commands as restart records; a parked group that another kernel takes is evicted with its tiles' contexts,
which a restore puts back; the supervisor's stop asks every tile of the context for its STOP park; HEAD is written,
and the write answered. What the
parks keep and when they end is the model's reading (log 37, presumed in part; log 51). -/
def Obligations.ParksEvictionsAndRestoresGoOn : Prop :=
  ∀ (s : State) (k tile g asid : Nat),
    ((s.retirable k = false ∨ s.plane.halt = true) → Rules.idles (.retirement k) s) ∧
    (∀ c, (s.kernels.val? k).isSome = true → s.retirable k = true → s.plane.halt = false →
      s.ctxSlot (s.kernAt k).asid = some c →
      ∃ t : State, exec (.retirement k) s = .next t ∧ t.kernels.val? k = none ∧
        (t.ctxs.val {} c).nkern = (s.ctxs.val {} c).nkern - 1 ∧
        (∀ g, (s.groupAt g).holder = some k → (t.groupAt g).holder = none) ∧
        ∀ n, (s.tileAt n).kernel = some k → (t.tileAt n).kernel = none) ∧
    (((s.kernels.val? k).isSome = false ∨ (s.kernAt k).phase ≠ 1 ∨ (s.kernAt k).slice = 0 ∨ s.plane.halt = true) →
      Rules.idles (.sliceExpiry k) s) ∧
    ((s.kernels.val? k).isSome = true → (s.kernAt k).phase = 1 → (s.kernAt k).slice ≠ 0 → s.plane.halt = false →
      s.sliceDue k = false → exec (.sliceExpiry k) s = .next (s.sliceBoundary k)) ∧
    (s.sliceDue k = true →
      ∃ t : State, exec (.sliceExpiry k) s = .next t ∧ (t.kernAt k).phase = 2 ∧
        (t.kernAt k).waitNo = s.nextWait ∧
        (∀ g ∈ s.groupsOf (s.kernAt k), 2 ≤ (t.groupAt g).parking) ∧ t.mem = s.mem) ∧
    (∀ reason, s.parkDue tile reason = false → Rules.idles (.tilePark tile reason) s) ∧
    (∀ reason, s.parkDue tile reason = true → (∀ p ∈ (s.tileAt tile).strands, p.2.partner = none) →
      ∃ t : State, exec (.tilePark tile reason) s = .next t ∧ (t.tileAt tile).parkSt = 1 ∧
        (t.tileAt tile).restart = (s.tileAt tile).restart ++
          ((s.tileAt tile).xact.filter (!·.outside)).map XAct.restarts ∧
        (t.tileAt tile).xact = (s.tileAt tile).xact.filter (·.outside) ∧ (t.tileAt tile).land = [] ∧
        (t.tileAt tile).vwait = [] ∧ (t.tileAt tile).mwait = [] ∧
        ∀ r, (t.strandAt tile r).vq = 0 ∧ (t.strandAt tile r).vl = 0 ∧ (t.strandAt tile r).g = (s.strandAt tile r).g ∧
          (t.strandAt tile r).pc = (s.strandAt tile r).pc) ∧
    (s.evictDue g = false → Rules.idles (.groupEvict g) s) ∧
    (∀ h, s.evictDue g = true → (s.groupAt g).holder = some h →
      ∃ t : State, exec (.groupEvict g) s = .next t ∧ (t.groupAt g).holder = none ∧
        ∀ n ∈ tilesOfGroup g, (s.tileAt n).kernel = some h →
          (t.tileAt n).kernel = none ∧
          ∃ x ∈ t.saves, x.tile = n ∧ x.kernel = h ∧ x.img.parkSt = 2 ∧
            { x.img with parkSt := (s.tileAt n).parkSt, flips := (s.tileAt n).flips } = s.tileAt n) ∧
    (s.restore? tile = none → Rules.idles (.tileRestore tile) s) ∧
    (s.plane.halt = false → (s.tileAt tile).kernel = some k → (s.tileAt tile).parkSt = 1 →
      s.residentDue tile k = true → (s.kernAt k).phase = 1 → (s.ctxOf (s.kernAt k).asid).stop = 0 →
      (∀ w ∈ (s.ctxOf (s.kernAt k).asid).stoppers, w.1 ≠ tile) →
      ∃ t : State, exec (.tileRestore tile) s = .next t ∧ (t.tileAt tile).parkSt = 0 ∧
        (t.tileAt tile).parkWhy = 0 ∧ (t.tileAt tile).kernel = some k ∧ (t.tileAt tile).restart = []) ∧
    (∀ x, s.plane.halt = false → (s.tileAt tile).kernel = none → s.savedFor tile s.canHold = some x →
      (s.kernAt x.kernel).phase = 1 → (s.ctxOf (s.kernAt x.kernel).asid).stop = 0 →
      (∀ w ∈ (s.ctxOf (s.kernAt x.kernel).asid).stoppers, w.1 ≠ tile) →
      ∃ t : State, exec (.tileRestore tile) s = .next t ∧ (t.tileAt tile).parkSt = 0 ∧
        (t.tileAt tile).kernel = x.img.kernel ∧ (t.tileAt tile).ssc = x.img.ssc) ∧
    (((s.ctxOf asid).st ≠ 2 ∨ s.plane.halt = true) → Rules.idles (.supervisorStop asid) s) ∧
    (∀ c, (s.ctxOf asid).st = 2 → s.plane.halt = false → s.ctxSlot asid = some c →
      ∃ t : State, exec (.supervisorStop asid) s = .next t ∧ (t.ctxs.val {} c).st = 3 ∧
        (t.ctxs.val {} c).stop = 3 ∧
        (∀ n j, (s.tileAt n).kernel = some j → (s.kernAt j).asid = asid →
          4 ≤ max (t.tileAt n).parkAsk (t.tileAt n).parkWhy) ∧ t.mem = s.mem) ∧
    (∀ head, s.plane.halt = true → Rules.idles (.evcHeadWrite asid head) s) ∧
    (∀ head c, s.plane.halt = false → s.ctxSlot asid = some c →
      (head - (s.ctxOf asid).evHead).toNat ≤ ((s.ctxOf asid).nextEvent - (s.ctxOf asid).evHead).toNat →
      ∃ t : State, exec (.evcHeadWrite asid head) s = .next (t.told true) ∧ (t.ctxs.val {} c).evHead = head)

/-! ### The control plane and the links (R250, R340, R347, R356, R357, R379 to R385) -/

/-- R250, R340, R347, R356. The voted plane: a cycle advances TIME; one copy that differs dissents and is to
resynchronize; where no two that vote agree, or one more differs meanwhile, the plane halts; a resynchronization ends
the dissent; the scrub changes no memory and marks the granule of what it cannot correct. Links: a resent group takes
the next counter and counts its tag failure; 16 failures in a row bring fresh keys with the counters at 0, 2^32 groups
in a direction a fresh key for it; training brings a port up toward a package of the pod; a port that cannot be
retrained goes down. Read as log 33 and log 52 say. -/
def Obligations.VotesScrubsAndLinksTakeEffect : Prop :=
  (∀ (s : State) (diff : BitVec 3),
     let p := s.plane
     (p.halt = true → ∃ t : State, exec (.voteCycle diff) s = .next t ∧
       t.plane.time = (p.time + 1) % 2 ^ 64 ∧ t.plane.halt = true ∧ { t with plane := p } = s) ∧
     (p.halt = false → copiesOf (diff &&& ~~~ p.dis) = [] →
       ∃ t : State, exec (.voteCycle diff) s = .next t ∧ t.plane.time = (p.time + 1) % 2 ^ 64 ∧
         t.plane.dis = p.dis ∧ t.plane.halt = false ∧ t.mem = s.mem) ∧
     (∀ c, p.halt = false → p.rsy = false →
       (copiesOf (diff &&& ~~~ p.dis) = [c] →
         ∃ t : State, exec (.voteCycle diff) s = .next t ∧ t.plane.dis = 1#3 <<< c ∧ t.plane.rsy = true ∧
           t.plane.halt = false ∧ t.plane.dsc = min 65535 (p.dsc + 1)) ∧
       (copiesOf ((diff ||| p.upset) &&& ~~~ p.dis) = [c] →
         ∃ t : State, exec (.stateHashCompare diff) s = .next t ∧ t.plane.dis = 1#3 <<< c ∧
           t.plane.rsy = true ∧ t.plane.halt = false ∧ t.tiles = s.tiles)) ∧
     (∀ c rest, p.halt = false → copiesOf (diff &&& ~~~ p.dis) = c :: rest → (p.rsy = true ∨ rest ≠ []) →
       s.doms.keys.Nodup →
       ∃ t : State, exec (.voteCycle diff) s = .next t ∧ t.plane.halt = true ∧
         ∀ n x, (n, x) ∈ s.doms → ∃ low, (t.doms.val {} n).conds = x.conds ++ [(0xc9, low)]) ∧
     (p.halt = true → Rules.idles (.stateHashCompare diff) s ∧ Rules.idles .resyncComplete s) ∧
     (p.rsy = false → Rules.idles .resyncComplete s) ∧
     (p.rsy = true → p.halt = false →
       ∃ t : State, exec .resyncComplete s = .next t ∧ t.plane.dis = 0 ∧ t.plane.rsy = false ∧
         t.plane.rsc = min 65535 (p.rsc + 1) ∧ { t with plane := p } = s) ∧
     (∀ tt pa, Rules.idles (.patrolScrub tt pa .clean) s) ∧
     (∀ tt pa, (tt = 2 ∧ pa < 2 ^ 40 ∨ tt = 4 ∧ pa < 2 ^ 47) →
       (∃ t : State, exec (.patrolScrub tt pa .corrected) s = .next t ∧ { t with plane := p } = s) ∧
       ∃ t : State, exec (.patrolScrub tt pa .uncorrectable) s = .next t ∧
         isMarked t.marks (memKey tt (pa / 32 * 32)) = true ∧ t.mem = s.mem)) ∧
  (∀ (s : State) (p peer : Nat) (bad : Bool),
     let q := s.portAt p
     ((q.up = false ∨ s.plane.halt = true) → Rules.idles (.flitGroupResend p bad) s) ∧
     (q.up = true → s.plane.halt = false →
       ∃ t : State, exec (.flitGroupResend p bad) s = .next t ∧ (t.portAt p).ctr = q.ctr + 1 ∧
         (t.portAt p).tagFail = (if bad then q.tagFail + 1 else 0) ∧ { t with ports := s.ports } = s) ∧
     (q.tagFail < 16 → Rules.idles (.tagFailureRetrain p) s) ∧
     (q.ctr < 2 ^ 32 → q.ctrIn < 2 ^ 32 → Rules.idles (.linkRekey p) s) ∧
     (q.up = true → s.plane.halt = false → 16 ≤ q.tagFail →
       ∃ t : State, exec (.tagFailureRetrain p) s = .next t ∧ (t.portAt p).ctr = 0 ∧
         (t.portAt p).ctrIn = 0 ∧ (t.portAt p).tagFail = 0 ∧
         ((t.portAt p).key, (t.portAt p).keyIn) = Config.linkAgree Config.fusedIdentity q.peer s.freeCtr ∧
         t.mem = s.mem) ∧
     (q.up = true → s.plane.halt = false → 2 ^ 32 ≤ q.ctr ∨ 2 ^ 32 ≤ q.ctrIn →
       ∃ t : State, exec (.linkRekey p) s = .next t ∧
         (t.portAt p).ctr = (if 2 ^ 32 ≤ q.ctr then 0 else q.ctr) ∧
         (t.portAt p).ctrIn = (if 2 ^ 32 ≤ q.ctrIn then 0 else q.ctrIn) ∧
         (t.portAt p).key =
           (if 2 ^ 32 ≤ q.ctr then (Config.linkAgree Config.fusedIdentity q.peer s.freeCtr).1 else q.key) ∧
         (t.portAt p).keyIn =
           (if 2 ^ 32 ≤ q.ctrIn then (Config.linkAgree Config.fusedIdentity q.peer s.freeCtr).2 else q.keyIn) ∧
         t.mem = s.mem) ∧
     ((16 ≤ p ∨ peer = s.own ∨ s.pod.getLsbD peer = false ∨ q.up = true ∨ s.plane.halt = true) →
       Rules.idles (.mubelLinkTraining p peer) s) ∧
     (p < 16 → peer ≠ s.own → s.pod.getLsbD peer = true → q.up = false → s.plane.halt = false →
       ∃ t : State, exec (.mubelLinkTraining p peer) s = .next t ∧ (t.portAt p).up = true ∧
         (t.portAt p).peer = peer ∧ (t.portAt p).ctr = 0 ∧ (t.portAt p).ctrIn = 0 ∧ t.mem = s.mem) ∧
     (q.up = false → Rules.idles (.portRetrainFail p) s) ∧
     (q.up = true → ∃ t : State, exec (.portRetrainFail p) s = .next t ∧ (t.portAt p).up = false))

/-- R379 to R385. Ageing, power and temperature: a plan chooses the lowest bin with a margin of 6 % and in it the
lowest offset, else bin 3 at +30 mV; a setting takes effect at once in a free group, else at the switch, where
BIN is the larger of PBIN and TBIN; samples are kept; at the trip temperature the plane halts; a throttle step
is taken over a limit and undone below it. Read as log 42 says. -/
def Obligations.AgeingPowerAndTemperatureTakeEffect : Prop :=
  ∀ (s : State) (g : Nat),
    let p := s.plane
    let x := s.groupAt g
    (∀ cands : List (Nat × Int × Nat), (∀ c ∈ cands, c.2.2 < 12) →
      (planOf cands).1 = 3 ∧ (planOf cands).2.1 = 30 ∧ (planOf cands).2.2.2 = true) ∧
    (∀ cands : List (Nat × Int × Nat), (∃ c ∈ cands, 12 ≤ c.2.2) →
      (planOf cands).2.2.2 = false ∧ 12 ≤ (planOf cands).2.2.1 ∧
        ((planOf cands).1, (planOf cands).2.1, (planOf cands).2.2.1) ∈ cands ∧
        ∀ c ∈ cands, 12 ≤ c.2.2 → (planOf cands).1 < c.1 ∨
          (planOf cands).1 = c.1 ∧ (planOf cands).2.1 ≤ c.2.1) ∧
    (∀ secs ms, (secs = 0 ∨ secs % 3600 ≠ 0 ∨ p.halt = true) → Rules.idles (.sageReplan secs ms) s) ∧
    (∀ secs ms n, secs ≠ 0 → secs % 3600 = 0 → p.halt = false → n < 32 → g = s.own * 32 + n →
      ∃ t : State, exec (.sageReplan secs ms) s = .next t ∧
        sagePbin (t.groupAt g).sagep = (planOf (worstMargins (reportsOf ms n))).1 ∧
        (t.groupAt g).reports = reportsOf ms n ∧
        sageTbin (t.groupAt g).sagep = sageTbin x.sagep ∧
        (x.holder = none → (t.groupAt g).pending = false ∧
          sageBin (t.groupAt g).sagep = max (sagePbin (t.groupAt g).sagep) (sageTbin x.sagep)) ∧
        (x.holder ≠ none → (t.groupAt g).pending = true ∧
          sageBin (t.groupAt g).sagep = sageBin x.sagep)) ∧
    (s.switchDue g = false → Rules.idles (.settingSwitch g) s) ∧
    (s.switchDue g = true → (∀ x ∈ s.tiles, x.2.lateArm = []) →
      ∃ t : State, exec (.settingSwitch g) s = .next t ∧ (t.groupAt g).pending = false ∧
        sageBin (t.groupAt g).sagep = max (sagePbin x.sagep) (sageTbin x.sagep) ∧
        (∀ n r, groupOfTile n = g → (t.strandAt n r).vq = 0) ∧ t.mem = s.mem) ∧
    (∀ w, exec (.powerSample w) s = .next { s with plane := { p with watts := (w :: p.watts).take 100 } }) ∧
    (∀ c : List Nat, (∀ x ∈ c.take 4, x < 105) →
      exec (.tempSample c) s = .next { s with plane := { p with temps := c.take 4 } }) ∧
    (∀ c : List Nat, (∃ x ∈ c.take 4, 105 ≤ x) → ∃ t : State, exec (.tempSample c) s = .next t ∧ t.plane.halt = true ∧
      t.plane.trip = true ∧ t.plane.refresh = true ∧ t.plane.temps = c.take 4) ∧
    ((p.overLimit = false ∨ p.halt = true) → Rules.idles (.throttleStep g) s) ∧
    (p.overLimit = true → p.halt = false →
      (p.step = 0 → ∃ t : State, exec (.throttleStep g) s = .next t ∧ t.plane.step = 1 ∧
        { t with plane := p } = s) ∧
      (p.step ≠ 0 → p.raised.length < 32 → g < 32 → p.raised.contains g = false →
        ∃ t : State, exec (.throttleStep g) s = .next t ∧ t.plane.step = 2 ∧
          t.plane.raised = g :: p.raised ∧ sageTbin (t.groupAt (s.own * 32 + g)).sagep = 1)) ∧
    ((p.step = 0 ∨ p.overLimit = true ∨ p.halt = true) → Rules.idles .throttleUndo s) ∧
    (p.step ≠ 0 → p.step ≠ 3 → p.overLimit = false → p.halt = false →
      (p.raised = [] → ∃ t : State, exec .throttleUndo s = .next t ∧ t.plane.step = 0 ∧
        { t with plane := p } = s) ∧
      (∀ h rest, p.raised = h :: rest →
        ∃ t : State, exec .throttleUndo s = .next t ∧ t.plane.raised = rest ∧
          sageTbin (t.groupAt (s.own * 32 + h)).sagep = 0))

/-! ### Sessions, the host link, boot and readback (R10, R11, R286, R337 to R346, R374, R386, R387) -/

/-- R286, R341, R342, R344, R345, R374. Session commands: while sessions are closed none acts; a CREATE and a JOIN that
may not be made are answered with their status and change nothing else, an ATTEST with its report; a context is
created, bound to its session with its first key, given and relieved of keys, resumed, destroyed; a log stream
starts; a slot joins. When a key identifier is free is read as log 44 says; a key that one command names and the
layout of replies follow log 13, the model's choice. -/
def Obligations.SessionCommandsReplyAndAct : Prop :=
  ∀ (s : State) (qp asid slot : Nat),
    (s.sessionsOpen = false →
      (∀ pc so, Rules.idles (.create qp asid pc so) s) ∧ (∀ k, Rules.idles (.agree qp asid k) s) ∧
      (∀ n, Rules.idles (.attest qp asid n) s) ∧ Rules.idles (.keynew qp asid) s ∧
      (∀ k, Rules.idles (.keydrop qp asid k) s) ∧ Rules.idles (.resume qp asid) s ∧
      Rules.idles (.destroy qp asid) s ∧ (∀ f, Rules.idles (.logsend qp asid slot f) s) ∧
      Rules.idles (.join qp asid slot) s) ∧
    (s.sessionsOpen = true →
      (∀ pc so, asid < 2 ^ 16 → s.fromSup qp = false →
        exec (.create qp asid pc so) s = .next (s.reply qp 1 asid 2 [])) ∧
      (∀ pc so i, asid < 2 ^ 16 → s.fromSup qp = true → s.resident asid = false →
        ((List.range 64).find? fun i => (s.ctxs.val {} i).st == 0) = some i →
        ∃ (t : State) (c : Ctx), exec (.create qp asid pc so) s = .next t ∧ t.ctxs.val? i = some c ∧
          c.asid = asid ∧ c.st = 1 ∧ c.pcap = pc ∧ c.supok = so ∧ c.nkern = 0 ∧ c.keys = []) ∧
      (∀ key c k, key.length = 65 → (s.qpAt qp).sealed = false → asid < 2 ^ 16 →
        s.ctxSlot asid = some c → (s.ctxs.val {} c).session = none → s.freeKid = some k →
        ∃ t : State, exec (.agree qp asid key) s = .next t ∧ (t.ctxs.val {} c).keyid = k ∧
          (t.ctxs.val {} c).keys = (s.ctxs.val {} c).keys ++ [k] ∧
          (t.ctxs.val {} c).session =
            some (Config.sm2Agree Config.fusedIdentity key s.freeCtr).1 ∧
          (t.qpAt qp).asid = asid ∧ (t.qpAt qp).sealed = true ∧ (t.qpAt qp).st = 1 ∧
          (t.qpAt qp).txCtr = 0 ∧ (t.qpAt qp).rxCtr = 0) ∧
      (∀ nonce, nonce.length = 32 → s.boundTo qp asid = true → s.resident asid = true →
        exec (.attest qp asid nonce) s = .next (s.reply qp 3 asid 0 (s.report asid nonce))) ∧
      (∀ c k, s.boundTo qp asid = true → s.ctxSlot asid = some c → s.freeKid = some k →
        (s.ctxs.val {} c).keys.length < 128 →
        ∃ t : State, exec (.keynew qp asid) s = .next t ∧
          (t.ctxs.val {} c).keys = (s.ctxs.val {} c).keys ++ [k] ∧
          t.memKeys.val? k = some (Config.freshKey s.freeCtr) ∧ t.mem = s.mem) ∧
      (∀ c k, s.boundTo qp asid = true → s.ctxSlot asid = some c → k ∈ (s.ctxs.val {} c).keys →
        s.trafficDrained asid = true →
        ∃ t : State, exec (.keydrop qp asid k) s = .next t ∧
          (t.ctxs.val {} c).keys = (s.ctxs.val {} c).keys.filter (· != k) ∧ t.memKeys.val? k = none ∧
          (∀ g x, x ∈ (t.groupAt g).tlb → x.asid ≠ asid) ∧ t.mem = s.mem) ∧
      (∀ c, s.boundTo qp asid = true → s.ctxSlot asid = some c → (s.ctxs.val {} c).stop = 3 →
        (s.ctxs.val {} c).stoppers = [] →
        ∃ t : State, exec (.resume qp asid) s = .next t ∧
          (t.ctxs.val {} c).st = (if (s.ctxs.val {} c).nkern = 0 then 1 else 2) ∧
          (t.ctxs.val {} c).stop = 0 ∧ t.mem = s.mem) ∧
      (∀ c, (s.boundTo qp asid = true ∨ s.fromSup qp = true) → s.ctxSlot asid = some c →
        (∀ x ∈ s.tiles, x.2.heldW = []) →
        ∃ t : State, exec (.destroy qp asid) s = .next t ∧ (t.ctxs.val {} c).st = 0 ∧
          (t.ctxs.val {} c).keys = [] ∧
          (∀ k x, t.kernels.val? k = some x → x.asid ≠ asid) ∧
          ∀ g x, x ∈ (t.groupAt g).tlb → x.asid ≠ asid) ∧
      (∀ frm, slot < 256 → s.fromSup qp = true → (s.routes.val {} slot).st = 3 →
        s.slog.first.toNat ≤ frm → s.slog.gap = false → s.slog.steps = [] →
        ∃ t : State, exec (.logsend qp asid slot frm) s = .next t ∧
          t.slog.stream = some (slot, frm) ∧ t.mem = s.mem) ∧
      (slot < 256 → s.fromSup qp = true → s.inMask slot = false → (s.routes.val {} slot).v = true →
        (s.qpAt qp).txCtr + 1 < 2 ^ 40 →
        ∃ t : State, exec (.join qp asid slot) s = .next t ∧ (t.routes.val {} slot).st = 3 ∧
          t.lost = s.lost.filter (· != slot) ∧ t.mem = s.mem) ∧
      (slot < 256 → s.fromSup qp = true → s.inMask slot = true →
        exec (.join qp asid slot) s = .next (s.reply qp 9 asid 7 [])))

/-- R337 to R339. The host link: a congestion notice halves the rate of its queue pair, a tick raises it by 1/16 up
to line rate; a write that its checks allow stores its bytes and is acknowledged, or waits for a page that a migration
locks; a read returns them; an access
that is refused changes no memory; a packet whose opcode the transport does not have, and an acknowledgement,
act on their queue pair. The syndromes 0x61 and 0x62 of the refusals, and which state a refusal leaves, are the
model's choice (log 13); the transport is read as log 43 says. -/
def Obligations.HostPacketsActOnTheirQueuePair : Prop :=
  ∀ (s : State) (qp : Nat) (r : RdmaRequest) (p : EthPacket),
    let q := s.qpAt qp
    (s.plane.halt = true →
      Rules.idles (.cnpReceive qp) s ∧ Rules.idles (.rateRecoveryTick qp) s ∧
      Rules.idles (.goBackNRetransmission qp) s ∧ Rules.idles (.rdmaWrite r) s ∧
      Rules.idles (.rdmaRead r) s ∧ Rules.idles (.ethPacketReceive p) s) ∧
    (s.plane.halt = false →
      (qp < 4096 →
        (∃ t : State, exec (.cnpReceive qp) s = .next t ∧ t.qpAt qp = { q with rate := q.rate / 2 } ∧
          { t with qps := s.qps } = s) ∧
        ∃ t : State, exec (.rateRecoveryTick qp) s = .next t ∧
          t.qpAt qp = { q with rate := min (2 ^ 32) (q.rate + 2 ^ 28) } ∧ { t with qps := s.qps } = s) ∧
      (q.unacked = [] → Rules.idles (.goBackNRetransmission qp) s) ∧
      (∀ x, q.unacked = [x] → q.st = 1 →
        exec (.goBackNRetransmission qp) s = .next (s.emit qp x)) ∧
      ((s.qpAt r.qp).waiting = [] →
        (s.rdmaAllowed r.qp r.rkey = false →
          exec (.rdmaWrite r) s = .next (s.ackOn r.qp r.psn 0x62) ∧
          exec (.rdmaRead r) s = .next (s.ackOn r.qp r.psn 0x62)) ∧
        (s.rdmaAllowed r.qp r.rkey = true →
          (s.rdmaPlaces (s.qpAt r.qp).asid r.va.toNat r.data.length true = none →
            exec (.rdmaWrite r) s = .next (s.ackOn r.qp r.psn 0x62)) ∧
          (∀ ps, s.rdmaPlaces (s.qpAt r.qp).asid r.va.toNat r.data.length true = some ps →
            (s.rdmaWaits ps = true →
              exec (.rdmaWrite r) s = .next { s with agenda := s.agenda ++ [.rdmaWrite r] }) ∧
            (s.rdmaWaits ps = false → r.imm = none →
              ∃ t : State, exec (.rdmaWrite r) s = .next t ∧ t.mem = (s.rdmaPutAll r.data ps).mem ∧
                t.tiles = (s.rdmaPutAll r.data ps).tiles)) ∧
          (∀ n kid a, s.rdmaPlaces (s.qpAt r.qp).asid r.va.toNat r.len false = some [(n, kid, a)] →
            n ≤ 64 → s.lockedAt a = false → keyType a ≠ 0 →
            exec (.rdmaRead r) s = .next (s.emit r.qp
              (packetOf r.qp 0x10 (psnAdd r.psn 0) (s.aeth r.qp 0) ((s.rdP kid a n).map Prod.fst)))))) ∧
      ((framed p = false ∨ s.qpFenced p.qp = true) → Rules.idles (.ethPacketReceive p) s) ∧
      (p.qp < 4096 → p.ce = false → framed p = true → s.qpFenced p.qp = false →
        ((p.rc = false ∨ opcodeOk p.opcode = false) →
          exec (.ethPacketReceive p) s = .next ((s.ackOn p.qp p.psn 0x61).qpError p.qp)) ∧
        (p.rc = true → p.opcode = 0x11 → beNum (p.header.take 1) < 0x20 →
          ∃ t : State, exec (.ethPacketReceive p) s = .next t ∧
            (t.qpAt p.qp).unacked =
              ((s.qpAt p.qp).unacked.filter fun u => decide (2 ^ 23 ≤ psnGap p.psn u.psn)) ∧
            { t with qps := s.qps } = s) ∧
        (p.rc = true → p.opcode = 0x0a → (s.qpAt p.qp).st = 1 → (s.qpAt p.qp).sealed = true →
          s.qpBusy p.qp = false → p.payload ≠ [] → p.counter ≤ (s.qpAt p.qp).rxCtr →
          (s.qpAt p.qp).oldKey = none →
          ∃ t : State, exec (.ethPacketReceive p) s = .next t ∧
            (t.qpAt p.qp).tagf = min 255 ((s.qpAt p.qp).tagf + 1) ∧ { t with qps := s.qps } = s) ∧
        (∀ data q2, p.rc = true → (s.qpAt p.qp).st = 1 → s.qpBusy p.qp = false →
          (s.qpAt p.qp).unseal p.qp p = some (data, q2) → p.counter < 2 ^ 40 → data.length ≤ 4096 →
          let t := s.modQp p.qp fun q => { q with rxCtr := q2.rxCtr, oldKey := q2.oldKey }
          let u := t.modQp p.qp fun q => { q with epsn := some (psnAdd p.psn 1) }
          ((s.qpAt p.qp).epsn = some p.psn → (s.qpAt p.qp).waiting = [] → p.opcode = 0x0b →
            exec (.ethPacketReceive p) s =
              exec (.rdmaWrite (accessOf p p.header data (some (p.header.drop 16)))) u) ∧
          (∀ asid, (s.qpAt p.qp).epsn = some p.psn → p.opcode = 0x04 → s.plane.boot = 6 → asid < 2 ^ 16 →
            data = natToBytes 8 (asid * 2 ^ 48 + 4) →
            exec (.ethPacketReceive p) s = exec (.keynew p.qp asid) ((u.messageDone p.qp).ackOn p.qp p.psn 0)) ∧
          (∀ e, (s.qpAt p.qp).epsn = some e → p.opcode = 0x0a ∨ p.opcode = 0x04 →
            (psnGap p.psn e ≠ 0 → psnGap p.psn e < 2 ^ 23 →
              exec (.ethPacketReceive p) s = .next (t.ackOn p.qp e 0x60)) ∧
            (2 ^ 23 ≤ psnGap p.psn e →
              exec (.ethPacketReceive p) s = .next (t.ackOn p.qp (psnAdd e (2 ^ 24 - 1)) 0))))))

/-- R10, R11, R17, R386, R387. Boot, resets and readback writes: an image that passes is measured and taken, one that
fails is discarded; a reset leaves memory and tiles as after power-on and keeps the rollback fuses, a commanded one
the error log and the plan log too; a readback write that the session may not make, or one of LQSIZE with a reserved
bit, writes nothing and is answered with the error status; one of LQSIZE, MCTL or a general register of a strand that
is taken is the new value. The
boot steps are read as log 45 says; how a session writes a general register is the model's choice (log 46). -/
def Obligations.BootResetsAndReadbackWrite : Prop :=
  ∀ (s : State) (m : ImageMsg) (n : Nat) (w : ReadbackWrite),
    (((s.plane.boot ≠ 2 ∧ s.plane.boot ≠ 3) ∨ s.plane.halt = true) → Rules.idles (.image m) s) ∧
    (s.plane.boot = 2 ∨ s.plane.boot = 3 →
      s.plane.halt = false →
      (s.imagePasses m = false → ∃ t : State, exec (.image m) s = .next t ∧ t.plane.img = [] ∧
        { t with plane := s.plane } = s.reply 1 0x10 0 11 []) ∧
      (s.imagePasses m = true → s.plane.boot = 2 →
        ∃ t : State, exec (.image m) s = .next t ∧ t.plane.boot = 3 ∧ t.plane.img = [] ∧
          t.plane.mr0 = extend s.plane.mr0 (s.bootImage m) ∧ t.mem = s.mem) ∧
      (s.imagePasses m = true → s.plane.boot = 3 →
        ∃ t : State, exec (.image m) s = .next t ∧ t.plane.boot = 6 ∧
          t.plane.mr1 = extend s.plane.mr1 (s.bootImage m) ∧ t.mem = [] ∧ t.marks = [] ∧ t.tiles = [] ∧
          t.memKeys = [] ∧ t.plane.dis = 0)) ∧
    (∃ t : State, exec .powerOnReset s = .next t ∧ t.mem = State.reset.mem ∧ t.tiles = State.reset.tiles ∧
      t.kernels = State.reset.kernels ∧ t.ctxs = State.reset.ctxs ∧ t.qps = State.reset.qps ∧
      t.plane = { State.reset.plane with rollback := s.plane.rollback }) ∧
    (∃ t : State, exec .commandedReset s = .next t ∧ t.mem = State.reset.mem ∧
      t.tiles = State.reset.tiles ∧ t.kernels = State.reset.kernels ∧ t.plane.log = s.plane.log ∧
      t.plane.plans = s.plane.plans ∧ t.plane.rollback = s.plane.rollback ∧ t.plane.halt = false) ∧
    (s.sessionsOpen = false → Rules.idles (.bumpRollbackCounter n) s ∧
      exec (.registerWrite w) s = .next (s.told false)) ∧
    (s.sessionsOpen = true →
      (∃ t : State, exec (.bumpRollbackCounter n) s = .next t ∧
        t.plane.rollback = max s.plane.rollback (min 64 n) ∧ { t with plane := s.plane } = s) ∧
      (s.rbAllowed w = false → exec (.registerWrite w) s = .next (s.told false)) ∧
      (s.rbAllowed w = true →
        (∀ i, w.reg = .lqSize i → i < 4 → w.value.toNat < 2 ^ 16 →
          ∃ t : State, exec (.registerWrite w) s = .next (t.told true) ∧
            (t.lq.val {} i).size = w.value.truncate 16 ∧ { t with lq := s.lq } = s) ∧
        (∀ i, w.reg = .lqSize i → 2 ^ 16 ≤ w.value.toNat → exec (.registerWrite w) s = .next (s.told false)) ∧
        (∀ t r k, w.reg = .strandG t r k → k ≠ 0 → k < 32 → w.value.toNat < 2 ^ 65 →
          s.hasStrand t r = true →
          ∃ u : State, exec (.registerWrite w) s = .next (u.told true) ∧ Rules.onlyTile s u t ∧
            (u.strandAt t r).rg k = w.value.truncate 64 ∧ (u.strandAt t r).rgp k = w.value.getLsbD 64 ∧
            ∀ j, j ≠ k → (u.strandAt t r).rg j = (s.strandAt t r).rg j) ∧
        (w.reg = .mctl → w.value.toNat < 2 ^ 64 → w.value.toNat % 2 ^ 16 = 0 →
          ∃ t : State, exec (.registerWrite w) s = .next (t.told true) ∧ t.oslot = w.value.toNat / 2 ^ 56 ∧
            t.pth = w.value.toNat / 2 ^ 48 % 2 ^ 8)))

/-! ### The machine as a whole (R64 to R84, R114, R387) -/

/-- R73 to R82. Every well-formed strand instruction has a word, and the decoder reads that word as it; and a
word that the decoder reads is the word of what it reads, so that no two words are one instruction. -/
def Obligations.WordsAndInstructionsCorrespond : Prop :=
  (∀ i : Instr, isStrand i = true → wellFormed i = true →
    ∃ w, encode i = some w ∧ decode w = .ok i) ∧
  ∀ (w : BitVec 96) (i : Instr), decode w = .ok i →
    isStrand i = true ∧ wellFormed i = true ∧ encode i = some w

/-- R69, R73 to R82. Words that the spec writes out beside their assembly, one or more of every row of R78, and what
they stand for; and one word for each check at decode that a word can fail. -/
def Obligations.WordsOfTheEncodingsDecode : Prop :=
  decode 0x100004020000000000000008 = .ok (.add { d := 4, a := 2, imm := 8 }) ∧
  decode 0x29000c0a0000000e00000410 = .ok (.bfx { d := 12, a := 10, fmt := 7, imm := 0x410 }) ∧
  decode 0x260005000123456789abcdef = .ok (.movi 5 0 0x0123456789abcdef) ∧
  decode 0x2c0005020000000000000010 = .ok (.ld { d := 5, a := 2, imm := 16 }) ∧
  decode 0x320100050000000000000000 = .ok (.br .ne { a := 5 }) ∧
  decode 0x3700060000000000fffffffb = .ok (.loop { d := 6, imm := 0xfffffffb }) ∧
  decode 0x380001000000000300000008 = .ok (.rep { sd := 1, cnt := 3, si := 8 }) ∧
  decode 0x400021222300000400000000 = .ok (.vadd { d := 0x21, a := 0x22, b := 0x23, fmt := 2 }) ∧
  decode 0x5e0023212205000400000000 =
    .ok (.vqPc { d := 0x23, a := 0x21, b := 0x22, c := 5, fmt := 2 }) ∧
  decode 0x760081a06208001000000000 =
    .ok (.tlook { d := 0x81, a := 0xa0, b := 0x62, c := 8, fmt := 8 }) ∧
  decode 0x850005040040400000000000 = .ok (.sync .add { d := 5, a := 4, c := 0x40, scp := 2 }) ∧
  decode 0x600041424300000000000000 = .ok (.kand { d := 0x41, a := 0x42, b := 0x43 }) ∧
  decode 0x640004410000000000000000 = .ok (.kpop { d := 4, a := 0x41 }) ∧
  decode 0x900006020304810000000000 =
    .ok (.xget { d := 6, a := 2, b := 3, c := 4, scp := 4, rnd := 4 }) ∧
  decode 0xa20004000000000000000003 = .ok (.mfsr { d := 4, imm := 3 }) ∧
  decode 0xb600c4c30500000000000003 = .ok (.hobjMove { d := 0xc4, a := 0xc3, b := 5, imm := 3 }) ∧
  decode 0x000003010200000000000000 = .error .undefined ∧
  decode 0x100103010200000000000000 = .error .undefined ∧
  decode 0x100003010200200000000000 = .error .reservedField ∧
  decode 0x100023010200000000000000 = .error .operandClass

/-- The state in which a unit of n slots issues at the PC: the PC of the unit and of the slot after it are noted,
no transfer is taken yet. -/
def Sys2Proof.Rules.atIssue (s : State) (n : Nat) : State :=
  { s with issuing := false }.modSt fun st =>
    { st with upc := st.pc, npc := pcSkip st.pc n, target := none, bkOff := false }

/-- The unit of n slots at the PC noted before its line is checked (R70, R81). -/
def Sys2Proof.Rules.unitNoted (s : State) (n : Nat) : State :=
  s.modSt fun st => { st with upc := st.pc, npc := pcSkip st.pc n, target := none }

/-- The slot at the PC issues: no region is to restart, the PC has its form, its line passes its parity and format,
and no breakpoint stops it. -/
def Sys2Proof.Rules.fetches (s : State) : Prop :=
  let lw := s.lineWord s.cur (pcLine s.st.pc)
  s.issuing = true ∧ s.running = true ∧ s.st.restarts = false ∧ pcForm s.st.pc = true ∧
    s.parityBad s.cur (pcLine s.st.pc) = false ∧ lwTpl lw < 8 ∧ lw.toNat % 1024 = 0 ∧
    lwBkp lw (pcSlot s.st.pc) = false ∧ lwBkp lw (pcSlot s.st.pc + 1) = false

/-- The traps of an issue before its instruction, in the order of R81: a line whose parity still fails after its
reload, a reserved template or a reserved bit of the line word, a breakpoint on a slot of the unit, a reserved field,
an operand class, an illegal pair, a repeat whose target may not be one. -/
def Sys2Proof.Rules.frontTraps (s : State) : Prop :=
  let line := pcLine s.st.pc
  let slot := pcSlot s.st.pc
  let lw := s.lineWord s.cur line
  let w := s.slotWord s.cur line slot
  let w2 := s.slotWord s.cur line (slot + 1)
  let bad := s.parityBad s.cur line
  let form := 8 ≤ lwTpl lw ∨ lw.toNat % 1024 ≠ 0
  let quiet := { s with issuing := false }
  let traps := fun (t : State) (c : Cause) => ∃ n, step s = .next ((Rules.unitNoted t n).raise c 0)
  let stops := fun (c : Cause) => ∃ n, step s = .next ((Rules.atIssue s n).raise c 0)
  s.issuing = true → s.running = true → s.st.restarts = false → pcForm s.st.pc = true → s.st.partner = none →
    (bad = true → (quiet.reloadLine s.cur line).parityBad s.cur line = true →
      traps (quiet.reloadLine s.cur line) .fetchParity) ∧
    (bad = false → form → traps quiet .lineFormat) ∧
    (bad = false → ¬ form → s.st.bkOff = false → s.st.pkt = none → s.st.rpt = false →
      (lwBkp lw slot = true ∨ pairAt (lwTpl lw) slot = true ∧ lwBkp lw (slot + 1) = true) →
      traps quiet .breakpoint) ∧
    (Rules.fetches s → s.st.rpt = false → pairAt (lwTpl lw) slot = false →
      (∀ f, decodeOpcode w ≠ some (.xsend f)) →
      (decode w = .error .reservedField → stops .reservedField) ∧
      (decode w = .error .operandClass → stops .operandClass)) ∧
    (∀ x y, Rules.fetches s → s.st.rpt = false → pairAt (lwTpl lw) slot = true → decode w = .ok x →
      decode w2 = .ok y → frontErr s.st w = none → frontErr s.st w2 = none → pairLegal x y = false →
      stops .lineFormat) ∧
    (∀ r, Rules.fetches s → s.st.rpt = true → decode w = .ok (.rep r) → s.st.repidx ≤ r.cnt.toNat →
      (slot = 4 ∨ pairAt (lwTpl lw) (slot + 1) = true ∨ repTargetBad r w2 = true) → stops .lineFormat)

/-- R64 to R72, R80 to R84, R114, R185. A step with an issue under way runs the instruction that the bytes at the PC
decode to, on the state that notes the unit; a word that decodes to none raises the undefined-instruction trap, and a
line, breakpoint, field, pair or repeat that fails its check the trap of that check.
Of a legal pair both halves run in turn, the class S half places the PC; one that falls off the store raises
the target trap. Of a repeat that is in progress the
step runs the target's word stepped, and the repeat goes on at the `rep` until its count; with REPIDX beyond the count
it ends. With no issue under
way, a step takes a candidate off the agenda and runs it. Which candidate goes next is a free value, the model's
choice of form (log 1). -/
def Obligations.AStepRunsTheDecodedInstruction : Prop :=
  ∀ (s : State),
    let line := pcLine s.st.pc
    let slot := pcSlot s.st.pc
    let tpl := lwTpl (s.lineWord s.cur line)
    let w := s.slotWord s.cur line slot
    let w2 := s.slotWord s.cur line (slot + 1)
    (Rules.fetches s →
      (s.st.rpt = false → pairAt tpl slot = false →
        (∀ i, decode w = .ok i → (∀ r, i ≠ .rep r) →
          (∀ t, exec i (Rules.atIssue s 1) = .next t → t.ended ≠ .stalled → t.ended ≠ .held →
            step s = .next t) ∧
          (∀ t, exec i (Rules.atIssue s 1) = .next t → t.ended = .stalled ∨ t.ended = .held →
            step s = .next { t.modSt fun st => { st with bkOff := s.st.bkOff } with ended := t.ended })) ∧
        (∀ r t, decode w = .ok (.rep r) → exec (.rep r) (Rules.atIssue s 2) = .next t →
          t.ended ≠ .stalled → t.ended ≠ .held → step s = .next t) ∧
        (decode w = .error .undefined → s.st.partner = none →
          step s = .next ((Rules.atIssue s 1).raise .undefinedInstr 0))) ∧
      (∀ x y a b, s.st.rpt = false → pairAt tpl slot = true → decode w = .ok x → decode w2 = .ok y →
        frontErr s.st w = none → frontErr s.st w2 = none → pairLegal x y = true →
        (Rules.atIssue s 2).afterRep = false →
        exec x (Rules.atIssue s 2) = .next a → a.ended = .done → exec y a = .next b → b.ended = .done →
        (isClassE x = true → pcForm b.st.pc = true →
          step s = .next { b.modSt fun st => { st with pc := b.st.pc } with ended := .done }) ∧
        (isClassE x = false → pcForm a.st.pc = true →
          step s = .next { b.modSt fun st => { st with pc := a.st.pc } with ended := .done }) ∧
        (s.st.partner = none → pcForm (if isClassE x then b.st.pc else a.st.pc) = false →
          step s = .next ((Rules.atIssue s 2).frontTrap .target))) ∧
      (∀ r, s.st.rpt = true → decode w = .ok (.rep r) → r.cnt.toNat < s.st.repidx →
        s.st.slot.isSome = true → s.st.leaving = false → pcForm (pcSkip s.st.pc 2) = true →
        ∃ u : State, step s = .next u ∧ u.st.rpt = false ∧ u.st.repidx = 0 ∧ u.st.pc = pcSkip s.st.pc 2 ∧
          u.mem = s.mem) ∧
      (∀ r v i t, s.st.rpt = true → decode w = .ok (.rep r) → slot ≠ 4 → pairAt tpl (slot + 1) = false →
        repTargetBad r w2 = false → repWord r w2 s.st.repidx = some v →
        decode v = .ok i → t.ended = .done →
        (s.st.repidx < r.cnt.toNat →
          exec i ((Rules.atIssue s 2).modSt fun st => { st with target := some st.upc }) = .next t →
          step s = .next
            { t.modSt fun st => { st with repidx := s.st.repidx + 1 } with ended := .done }) ∧
        (s.st.repidx = r.cnt.toNat → exec i (Rules.atIssue s 2) = .next t →
          step s = .next
            { t.modSt fun st => { st with rpt := false, repidx := 0 } with ended := .done }))) ∧
    Rules.frontTraps s ∧
    (s.issuing = true → s.running = true → s.st.partner = none → s.st.restarts = false →
      pcForm s.st.pc = false →
      step s = .next (({ s with issuing := false }.atUnit 0).raise .target 0)) ∧
    (s.issuing = false → ∀ e, s.candidates[s.pickNext s.candidates.length]? = some e →
      isStrand e = false → (∀ t, e ≠ .tileIssueCycle t) →
      step s = exec e { s.draw with agenda := s.agenda.erase e })

/-- R2, R197, R356, R365, R386, R387. Reset clears every memory and every strand: all bytes read as 0 without
poison, no tile holds a strand or a kernel, no kernel waits, no context is resident, the queues and the step log
are empty, VOTE and the error log read 0. That memory reads as 0 before the firmware of R386 zeroes it is the
model's choice (log 5). -/
def Obligations.ResetClearsTheMachine : Prop :=
  let s := State.reset
  s.tidy ∧ (∀ a, rdByte s.mem a = 0 ∧ isMarked s.marks a = false) ∧ s.running = false ∧
    (∀ t r, (s.tileAt t).strands = [] ∧ (s.tileAt t).kernel = none ∧ (s.strandAt t r).slot = none) ∧
    (∀ k, s.kernels.val? k = none) ∧ (∀ a, s.ctxSlot a = none) ∧ (∀ g, (s.groupAt g).tlb = []) ∧
    (∀ q, (s.lq.val {} q).head = (s.lq.val {} q).tail) ∧ s.mctl = 0 ∧ s.slog.steps = [] ∧
    s.plane.dis = 0 ∧ s.plane.rsy = false ∧ s.plane.halt = false ∧ s.plane.rcyc = 0 ∧
    s.plane.log = [] ∧ s.sessionsOpen = false

/-- R347. Memory and the poison marks have one canonical form, and every instruction and every step of the machine
keeps it, on every path: completion, traps, waits and suspensions. -/
def Obligations.EveryStepKeepsMemoryCanonical : Prop :=
  ∀ (s t : State), s.tidy →
    (∀ i, exec i s = .next t → t.tidy) ∧ (step s = .next t → t.tidy)
end

