-- ==== Sys2Proof/Laws/Codec.lean ====
section
/-! SUPPORT. The fields of a packed word read back (R73, R75, R82). -/

namespace Sys2Proof.Laws

open BitVec

theorem wordMaj_pack (m n : BitVec 8) (f : Fields) : wordMaj (packFields m n f) = m := by
  simp (disch := omega) only [wordMaj, bitsAt, packFields, extractLsb'_append_eq_of_le]
  exact extractLsb'_eq_self

theorem wordMin_pack (m n : BitVec 8) (f : Fields) : wordMin (packFields m n f) = n := by
  simp (disch := omega) only [wordMin, bitsAt, packFields, extractLsb'_append_eq_of_le,
    extractLsb'_append_eq_of_add_le]
  exact extractLsb'_eq_self

theorem wordFields_pack (m n : BitVec 8) (f : Fields) : wordFields (packFields m n f) = f := by
  obtain ⟨d, a, b, c, scp, prd, neg, rnd, sat, fmt, ef, imm⟩ := f
  have h_d : bitsAt (packFields m n ⟨d, a, b, c, scp, prd, neg, rnd, sat, fmt, ef, imm⟩) 72 8 = d := by
    simp (disch := omega) only [bitsAt, packFields, extractLsb'_append_eq_of_le,
      extractLsb'_append_eq_of_add_le]
    exact extractLsb'_eq_self
  have h_a : bitsAt (packFields m n ⟨d, a, b, c, scp, prd, neg, rnd, sat, fmt, ef, imm⟩) 64 8 = a := by
    simp (disch := omega) only [bitsAt, packFields, extractLsb'_append_eq_of_le,
      extractLsb'_append_eq_of_add_le]
    exact extractLsb'_eq_self
  have h_b : bitsAt (packFields m n ⟨d, a, b, c, scp, prd, neg, rnd, sat, fmt, ef, imm⟩) 56 8 = b := by
    simp (disch := omega) only [bitsAt, packFields, extractLsb'_append_eq_of_le,
      extractLsb'_append_eq_of_add_le]
    exact extractLsb'_eq_self
  have h_c : bitsAt (packFields m n ⟨d, a, b, c, scp, prd, neg, rnd, sat, fmt, ef, imm⟩) 48 8 = c := by
    simp (disch := omega) only [bitsAt, packFields, extractLsb'_append_eq_of_le,
      extractLsb'_append_eq_of_add_le]
    exact extractLsb'_eq_self
  have h_scp : bitsAt (packFields m n ⟨d, a, b, c, scp, prd, neg, rnd, sat, fmt, ef, imm⟩) 45 3 = scp := by
    simp (disch := omega) only [bitsAt, packFields, extractLsb'_append_eq_of_le,
      extractLsb'_append_eq_of_add_le]
    exact extractLsb'_eq_self
  have h_prd : bitsAt (packFields m n ⟨d, a, b, c, scp, prd, neg, rnd, sat, fmt, ef, imm⟩) 42 3 = prd := by
    simp (disch := omega) only [bitsAt, packFields, extractLsb'_append_eq_of_le,
      extractLsb'_append_eq_of_add_le]
    exact extractLsb'_eq_self
  have h_rnd : bitsAt (packFields m n ⟨d, a, b, c, scp, prd, neg, rnd, sat, fmt, ef, imm⟩) 38 3 = rnd := by
    simp (disch := omega) only [bitsAt, packFields, extractLsb'_append_eq_of_le,
      extractLsb'_append_eq_of_add_le]
    exact extractLsb'_eq_self
  have h_fmt : bitsAt (packFields m n ⟨d, a, b, c, scp, prd, neg, rnd, sat, fmt, ef, imm⟩) 33 4 = fmt := by
    simp (disch := omega) only [bitsAt, packFields, extractLsb'_append_eq_of_le,
      extractLsb'_append_eq_of_add_le]
    exact extractLsb'_eq_self
  have h_imm : bitsAt (packFields m n ⟨d, a, b, c, scp, prd, neg, rnd, sat, fmt, ef, imm⟩) 0 32 = imm := by
    simp (disch := omega) only [bitsAt, packFields, extractLsb'_append_eq_of_le,
      extractLsb'_append_eq_of_add_le]
    exact extractLsb'_eq_self
  have h_neg : bitAt (packFields m n ⟨d, a, b, c, scp, prd, neg, rnd, sat, fmt, ef, imm⟩) 41 = neg := by
    simp only [bitAt, packFields, getLsbD_append]
    simp
  have h_sat : bitAt (packFields m n ⟨d, a, b, c, scp, prd, neg, rnd, sat, fmt, ef, imm⟩) 37 = sat := by
    simp only [bitAt, packFields, getLsbD_append]
    simp
  have h_ef : bitAt (packFields m n ⟨d, a, b, c, scp, prd, neg, rnd, sat, fmt, ef, imm⟩) 32 = ef := by
    simp only [bitAt, packFields, getLsbD_append]
    simp
  simp only [wordFields, h_d, h_a, h_b, h_c, h_scp, h_prd, h_rnd, h_fmt, h_imm, h_neg, h_sat, h_ef]

theorem wordMaj_movi (d a : BitVec 8) (x : BitVec 64) : wordMaj (packMovi d a x) = 0x26 := by
  simp (disch := omega) only [wordMaj, bitsAt, packMovi, extractLsb'_append_eq_of_le]
  exact extractLsb'_eq_self

theorem wordMin_movi (d a : BitVec 8) (x : BitVec 64) : wordMin (packMovi d a x) = 0 := by
  simp (disch := omega) only [wordMin, bitsAt, packMovi, extractLsb'_append_eq_of_le,
    extractLsb'_append_eq_of_add_le]
  exact extractLsb'_eq_self

theorem wordMaj_rep (r : RepFields) : wordMaj (packRep r) = 0x38 := by
  simp (disch := omega) only [wordMaj, bitsAt, packRep, extractLsb'_append_eq_of_le]
  exact extractLsb'_eq_self

theorem wordMin_rep (r : RepFields) : wordMin (packRep r) = 0 := by
  simp (disch := omega) only [wordMin, bitsAt, packRep, extractLsb'_append_eq_of_le,
    extractLsb'_append_eq_of_add_le]
  exact extractLsb'_eq_self

theorem wordRep_rep (r : RepFields) : wordRep (packRep r) = r := by
  obtain ⟨sd, sa, sb, sc, rsv, cnt, si⟩ := r
  simp (disch := omega) only [wordRep, bitsAt, packRep, extractLsb'_append_eq_of_le,
    extractLsb'_append_eq_of_add_le, RepFields.mk.injEq]
  refine ⟨?_, ?_, ?_, ?_, ?_, ?_, ?_⟩ <;> exact extractLsb'_eq_self

/-- A word of formats R, I, M, X and S decodes by its codes and its fields. -/
theorem decodeOpcode_pack (m n : BitVec 8) (f : Fields) (h1 : m ≠ 0x26) (h2 : m ≠ 0x38) :
    decodeOpcode (packFields m n f) = opcodeInstr m.toNat n.toNat f := by
  simp only [decodeOpcode, wordMaj_pack, wordMin_pack, wordFields_pack]
  rw [if_neg h1, if_neg h2]

theorem decodeOpcode_movi (d a : BitVec 8) (x : BitVec 64) :
    decodeOpcode (packMovi d a x) = some (.movi d a x) := by
  have hd : bitsAt (packMovi d a x) 72 8 = d := by
    simp (disch := omega) only [bitsAt, packMovi, extractLsb'_append_eq_of_le,
      extractLsb'_append_eq_of_add_le]
    exact extractLsb'_eq_self
  have ha : bitsAt (packMovi d a x) 64 8 = a := by
    simp (disch := omega) only [bitsAt, packMovi, extractLsb'_append_eq_of_le,
      extractLsb'_append_eq_of_add_le]
    exact extractLsb'_eq_self
  have hx : bitsAt (packMovi d a x) 0 64 = x := by
    simp (disch := omega) only [bitsAt, packMovi, extractLsb'_append_eq_of_add_le]
    exact extractLsb'_eq_self
  simp [decodeOpcode, wordMaj_movi, wordMin_movi, hd, ha, hx]

theorem decodeOpcode_rep (r : RepFields) : decodeOpcode (packRep r) = some (.rep r) := by
  simp [decodeOpcode, wordMaj_rep, wordMin_rep, wordRep_rep]

/-- An instruction whose codes read back decodes from its word where it is well formed. -/
theorem decode_of_opcode {i : Instr} {w : BitVec 96} (h : decodeOpcode w = some i)
    (wf : wellFormed i = true) : decode w = .ok i := by
  have hn : decodeErr i = none := by simpa [wellFormed] using wf
  simp [decode, h, hn]

end Sys2Proof.Laws
end

