-- ==== Sys2Proof/Laws/Issue.lean ====
section
/-! SUPPORT. What the wrappers of Issue.lean answer for an instruction that is issued whole: one lemma
per end. -/

namespace Sys2Proof.Machine

theorem decodeErr_of_wellFormed {i : Instr} (h : wellFormed i = true) : decodeErr i = none := by
  simpa [wellFormed] using h

/-- An instruction issued whole ends as its body says. -/
theorem strandOp_issues {i : Instr} {s : State} (h : s.issues i) (body : State → Body State) :
    strandOp i s body = .next (s.finish (liftStall (s.st.flightTo i) (body s))) := by
  obtain ⟨hr, hw, hp, ha, hn, hi⟩ := h
  unfold strandOp
  rw [hr, decodeErr_of_wellFormed hw]
  by_cases hq : isPrivileged i = true
  · simp [hq, hp hq, ha, hi, hn]
  · simp [hq, ha, hi, hn]

/-- A body that answers a state the strand stays in retires. -/
theorem finish_ok {s s' : State} (h : s.runsOff s' = false) : s.finish (.ok s') = s'.retire := by
  simp [State.finish, h]

/-- With a next slot no instruction falls through the end of the store. -/
theorem runsOff_of_slot {s s' : State} (h : pcForm s.st.npc = true) : s.runsOff s' = false := by
  simp [State.runsOff, h]

/-- An instruction completes if it does so where it does not fall through. -/
theorem completes_of {i : Instr} {s s' : State} (h : s.runsOff s' = false → exec i s = .next s'.retire) :
    s.completes i s' := by
  intro hs
  simp only [Bool.or_eq_true, Bool.not_eq_true'] at hs
  exact h (hs.elim runsOff_of_slot id)

theorem strandOp_ok {i : Instr} {s s' : State} {body : State → Body State} (h : s.issues i)
    (hb : body s = .ok s') (hs : s.runsOff s' = false) : strandOp i s body = .next s'.retire := by
  rw [strandOp_issues h, hb]
  exact congrArg _ (finish_ok hs)

theorem guardedOp_ok {i : Instr} {f : Fields} {s s' : State} {body : State → Body State}
    (h : s.runs i f) (hb : body s = .ok s') (hs : s.runsOff s' = false) :
    guardedOp i f s body = .next s'.retire := by
  refine strandOp_ok h.1 ?_ hs
  simpa [guarded, h.2] using hb

/-- A guarded instruction whose predicate is off only moves the PC (R76). -/
theorem guardedOp_off {i : Instr} {f : Fields} {s : State} (body : State → Body State)
    (h : s.issues i) (hp : predOn f s.st = false) (hs : s.runsOff s = false) :
    guardedOp i f s body = .next s.retire := by
  refine strandOp_ok h ?_ hs
  simp [guarded, hp]

theorem strandOp_trap {i : Instr} {s : State} {body : State → Body State} {c : Cause} {n : Nat}
    (h : s.issues i) (hb : body s = .error (.trap c n)) :
    strandOp i s body = .next (s.raise c n) := by
  rw [strandOp_issues h, hb]
  simp [liftStall, State.finish, h.2.2.2.2.1]

theorem guardedOp_trap {i : Instr} {f : Fields} {s : State} {body : State → Body State} {c : Cause}
    {n : Nat} (h : s.runs i f) (hb : body s = .error (.trap c n)) :
    guardedOp i f s body = .next (s.raise c n) := by
  refine strandOp_trap h.1 ?_
  simpa [guarded, h.2] using hb

theorem strandOp_stall {i : Instr} {s : State} {body : State → Body State} {w : Stall}
    (h : s.issues i) (hb : body s = .error (.stall w)) :
    strandOp i s body =
      .next (s.stallOn { w with unlift := w.unlift && !s.st.flightTo i }) := by
  rw [strandOp_issues h, hb]
  rfl

theorem guardedOp_stall {i : Instr} {f : Fields} {s : State} {body : State → Body State} {w : Stall}
    (h : s.runs i f) (hb : body s = .error (.stall w)) :
    guardedOp i f s body =
      .next (s.stallOn { w with unlift := w.unlift && !s.st.flightTo i }) := by
  refine strandOp_stall h.1 ?_
  simpa [guarded, h.2] using hb

theorem strandOp_full {i : Instr} {s : State} {body : State → Body State} {e : Nat}
    (h : s.issues i) (hb : body s = .error (.full e)) :
    strandOp i s body = .next (s.fullOn e) := by
  rw [strandOp_issues h, hb]
  simp [liftStall, State.finish, h.2.2.2.2.1]

/-- A trap on a memory error that the instruction met keeps what the error did (R347). -/
theorem strandOp_met {i : Instr} {s s' : State} {body : State → Body State} {c : Cause}
    (h : s.issues i) (hb : body s = .error (.met s' c)) :
    strandOp i s body = .next (s'.raise c 0) := by
  rw [strandOp_issues h, hb]
  simp [liftStall, State.finish, h.2.2.2.2.1]

theorem strandOp_hold {i : Instr} {s s' : State} {body : State → Body State} {w : Stall}
    (h : s.issues i) (hb : body s = .error (.hold s' w)) (hs : s.runsOff s' = false) :
    strandOp i s body = .next (s'.holdOn w) := by
  rw [strandOp_issues h, hb]
  simp [liftStall, State.finish, hs]

theorem guardedOp_hold {i : Instr} {f : Fields} {s s' : State} {body : State → Body State} {w : Stall}
    (h : s.runs i f) (hb : body s = .error (.hold s' w)) (hs : s.runsOff s' = false) :
    guardedOp i f s body = .next (s'.holdOn w) := by
  refine strandOp_hold h.1 ?_ hs
  simpa [guarded, h.2] using hb

/-- No strand issues: the only fault of the machine. -/
theorem strandOp_noStrand {i : Instr} {s : State} (body : State → Body State)
    (h : s.running = false) : strandOp i s body = .fault .noStrand := by
  simp [strandOp, h]

/-- A word that fails a check at decode raises that check's trap (R81). -/
theorem strandOp_decode {i : Instr} {s : State} {e : DecodeErr} (body : State → Body State)
    (h : s.running = true) (he : decodeErr i = some e) (hn : s.st.partner = none) :
    strandOp i s body = .next (s.raise (causeOf e) 0) := by
  simp [strandOp, h, he, State.finish, trapE, hn]

/-- A privileged instruction of a tenant strand raises the privilege trap (R79). -/
theorem strandOp_privilege {i : Instr} {s : State} (body : State → Body State)
    (h : s.running = true) (hw : wellFormed i = true) (hp : isPrivileged i = true)
    (hs : s.st.sup = false) (hn : s.st.partner = none) :
    strandOp i s body = .next (s.raise .privilege 0) := by
  simp [strandOp, h, decodeErr_of_wellFormed hw, hp, hs, State.finish, trapE, hn]

end Sys2Proof.Machine
end

