-- ==== Sys2Proof/Laws/Memory.lean ====
section
/-! SUPPORT. Memory: every operation keeps the canonical form; a byte reads back as written, and a write
leaves every other byte alone. -/

namespace Sys2Proof.Laws

open Sys2Proof.Machine

/-! ### The canonical form -/

theorem memWfFrom_mono {lo hi : Nat} {m : Memory} (h : lo ≤ hi) (w : memWfFrom hi m = true) :
    memWfFrom lo m = true := by
  cases m with
  | nil => rfl
  | cons p t =>
    obtain ⟨k, c⟩ := p
    simp only [memWfFrom, Bool.and_eq_true, decide_eq_true_eq] at w ⊢
    exact ⟨⟨by omega, w.1.2⟩, w.2⟩

theorem wrByte_wfFrom {lo a : Nat} (m : Memory) (b : Byte) (w : memWfFrom lo m = true) (h : lo ≤ a) :
    memWfFrom lo (wrByte m a b) = true := by
  induction m generalizing lo with
  | nil =>
    by_cases hb : b = unlisted
    · simp [wrByte, hb, memWfFrom]
    · simp [wrByte, hb, memWfFrom, h]
  | cons p t ih =>
    obtain ⟨k, c⟩ := p
    have w0 := w
    simp only [memWfFrom, Bool.and_eq_true, decide_eq_true_eq] at w
    obtain ⟨⟨h1, h2⟩, h3⟩ := w
    simp only [wrByte]
    split
    · split
      · exact w0
      · rename_i hak hb
        simp only [memWfFrom, Bool.and_eq_true, decide_eq_true_eq, bne_iff_ne, ne_eq] at h2 ⊢
        exact ⟨⟨h, hb⟩, ⟨by omega, h2⟩, h3⟩
    · split
      · split
        · exact memWfFrom_mono (by omega) h3
        · rename_i hka hb
          subst hka
          simp only [memWfFrom, Bool.and_eq_true, decide_eq_true_eq, bne_iff_ne, ne_eq]
          exact ⟨⟨h, hb⟩, h3⟩
      · simp only [memWfFrom, Bool.and_eq_true, decide_eq_true_eq]
        exact ⟨⟨h1, h2⟩, ih h3 (by omega)⟩

/-- A byte write keeps the canonical form. -/
theorem wrByte_wf {m : Memory} (a : Nat) (b : Byte) (w : m.wf = true) : (wrByte m a b).wf = true :=
  wrByte_wfFrom m b w (Nat.zero_le a)

/-- A write of several bytes keeps the canonical form. -/
theorem wrBytes_wf {m : Memory} (a : Nat) (bs : List Byte) (w : m.wf = true) :
    (wrBytes m a bs).wf = true := by
  induction bs generalizing m a with
  | nil => exact w
  | cons b t ih => exact ih (a + 1) (wrByte_wf a b w)

/-- A write of a number keeps the canonical form. -/
theorem wrNat_wf {m : Memory} (a n x : Nat) (w : m.wf = true) : (wrNat m a n x).wf = true :=
  wrBytes_wf a _ w

theorem filter_wfFrom {lo : Nat} (m : Memory) (p : Host.Cell → Bool) (w : memWfFrom lo m = true) :
    memWfFrom lo (m.filter p) = true := by
  induction m generalizing lo with
  | nil => rfl
  | cons q t ih =>
    obtain ⟨k, c⟩ := q
    simp only [memWfFrom, Bool.and_eq_true, decide_eq_true_eq] at w
    simp only [List.filter_cons]
    split
    · simp only [memWfFrom, Bool.and_eq_true, decide_eq_true_eq]
      exact ⟨w.1, ih w.2⟩
    · exact memWfFrom_mono (by omega) (ih w.2)

/-- Forgetting bytes keeps the canonical form. -/
theorem filter_wf {m : Memory} (p : Host.Cell → Bool) (w : m.wf = true) :
    Memory.wf (m.filter p) = true := filter_wfFrom m p w

/-- Clearing a range keeps the canonical form. -/
theorem memClear_wf {m : Memory} (a n : Nat) (w : m.wf = true) : (memClear m a n).wf = true :=
  filter_wf _ w

/-- Writing cells one by one keeps the canonical form. -/
theorem foldl_wrByte_wf {m : Memory} (cs : List Host.Cell) (w : m.wf = true) :
    Memory.wf (cs.foldl (fun m c => wrByte m c.1 c.2) m) = true := by
  induction cs generalizing m with
  | nil => exact w
  | cons c t ih => exact ih (wrByte_wf c.1 c.2 w)

/-! ### Read after write -/

theorem rdByte_below {lo a : Nat} {m : Memory} (w : memWfFrom lo m = true) (h : a < lo) :
    rdByte m a = unlisted := by
  induction m generalizing lo with
  | nil => rfl
  | cons p t ih =>
    obtain ⟨k, c⟩ := p
    simp only [memWfFrom, Bool.and_eq_true, decide_eq_true_eq] at w
    have hk : k ≠ a := by omega
    simp only [rdByte, hk, if_false]
    exact ih w.2 (by omega)

theorem rdByte_wrByte_sameFrom {lo a : Nat} {m : Memory} (b : Byte) (w : memWfFrom lo m = true) :
    rdByte (wrByte m a b) a = b := by
  induction m generalizing lo with
  | nil =>
    by_cases hb : b = unlisted
    · simp [wrByte, hb, rdByte]
    · simp [wrByte, hb, rdByte]
  | cons p t ih =>
    obtain ⟨k, c⟩ := p
    have w0 := w
    simp only [memWfFrom, Bool.and_eq_true, decide_eq_true_eq] at w
    simp only [wrByte]
    split
    · split
      · rename_i hak hb
        rw [hb]
        have hk : k ≠ a := by omega
        simp only [rdByte, hk, if_false]
        exact rdByte_below w.2 (by omega)
      · simp [rdByte]
    · split
      · split
        · rename_i hka hb
          subst hka
          rw [hb]
          exact rdByte_below w.2 (by omega)
        · simp [rdByte]
      · rename_i hka
        simp only [rdByte, hka, if_false]
        exact ih w.2

/-- A byte reads back as it was written. -/
theorem rdByte_wrByte_same {m : Memory} (a : Nat) (b : Byte) (w : m.wf = true) :
    rdByte (wrByte m a b) a = b := rdByte_wrByte_sameFrom b w

/-- A write of one byte leaves every other byte alone. -/
theorem rdByte_wrByte_ne (m : Memory) {a j : Nat} (b : Byte) (h : a ≠ j) :
    rdByte (wrByte m a b) j = rdByte m j := by
  induction m with
  | nil =>
    by_cases hb : b = unlisted
    · simp [wrByte, hb]
    · simp [wrByte, hb, rdByte, h]
  | cons p t ih =>
    obtain ⟨k, c⟩ := p
    simp only [wrByte]
    split
    · split
      · rfl
      · simp [rdByte, h]
    · split
      · rename_i hka
        subst hka
        split
        · simp [rdByte, h]
        · simp [rdByte, h]
      · simp only [rdByte, ih]

/-- A write of several bytes leaves every byte outside them alone. -/
theorem rdByte_wrBytes_out (m : Memory) {a j : Nat} (bs : List Byte)
    (h : j < a ∨ a + bs.length ≤ j) : rdByte (wrBytes m a bs) j = rdByte m j := by
  induction bs generalizing m a with
  | nil => rfl
  | cons b t ih =>
    simp only [List.length_cons] at h
    rw [wrBytes, ih _ (by omega), rdByte_wrByte_ne m b (by omega)]

/-- Byte i of several bytes reads back as it was written. -/
theorem rdByte_wrBytes_in {m : Memory} {a i : Nat} (bs : List Byte) (w : m.wf = true)
    (h : i < bs.length) : rdByte (wrBytes m a bs) (a + i) = bs[i] := by
  induction bs generalizing m a i with
  | nil => simp at h
  | cons b t ih =>
    cases i with
    | zero =>
      rw [wrBytes, rdByte_wrBytes_out _ t (by omega)]
      simpa using rdByte_wrByte_same a b w
    | succ i =>
      rw [wrBytes, show a + (i + 1) = a + 1 + i by omega,
        ih (wrByte_wf a b w) (by simpa using h)]
      simp

/-! ### Marks -/

theorem marksWfFrom_mono {lo hi : Nat} {p : Marks} (h : lo ≤ hi) (w : marksWfFrom hi p = true) :
    marksWfFrom lo p = true := by
  cases p with
  | nil => rfl
  | cons k t =>
    simp only [marksWfFrom, Bool.and_eq_true, decide_eq_true_eq] at w ⊢
    exact ⟨by omega, w.2⟩

theorem setMark_wfFrom {lo g : Nat} (p : Marks) (w : marksWfFrom lo p = true) (h : lo ≤ g) :
    marksWfFrom lo (setMark p g) = true := by
  induction p generalizing lo with
  | nil => simp [setMark, marksWfFrom, h]
  | cons k t ih =>
    have w0 := w
    simp only [marksWfFrom, Bool.and_eq_true, decide_eq_true_eq] at w
    simp only [setMark]
    split
    · simp only [marksWfFrom, Bool.and_eq_true, decide_eq_true_eq]
      exact ⟨h, by omega, w.2⟩
    · split
      · exact w0
      · simp only [marksWfFrom, Bool.and_eq_true, decide_eq_true_eq]
        exact ⟨w.1, ih w.2 (by omega)⟩

/-- Setting a mark keeps the marks rising. -/
theorem setMark_wf {p : Marks} (g : Nat) (w : marksWfFrom 0 p = true) :
    marksWfFrom 0 (setMark p g) = true := setMark_wfFrom p w (Nat.zero_le g)

theorem filterMarks_wfFrom {lo : Nat} (p : Marks) (q : Nat → Bool) (w : marksWfFrom lo p = true) :
    marksWfFrom lo (p.filter q) = true := by
  induction p generalizing lo with
  | nil => rfl
  | cons k t ih =>
    simp only [marksWfFrom, Bool.and_eq_true, decide_eq_true_eq] at w
    simp only [List.filter_cons]
    split
    · simp only [marksWfFrom, Bool.and_eq_true, decide_eq_true_eq]
      exact ⟨w.1, ih w.2⟩
    · exact marksWfFrom_mono (by omega) (ih w.2)

/-- Clearing marks keeps the marks rising. -/
theorem filterMarks_wf {p : Marks} (q : Nat → Bool) (w : marksWfFrom 0 p = true) :
    marksWfFrom 0 (p.filter q) = true := filterMarks_wfFrom p q w

/-- The marks of a span keep rising. -/
theorem markSpan_wf {p : Marks} (a n : Nat) (b : Bool) (g k : Nat) (w : marksWfFrom 0 p = true) :
    marksWfFrom 0 (markSpan p a n b g k) = true := by
  induction k generalizing p g with
  | zero => exact w
  | succ k ih =>
    simp only [markSpan]
    split
    · exact w
    · apply ih
      split
      · exact setMark_wf g w
      · split
        · exact filterMarks_wf _ w
        · exact w

/-- The marks after a write keep rising. -/
theorem markWrite_wf {p : Marks} (a n : Nat) (b : Bool) (w : marksWfFrom 0 p = true) :
    marksWfFrom 0 (markWrite p a n b) = true := by
  unfold markWrite
  split
  · exact w
  · exact markSpan_wf a n b _ _ w

end Sys2Proof.Laws
end

