-- ==== Sys2Proof/Laws/SMap.lean ====
section
/-! SUPPORT. Sparse maps: an entry reads back as it was put, and no other entry changes. -/

namespace Sys2Proof.Laws

variable {α : Type}

@[simp] theorem val?_put_same (m : SMap α) (n : Nat) (x : α) : (m.put n x).val? n = some x := by
  induction m with
  | nil => simp [SMap.put, SMap.val?]
  | cons p t ih =>
    obtain ⟨k, v⟩ := p
    simp only [SMap.put]
    split
    · simp [SMap.val?]
    · split
      · simp [SMap.val?]
      · rename_i h; simp [SMap.val?, h, ih]

theorem val?_put_ne (m : SMap α) {n j : Nat} (x : α) (h : n ≠ j) :
    (m.put n x).val? j = m.val? j := by
  induction m with
  | nil => simp [SMap.put, SMap.val?, h]
  | cons p t ih =>
    obtain ⟨k, v⟩ := p
    simp only [SMap.put]
    split
    · simp [SMap.val?, h]
    · split
      · rename_i hk; subst hk; simp [SMap.val?, h]
      · simp only [SMap.val?, ih]

@[simp] theorem val_put_same (m : SMap α) (d : α) (n : Nat) (x : α) : (m.put n x).val d n = x := by
  simp [SMap.val]

theorem val_put_ne (m : SMap α) (d : α) {n j : Nat} (x : α) (h : n ≠ j) :
    (m.put n x).val d j = m.val d j := by
  simp [SMap.val, val?_put_ne m x h]

theorem val_put (m : SMap α) (d : α) (n j : Nat) (x : α) :
    (m.put n x).val d j = if n = j then x else m.val d j := by
  split
  · rename_i h; subst h; simp
  · rename_i h; exact val_put_ne m d x h

end Sys2Proof.Laws
end

