-- ==== Sys2Proof/Laws/State.lean ====
section
/-! SUPPORT. What each update of one part of the state leaves of the other parts, field by field, and what it
leaves of the part itself. -/

namespace Sys2Proof.Laws

open Sys2Proof.Machine

variable (s : State)

/-! ### modTileAt -/

@[simp] theorem modTileAt_mem (t : Nat) (f : Tile → Tile) : (s.modTileAt t f).mem = s.mem := rfl
@[simp] theorem modTileAt_marks (t : Nat) (f : Tile → Tile) : (s.modTileAt t f).marks = s.marks := rfl
@[simp] theorem modTileAt_lineKey (t : Nat) (f : Tile → Tile) : (s.modTileAt t f).lineKey = s.lineKey := rfl
@[simp] theorem modTileAt_memKeys (t : Nat) (f : Tile → Tile) : (s.modTileAt t f).memKeys = s.memKeys := rfl
@[simp] theorem modTileAt_groups (t : Nat) (f : Tile → Tile) : (s.modTileAt t f).groups = s.groups := rfl
@[simp] theorem modTileAt_dies (t : Nat) (f : Tile → Tile) : (s.modTileAt t f).dies = s.dies := rfl
@[simp] theorem modTileAt_doms (t : Nat) (f : Tile → Tile) : (s.modTileAt t f).doms = s.doms := rfl
@[simp] theorem modTileAt_kernels (t : Nat) (f : Tile → Tile) : (s.modTileAt t f).kernels = s.kernels := rfl
@[simp] theorem modTileAt_ctxs (t : Nat) (f : Tile → Tile) : (s.modTileAt t f).ctxs = s.ctxs := rfl
@[simp] theorem modTileAt_lq (t : Nat) (f : Tile → Tile) : (s.modTileAt t f).lq = s.lq := rfl
@[simp] theorem modTileAt_kq (t : Nat) (f : Tile → Tile) : (s.modTileAt t f).kq = s.kq := rfl
@[simp] theorem modTileAt_tickets (t : Nat) (f : Tile → Tile) : (s.modTileAt t f).tickets = s.tickets := rfl
@[simp] theorem modTileAt_tt (t : Nat) (f : Tile → Tile) : (s.modTileAt t f).tt = s.tt := rfl
@[simp] theorem modTileAt_traces (t : Nat) (f : Tile → Tile) : (s.modTileAt t f).traces = s.traces := rfl
@[simp] theorem modTileAt_heaps (t : Nat) (f : Tile → Tile) : (s.modTileAt t f).heaps = s.heaps := rfl
@[simp] theorem modTileAt_chervil (t : Nat) (f : Tile → Tile) : (s.modTileAt t f).chervil = s.chervil := rfl
@[simp] theorem modTileAt_qps (t : Nat) (f : Tile → Tile) : (s.modTileAt t f).qps = s.qps := rfl
@[simp] theorem modTileAt_ports (t : Nat) (f : Tile → Tile) : (s.modTileAt t f).ports = s.ports := rfl
@[simp] theorem modTileAt_routes (t : Nat) (f : Tile → Tile) : (s.modTileAt t f).routes = s.routes := rfl
@[simp] theorem modTileAt_mctl (t : Nat) (f : Tile → Tile) : (s.modTileAt t f).mctl = s.mctl := rfl
@[simp] theorem modTileAt_mbva (t : Nat) (f : Tile → Tile) : (s.modTileAt t f).mbva = s.mbva := rfl
@[simp] theorem modTileAt_slog (t : Nat) (f : Tile → Tile) : (s.modTileAt t f).slog = s.slog := rfl
@[simp] theorem modTileAt_saves (t : Nat) (f : Tile → Tile) : (s.modTileAt t f).saves = s.saves := rfl
@[simp] theorem modTileAt_plane (t : Nat) (f : Tile → Tile) : (s.modTileAt t f).plane = s.plane := rfl
@[simp] theorem modTileAt_sent (t : Nat) (f : Tile → Tile) : (s.modTileAt t f).sent = s.sent := rfl
@[simp] theorem modTileAt_segsOut (t : Nat) (f : Tile → Tile) : (s.modTileAt t f).segsOut = s.segsOut := rfl
@[simp] theorem modTileAt_logOut (t : Nat) (f : Tile → Tile) : (s.modTileAt t f).logOut = s.logOut := rfl
@[simp] theorem modTileAt_statuses (t : Nat) (f : Tile → Tile) : (s.modTileAt t f).statuses = s.statuses := rfl
@[simp] theorem modTileAt_own (t : Nat) (f : Tile → Tile) : (s.modTileAt t f).own = s.own := rfl
@[simp] theorem modTileAt_pod (t : Nat) (f : Tile → Tile) : (s.modTileAt t f).pod = s.pod := rfl
@[simp] theorem modTileAt_lost (t : Nat) (f : Tile → Tile) : (s.modTileAt t f).lost = s.lost := rfl
@[simp] theorem modTileAt_nextK (t : Nat) (f : Tile → Tile) : (s.modTileAt t f).nextK = s.nextK := rfl
@[simp] theorem modTileAt_nextWait (t : Nat) (f : Tile → Tile) : (s.modTileAt t f).nextWait = s.nextWait := rfl
@[simp] theorem modTileAt_cur (t : Nat) (f : Tile → Tile) : (s.modTileAt t f).cur = s.cur := rfl
@[simp] theorem modTileAt_curRec (t : Nat) (f : Tile → Tile) : (s.modTileAt t f).curRec = s.curRec := rfl
@[simp] theorem modTileAt_issuing (t : Nat) (f : Tile → Tile) : (s.modTileAt t f).issuing = s.issuing := rfl
@[simp] theorem modTileAt_ended (t : Nat) (f : Tile → Tile) : (s.modTileAt t f).ended = s.ended := rfl
@[simp] theorem modTileAt_trapWas (t : Nat) (f : Tile → Tile) : (s.modTileAt t f).trapWas = s.trapWas := rfl
@[simp] theorem modTileAt_agenda (t : Nat) (f : Tile → Tile) : (s.modTileAt t f).agenda = s.agenda := rfl
@[simp] theorem modTileAt_freeCtr (t : Nat) (f : Tile → Tile) : (s.modTileAt t f).freeCtr = s.freeCtr := rfl

/-! ### modStrandAt -/

@[simp] theorem modStrandAt_mem (t r : Nat) (f : Strand → Strand) : (s.modStrandAt t r f).mem = s.mem := rfl
@[simp] theorem modStrandAt_marks (t r : Nat) (f : Strand → Strand) : (s.modStrandAt t r f).marks = s.marks := rfl
@[simp] theorem modStrandAt_lineKey (t r : Nat) (f : Strand → Strand) : (s.modStrandAt t r f).lineKey = s.lineKey := rfl
@[simp] theorem modStrandAt_memKeys (t r : Nat) (f : Strand → Strand) : (s.modStrandAt t r f).memKeys = s.memKeys := rfl
@[simp] theorem modStrandAt_groups (t r : Nat) (f : Strand → Strand) : (s.modStrandAt t r f).groups = s.groups := rfl
@[simp] theorem modStrandAt_dies (t r : Nat) (f : Strand → Strand) : (s.modStrandAt t r f).dies = s.dies := rfl
@[simp] theorem modStrandAt_doms (t r : Nat) (f : Strand → Strand) : (s.modStrandAt t r f).doms = s.doms := rfl
@[simp] theorem modStrandAt_kernels (t r : Nat) (f : Strand → Strand) : (s.modStrandAt t r f).kernels = s.kernels := rfl
@[simp] theorem modStrandAt_ctxs (t r : Nat) (f : Strand → Strand) : (s.modStrandAt t r f).ctxs = s.ctxs := rfl
@[simp] theorem modStrandAt_lq (t r : Nat) (f : Strand → Strand) : (s.modStrandAt t r f).lq = s.lq := rfl
@[simp] theorem modStrandAt_kq (t r : Nat) (f : Strand → Strand) : (s.modStrandAt t r f).kq = s.kq := rfl
@[simp] theorem modStrandAt_tickets (t r : Nat) (f : Strand → Strand) : (s.modStrandAt t r f).tickets = s.tickets := rfl
@[simp] theorem modStrandAt_tt (t r : Nat) (f : Strand → Strand) : (s.modStrandAt t r f).tt = s.tt := rfl
@[simp] theorem modStrandAt_traces (t r : Nat) (f : Strand → Strand) : (s.modStrandAt t r f).traces = s.traces := rfl
@[simp] theorem modStrandAt_heaps (t r : Nat) (f : Strand → Strand) : (s.modStrandAt t r f).heaps = s.heaps := rfl
@[simp] theorem modStrandAt_chervil (t r : Nat) (f : Strand → Strand) : (s.modStrandAt t r f).chervil = s.chervil := rfl
@[simp] theorem modStrandAt_qps (t r : Nat) (f : Strand → Strand) : (s.modStrandAt t r f).qps = s.qps := rfl
@[simp] theorem modStrandAt_ports (t r : Nat) (f : Strand → Strand) : (s.modStrandAt t r f).ports = s.ports := rfl
@[simp] theorem modStrandAt_routes (t r : Nat) (f : Strand → Strand) : (s.modStrandAt t r f).routes = s.routes := rfl
@[simp] theorem modStrandAt_mctl (t r : Nat) (f : Strand → Strand) : (s.modStrandAt t r f).mctl = s.mctl := rfl
@[simp] theorem modStrandAt_mbva (t r : Nat) (f : Strand → Strand) : (s.modStrandAt t r f).mbva = s.mbva := rfl
@[simp] theorem modStrandAt_slog (t r : Nat) (f : Strand → Strand) : (s.modStrandAt t r f).slog = s.slog := rfl
@[simp] theorem modStrandAt_saves (t r : Nat) (f : Strand → Strand) : (s.modStrandAt t r f).saves = s.saves := rfl
@[simp] theorem modStrandAt_plane (t r : Nat) (f : Strand → Strand) : (s.modStrandAt t r f).plane = s.plane := rfl
@[simp] theorem modStrandAt_sent (t r : Nat) (f : Strand → Strand) : (s.modStrandAt t r f).sent = s.sent := rfl
@[simp] theorem modStrandAt_segsOut (t r : Nat) (f : Strand → Strand) : (s.modStrandAt t r f).segsOut = s.segsOut := rfl
@[simp] theorem modStrandAt_logOut (t r : Nat) (f : Strand → Strand) : (s.modStrandAt t r f).logOut = s.logOut := rfl
@[simp] theorem modStrandAt_statuses (t r : Nat) (f : Strand → Strand) : (s.modStrandAt t r f).statuses = s.statuses := rfl
@[simp] theorem modStrandAt_own (t r : Nat) (f : Strand → Strand) : (s.modStrandAt t r f).own = s.own := rfl
@[simp] theorem modStrandAt_pod (t r : Nat) (f : Strand → Strand) : (s.modStrandAt t r f).pod = s.pod := rfl
@[simp] theorem modStrandAt_lost (t r : Nat) (f : Strand → Strand) : (s.modStrandAt t r f).lost = s.lost := rfl
@[simp] theorem modStrandAt_nextK (t r : Nat) (f : Strand → Strand) : (s.modStrandAt t r f).nextK = s.nextK := rfl
@[simp] theorem modStrandAt_nextWait (t r : Nat) (f : Strand → Strand) : (s.modStrandAt t r f).nextWait = s.nextWait := rfl
@[simp] theorem modStrandAt_cur (t r : Nat) (f : Strand → Strand) : (s.modStrandAt t r f).cur = s.cur := rfl
@[simp] theorem modStrandAt_curRec (t r : Nat) (f : Strand → Strand) : (s.modStrandAt t r f).curRec = s.curRec := rfl
@[simp] theorem modStrandAt_issuing (t r : Nat) (f : Strand → Strand) : (s.modStrandAt t r f).issuing = s.issuing := rfl
@[simp] theorem modStrandAt_ended (t r : Nat) (f : Strand → Strand) : (s.modStrandAt t r f).ended = s.ended := rfl
@[simp] theorem modStrandAt_trapWas (t r : Nat) (f : Strand → Strand) : (s.modStrandAt t r f).trapWas = s.trapWas := rfl
@[simp] theorem modStrandAt_agenda (t r : Nat) (f : Strand → Strand) : (s.modStrandAt t r f).agenda = s.agenda := rfl
@[simp] theorem modStrandAt_freeCtr (t r : Nat) (f : Strand → Strand) : (s.modStrandAt t r f).freeCtr = s.freeCtr := rfl

/-! ### modTl -/

@[simp] theorem modTl_mem (f : Tile → Tile) : (s.modTl f).mem = s.mem := rfl
@[simp] theorem modTl_marks (f : Tile → Tile) : (s.modTl f).marks = s.marks := rfl
@[simp] theorem modTl_lineKey (f : Tile → Tile) : (s.modTl f).lineKey = s.lineKey := rfl
@[simp] theorem modTl_memKeys (f : Tile → Tile) : (s.modTl f).memKeys = s.memKeys := rfl
@[simp] theorem modTl_groups (f : Tile → Tile) : (s.modTl f).groups = s.groups := rfl
@[simp] theorem modTl_dies (f : Tile → Tile) : (s.modTl f).dies = s.dies := rfl
@[simp] theorem modTl_doms (f : Tile → Tile) : (s.modTl f).doms = s.doms := rfl
@[simp] theorem modTl_kernels (f : Tile → Tile) : (s.modTl f).kernels = s.kernels := rfl
@[simp] theorem modTl_ctxs (f : Tile → Tile) : (s.modTl f).ctxs = s.ctxs := rfl
@[simp] theorem modTl_lq (f : Tile → Tile) : (s.modTl f).lq = s.lq := rfl
@[simp] theorem modTl_kq (f : Tile → Tile) : (s.modTl f).kq = s.kq := rfl
@[simp] theorem modTl_tickets (f : Tile → Tile) : (s.modTl f).tickets = s.tickets := rfl
@[simp] theorem modTl_tt (f : Tile → Tile) : (s.modTl f).tt = s.tt := rfl
@[simp] theorem modTl_traces (f : Tile → Tile) : (s.modTl f).traces = s.traces := rfl
@[simp] theorem modTl_heaps (f : Tile → Tile) : (s.modTl f).heaps = s.heaps := rfl
@[simp] theorem modTl_chervil (f : Tile → Tile) : (s.modTl f).chervil = s.chervil := rfl
@[simp] theorem modTl_qps (f : Tile → Tile) : (s.modTl f).qps = s.qps := rfl
@[simp] theorem modTl_ports (f : Tile → Tile) : (s.modTl f).ports = s.ports := rfl
@[simp] theorem modTl_routes (f : Tile → Tile) : (s.modTl f).routes = s.routes := rfl
@[simp] theorem modTl_mctl (f : Tile → Tile) : (s.modTl f).mctl = s.mctl := rfl
@[simp] theorem modTl_mbva (f : Tile → Tile) : (s.modTl f).mbva = s.mbva := rfl
@[simp] theorem modTl_slog (f : Tile → Tile) : (s.modTl f).slog = s.slog := rfl
@[simp] theorem modTl_saves (f : Tile → Tile) : (s.modTl f).saves = s.saves := rfl
@[simp] theorem modTl_plane (f : Tile → Tile) : (s.modTl f).plane = s.plane := rfl
@[simp] theorem modTl_sent (f : Tile → Tile) : (s.modTl f).sent = s.sent := rfl
@[simp] theorem modTl_segsOut (f : Tile → Tile) : (s.modTl f).segsOut = s.segsOut := rfl
@[simp] theorem modTl_logOut (f : Tile → Tile) : (s.modTl f).logOut = s.logOut := rfl
@[simp] theorem modTl_statuses (f : Tile → Tile) : (s.modTl f).statuses = s.statuses := rfl
@[simp] theorem modTl_own (f : Tile → Tile) : (s.modTl f).own = s.own := rfl
@[simp] theorem modTl_pod (f : Tile → Tile) : (s.modTl f).pod = s.pod := rfl
@[simp] theorem modTl_lost (f : Tile → Tile) : (s.modTl f).lost = s.lost := rfl
@[simp] theorem modTl_nextK (f : Tile → Tile) : (s.modTl f).nextK = s.nextK := rfl
@[simp] theorem modTl_nextWait (f : Tile → Tile) : (s.modTl f).nextWait = s.nextWait := rfl
@[simp] theorem modTl_cur (f : Tile → Tile) : (s.modTl f).cur = s.cur := rfl
@[simp] theorem modTl_curRec (f : Tile → Tile) : (s.modTl f).curRec = s.curRec := rfl
@[simp] theorem modTl_issuing (f : Tile → Tile) : (s.modTl f).issuing = s.issuing := rfl
@[simp] theorem modTl_ended (f : Tile → Tile) : (s.modTl f).ended = s.ended := rfl
@[simp] theorem modTl_trapWas (f : Tile → Tile) : (s.modTl f).trapWas = s.trapWas := rfl
@[simp] theorem modTl_agenda (f : Tile → Tile) : (s.modTl f).agenda = s.agenda := rfl
@[simp] theorem modTl_freeCtr (f : Tile → Tile) : (s.modTl f).freeCtr = s.freeCtr := rfl

/-! ### modSt -/

@[simp] theorem modSt_mem (f : Strand → Strand) : (s.modSt f).mem = s.mem := rfl
@[simp] theorem modSt_marks (f : Strand → Strand) : (s.modSt f).marks = s.marks := rfl
@[simp] theorem modSt_lineKey (f : Strand → Strand) : (s.modSt f).lineKey = s.lineKey := rfl
@[simp] theorem modSt_memKeys (f : Strand → Strand) : (s.modSt f).memKeys = s.memKeys := rfl
@[simp] theorem modSt_groups (f : Strand → Strand) : (s.modSt f).groups = s.groups := rfl
@[simp] theorem modSt_dies (f : Strand → Strand) : (s.modSt f).dies = s.dies := rfl
@[simp] theorem modSt_doms (f : Strand → Strand) : (s.modSt f).doms = s.doms := rfl
@[simp] theorem modSt_kernels (f : Strand → Strand) : (s.modSt f).kernels = s.kernels := rfl
@[simp] theorem modSt_ctxs (f : Strand → Strand) : (s.modSt f).ctxs = s.ctxs := rfl
@[simp] theorem modSt_lq (f : Strand → Strand) : (s.modSt f).lq = s.lq := rfl
@[simp] theorem modSt_kq (f : Strand → Strand) : (s.modSt f).kq = s.kq := rfl
@[simp] theorem modSt_tickets (f : Strand → Strand) : (s.modSt f).tickets = s.tickets := rfl
@[simp] theorem modSt_tt (f : Strand → Strand) : (s.modSt f).tt = s.tt := rfl
@[simp] theorem modSt_traces (f : Strand → Strand) : (s.modSt f).traces = s.traces := rfl
@[simp] theorem modSt_heaps (f : Strand → Strand) : (s.modSt f).heaps = s.heaps := rfl
@[simp] theorem modSt_chervil (f : Strand → Strand) : (s.modSt f).chervil = s.chervil := rfl
@[simp] theorem modSt_qps (f : Strand → Strand) : (s.modSt f).qps = s.qps := rfl
@[simp] theorem modSt_ports (f : Strand → Strand) : (s.modSt f).ports = s.ports := rfl
@[simp] theorem modSt_routes (f : Strand → Strand) : (s.modSt f).routes = s.routes := rfl
@[simp] theorem modSt_mctl (f : Strand → Strand) : (s.modSt f).mctl = s.mctl := rfl
@[simp] theorem modSt_mbva (f : Strand → Strand) : (s.modSt f).mbva = s.mbva := rfl
@[simp] theorem modSt_slog (f : Strand → Strand) : (s.modSt f).slog = s.slog := rfl
@[simp] theorem modSt_saves (f : Strand → Strand) : (s.modSt f).saves = s.saves := rfl
@[simp] theorem modSt_plane (f : Strand → Strand) : (s.modSt f).plane = s.plane := rfl
@[simp] theorem modSt_sent (f : Strand → Strand) : (s.modSt f).sent = s.sent := rfl
@[simp] theorem modSt_segsOut (f : Strand → Strand) : (s.modSt f).segsOut = s.segsOut := rfl
@[simp] theorem modSt_logOut (f : Strand → Strand) : (s.modSt f).logOut = s.logOut := rfl
@[simp] theorem modSt_statuses (f : Strand → Strand) : (s.modSt f).statuses = s.statuses := rfl
@[simp] theorem modSt_own (f : Strand → Strand) : (s.modSt f).own = s.own := rfl
@[simp] theorem modSt_pod (f : Strand → Strand) : (s.modSt f).pod = s.pod := rfl
@[simp] theorem modSt_lost (f : Strand → Strand) : (s.modSt f).lost = s.lost := rfl
@[simp] theorem modSt_nextK (f : Strand → Strand) : (s.modSt f).nextK = s.nextK := rfl
@[simp] theorem modSt_nextWait (f : Strand → Strand) : (s.modSt f).nextWait = s.nextWait := rfl
@[simp] theorem modSt_cur (f : Strand → Strand) : (s.modSt f).cur = s.cur := rfl
@[simp] theorem modSt_curRec (f : Strand → Strand) : (s.modSt f).curRec = s.curRec := rfl
@[simp] theorem modSt_issuing (f : Strand → Strand) : (s.modSt f).issuing = s.issuing := rfl
@[simp] theorem modSt_ended (f : Strand → Strand) : (s.modSt f).ended = s.ended := rfl
@[simp] theorem modSt_trapWas (f : Strand → Strand) : (s.modSt f).trapWas = s.trapWas := rfl
@[simp] theorem modSt_agenda (f : Strand → Strand) : (s.modSt f).agenda = s.agenda := rfl
@[simp] theorem modSt_freeCtr (f : Strand → Strand) : (s.modSt f).freeCtr = s.freeCtr := rfl

/-! ### modGroup -/

@[simp] theorem modGroup_mem (g : Nat) (f : Group → Group) : (s.modGroup g f).mem = s.mem := rfl
@[simp] theorem modGroup_marks (g : Nat) (f : Group → Group) : (s.modGroup g f).marks = s.marks := rfl
@[simp] theorem modGroup_lineKey (g : Nat) (f : Group → Group) : (s.modGroup g f).lineKey = s.lineKey := rfl
@[simp] theorem modGroup_memKeys (g : Nat) (f : Group → Group) : (s.modGroup g f).memKeys = s.memKeys := rfl
@[simp] theorem modGroup_tiles (g : Nat) (f : Group → Group) : (s.modGroup g f).tiles = s.tiles := rfl
@[simp] theorem modGroup_dies (g : Nat) (f : Group → Group) : (s.modGroup g f).dies = s.dies := rfl
@[simp] theorem modGroup_doms (g : Nat) (f : Group → Group) : (s.modGroup g f).doms = s.doms := rfl
@[simp] theorem modGroup_kernels (g : Nat) (f : Group → Group) : (s.modGroup g f).kernels = s.kernels := rfl
@[simp] theorem modGroup_ctxs (g : Nat) (f : Group → Group) : (s.modGroup g f).ctxs = s.ctxs := rfl
@[simp] theorem modGroup_lq (g : Nat) (f : Group → Group) : (s.modGroup g f).lq = s.lq := rfl
@[simp] theorem modGroup_kq (g : Nat) (f : Group → Group) : (s.modGroup g f).kq = s.kq := rfl
@[simp] theorem modGroup_tickets (g : Nat) (f : Group → Group) : (s.modGroup g f).tickets = s.tickets := rfl
@[simp] theorem modGroup_tt (g : Nat) (f : Group → Group) : (s.modGroup g f).tt = s.tt := rfl
@[simp] theorem modGroup_traces (g : Nat) (f : Group → Group) : (s.modGroup g f).traces = s.traces := rfl
@[simp] theorem modGroup_heaps (g : Nat) (f : Group → Group) : (s.modGroup g f).heaps = s.heaps := rfl
@[simp] theorem modGroup_chervil (g : Nat) (f : Group → Group) : (s.modGroup g f).chervil = s.chervil := rfl
@[simp] theorem modGroup_qps (g : Nat) (f : Group → Group) : (s.modGroup g f).qps = s.qps := rfl
@[simp] theorem modGroup_ports (g : Nat) (f : Group → Group) : (s.modGroup g f).ports = s.ports := rfl
@[simp] theorem modGroup_routes (g : Nat) (f : Group → Group) : (s.modGroup g f).routes = s.routes := rfl
@[simp] theorem modGroup_mctl (g : Nat) (f : Group → Group) : (s.modGroup g f).mctl = s.mctl := rfl
@[simp] theorem modGroup_mbva (g : Nat) (f : Group → Group) : (s.modGroup g f).mbva = s.mbva := rfl
@[simp] theorem modGroup_slog (g : Nat) (f : Group → Group) : (s.modGroup g f).slog = s.slog := rfl
@[simp] theorem modGroup_saves (g : Nat) (f : Group → Group) : (s.modGroup g f).saves = s.saves := rfl
@[simp] theorem modGroup_plane (g : Nat) (f : Group → Group) : (s.modGroup g f).plane = s.plane := rfl
@[simp] theorem modGroup_sent (g : Nat) (f : Group → Group) : (s.modGroup g f).sent = s.sent := rfl
@[simp] theorem modGroup_segsOut (g : Nat) (f : Group → Group) : (s.modGroup g f).segsOut = s.segsOut := rfl
@[simp] theorem modGroup_logOut (g : Nat) (f : Group → Group) : (s.modGroup g f).logOut = s.logOut := rfl
@[simp] theorem modGroup_statuses (g : Nat) (f : Group → Group) : (s.modGroup g f).statuses = s.statuses := rfl
@[simp] theorem modGroup_own (g : Nat) (f : Group → Group) : (s.modGroup g f).own = s.own := rfl
@[simp] theorem modGroup_pod (g : Nat) (f : Group → Group) : (s.modGroup g f).pod = s.pod := rfl
@[simp] theorem modGroup_lost (g : Nat) (f : Group → Group) : (s.modGroup g f).lost = s.lost := rfl
@[simp] theorem modGroup_nextK (g : Nat) (f : Group → Group) : (s.modGroup g f).nextK = s.nextK := rfl
@[simp] theorem modGroup_nextWait (g : Nat) (f : Group → Group) : (s.modGroup g f).nextWait = s.nextWait := rfl
@[simp] theorem modGroup_cur (g : Nat) (f : Group → Group) : (s.modGroup g f).cur = s.cur := rfl
@[simp] theorem modGroup_curRec (g : Nat) (f : Group → Group) : (s.modGroup g f).curRec = s.curRec := rfl
@[simp] theorem modGroup_issuing (g : Nat) (f : Group → Group) : (s.modGroup g f).issuing = s.issuing := rfl
@[simp] theorem modGroup_ended (g : Nat) (f : Group → Group) : (s.modGroup g f).ended = s.ended := rfl
@[simp] theorem modGroup_trapWas (g : Nat) (f : Group → Group) : (s.modGroup g f).trapWas = s.trapWas := rfl
@[simp] theorem modGroup_agenda (g : Nat) (f : Group → Group) : (s.modGroup g f).agenda = s.agenda := rfl
@[simp] theorem modGroup_freeCtr (g : Nat) (f : Group → Group) : (s.modGroup g f).freeCtr = s.freeCtr := rfl

/-! ### modDie -/

@[simp] theorem modDie_mem (d : Nat) (f : Die → Die) : (s.modDie d f).mem = s.mem := rfl
@[simp] theorem modDie_marks (d : Nat) (f : Die → Die) : (s.modDie d f).marks = s.marks := rfl
@[simp] theorem modDie_lineKey (d : Nat) (f : Die → Die) : (s.modDie d f).lineKey = s.lineKey := rfl
@[simp] theorem modDie_memKeys (d : Nat) (f : Die → Die) : (s.modDie d f).memKeys = s.memKeys := rfl
@[simp] theorem modDie_tiles (d : Nat) (f : Die → Die) : (s.modDie d f).tiles = s.tiles := rfl
@[simp] theorem modDie_groups (d : Nat) (f : Die → Die) : (s.modDie d f).groups = s.groups := rfl
@[simp] theorem modDie_doms (d : Nat) (f : Die → Die) : (s.modDie d f).doms = s.doms := rfl
@[simp] theorem modDie_kernels (d : Nat) (f : Die → Die) : (s.modDie d f).kernels = s.kernels := rfl
@[simp] theorem modDie_ctxs (d : Nat) (f : Die → Die) : (s.modDie d f).ctxs = s.ctxs := rfl
@[simp] theorem modDie_lq (d : Nat) (f : Die → Die) : (s.modDie d f).lq = s.lq := rfl
@[simp] theorem modDie_kq (d : Nat) (f : Die → Die) : (s.modDie d f).kq = s.kq := rfl
@[simp] theorem modDie_tickets (d : Nat) (f : Die → Die) : (s.modDie d f).tickets = s.tickets := rfl
@[simp] theorem modDie_tt (d : Nat) (f : Die → Die) : (s.modDie d f).tt = s.tt := rfl
@[simp] theorem modDie_traces (d : Nat) (f : Die → Die) : (s.modDie d f).traces = s.traces := rfl
@[simp] theorem modDie_heaps (d : Nat) (f : Die → Die) : (s.modDie d f).heaps = s.heaps := rfl
@[simp] theorem modDie_chervil (d : Nat) (f : Die → Die) : (s.modDie d f).chervil = s.chervil := rfl
@[simp] theorem modDie_qps (d : Nat) (f : Die → Die) : (s.modDie d f).qps = s.qps := rfl
@[simp] theorem modDie_ports (d : Nat) (f : Die → Die) : (s.modDie d f).ports = s.ports := rfl
@[simp] theorem modDie_routes (d : Nat) (f : Die → Die) : (s.modDie d f).routes = s.routes := rfl
@[simp] theorem modDie_mctl (d : Nat) (f : Die → Die) : (s.modDie d f).mctl = s.mctl := rfl
@[simp] theorem modDie_mbva (d : Nat) (f : Die → Die) : (s.modDie d f).mbva = s.mbva := rfl
@[simp] theorem modDie_slog (d : Nat) (f : Die → Die) : (s.modDie d f).slog = s.slog := rfl
@[simp] theorem modDie_saves (d : Nat) (f : Die → Die) : (s.modDie d f).saves = s.saves := rfl
@[simp] theorem modDie_plane (d : Nat) (f : Die → Die) : (s.modDie d f).plane = s.plane := rfl
@[simp] theorem modDie_sent (d : Nat) (f : Die → Die) : (s.modDie d f).sent = s.sent := rfl
@[simp] theorem modDie_segsOut (d : Nat) (f : Die → Die) : (s.modDie d f).segsOut = s.segsOut := rfl
@[simp] theorem modDie_logOut (d : Nat) (f : Die → Die) : (s.modDie d f).logOut = s.logOut := rfl
@[simp] theorem modDie_statuses (d : Nat) (f : Die → Die) : (s.modDie d f).statuses = s.statuses := rfl
@[simp] theorem modDie_own (d : Nat) (f : Die → Die) : (s.modDie d f).own = s.own := rfl
@[simp] theorem modDie_pod (d : Nat) (f : Die → Die) : (s.modDie d f).pod = s.pod := rfl
@[simp] theorem modDie_lost (d : Nat) (f : Die → Die) : (s.modDie d f).lost = s.lost := rfl
@[simp] theorem modDie_nextK (d : Nat) (f : Die → Die) : (s.modDie d f).nextK = s.nextK := rfl
@[simp] theorem modDie_nextWait (d : Nat) (f : Die → Die) : (s.modDie d f).nextWait = s.nextWait := rfl
@[simp] theorem modDie_cur (d : Nat) (f : Die → Die) : (s.modDie d f).cur = s.cur := rfl
@[simp] theorem modDie_curRec (d : Nat) (f : Die → Die) : (s.modDie d f).curRec = s.curRec := rfl
@[simp] theorem modDie_issuing (d : Nat) (f : Die → Die) : (s.modDie d f).issuing = s.issuing := rfl
@[simp] theorem modDie_ended (d : Nat) (f : Die → Die) : (s.modDie d f).ended = s.ended := rfl
@[simp] theorem modDie_trapWas (d : Nat) (f : Die → Die) : (s.modDie d f).trapWas = s.trapWas := rfl
@[simp] theorem modDie_agenda (d : Nat) (f : Die → Die) : (s.modDie d f).agenda = s.agenda := rfl
@[simp] theorem modDie_freeCtr (d : Nat) (f : Die → Die) : (s.modDie d f).freeCtr = s.freeCtr := rfl

/-! ### modDom -/

@[simp] theorem modDom_mem (l d : Nat) (f : Domain → Domain) : (s.modDom l d f).mem = s.mem := rfl
@[simp] theorem modDom_marks (l d : Nat) (f : Domain → Domain) : (s.modDom l d f).marks = s.marks := rfl
@[simp] theorem modDom_lineKey (l d : Nat) (f : Domain → Domain) : (s.modDom l d f).lineKey = s.lineKey := rfl
@[simp] theorem modDom_memKeys (l d : Nat) (f : Domain → Domain) : (s.modDom l d f).memKeys = s.memKeys := rfl
@[simp] theorem modDom_tiles (l d : Nat) (f : Domain → Domain) : (s.modDom l d f).tiles = s.tiles := rfl
@[simp] theorem modDom_groups (l d : Nat) (f : Domain → Domain) : (s.modDom l d f).groups = s.groups := rfl
@[simp] theorem modDom_dies (l d : Nat) (f : Domain → Domain) : (s.modDom l d f).dies = s.dies := rfl
@[simp] theorem modDom_kernels (l d : Nat) (f : Domain → Domain) : (s.modDom l d f).kernels = s.kernels := rfl
@[simp] theorem modDom_ctxs (l d : Nat) (f : Domain → Domain) : (s.modDom l d f).ctxs = s.ctxs := rfl
@[simp] theorem modDom_lq (l d : Nat) (f : Domain → Domain) : (s.modDom l d f).lq = s.lq := rfl
@[simp] theorem modDom_kq (l d : Nat) (f : Domain → Domain) : (s.modDom l d f).kq = s.kq := rfl
@[simp] theorem modDom_tickets (l d : Nat) (f : Domain → Domain) : (s.modDom l d f).tickets = s.tickets := rfl
@[simp] theorem modDom_tt (l d : Nat) (f : Domain → Domain) : (s.modDom l d f).tt = s.tt := rfl
@[simp] theorem modDom_traces (l d : Nat) (f : Domain → Domain) : (s.modDom l d f).traces = s.traces := rfl
@[simp] theorem modDom_heaps (l d : Nat) (f : Domain → Domain) : (s.modDom l d f).heaps = s.heaps := rfl
@[simp] theorem modDom_chervil (l d : Nat) (f : Domain → Domain) : (s.modDom l d f).chervil = s.chervil := rfl
@[simp] theorem modDom_qps (l d : Nat) (f : Domain → Domain) : (s.modDom l d f).qps = s.qps := rfl
@[simp] theorem modDom_ports (l d : Nat) (f : Domain → Domain) : (s.modDom l d f).ports = s.ports := rfl
@[simp] theorem modDom_routes (l d : Nat) (f : Domain → Domain) : (s.modDom l d f).routes = s.routes := rfl
@[simp] theorem modDom_mctl (l d : Nat) (f : Domain → Domain) : (s.modDom l d f).mctl = s.mctl := rfl
@[simp] theorem modDom_mbva (l d : Nat) (f : Domain → Domain) : (s.modDom l d f).mbva = s.mbva := rfl
@[simp] theorem modDom_slog (l d : Nat) (f : Domain → Domain) : (s.modDom l d f).slog = s.slog := rfl
@[simp] theorem modDom_saves (l d : Nat) (f : Domain → Domain) : (s.modDom l d f).saves = s.saves := rfl
@[simp] theorem modDom_plane (l d : Nat) (f : Domain → Domain) : (s.modDom l d f).plane = s.plane := rfl
@[simp] theorem modDom_sent (l d : Nat) (f : Domain → Domain) : (s.modDom l d f).sent = s.sent := rfl
@[simp] theorem modDom_segsOut (l d : Nat) (f : Domain → Domain) : (s.modDom l d f).segsOut = s.segsOut := rfl
@[simp] theorem modDom_logOut (l d : Nat) (f : Domain → Domain) : (s.modDom l d f).logOut = s.logOut := rfl
@[simp] theorem modDom_statuses (l d : Nat) (f : Domain → Domain) : (s.modDom l d f).statuses = s.statuses := rfl
@[simp] theorem modDom_own (l d : Nat) (f : Domain → Domain) : (s.modDom l d f).own = s.own := rfl
@[simp] theorem modDom_pod (l d : Nat) (f : Domain → Domain) : (s.modDom l d f).pod = s.pod := rfl
@[simp] theorem modDom_lost (l d : Nat) (f : Domain → Domain) : (s.modDom l d f).lost = s.lost := rfl
@[simp] theorem modDom_nextK (l d : Nat) (f : Domain → Domain) : (s.modDom l d f).nextK = s.nextK := rfl
@[simp] theorem modDom_nextWait (l d : Nat) (f : Domain → Domain) : (s.modDom l d f).nextWait = s.nextWait := rfl
@[simp] theorem modDom_cur (l d : Nat) (f : Domain → Domain) : (s.modDom l d f).cur = s.cur := rfl
@[simp] theorem modDom_curRec (l d : Nat) (f : Domain → Domain) : (s.modDom l d f).curRec = s.curRec := rfl
@[simp] theorem modDom_issuing (l d : Nat) (f : Domain → Domain) : (s.modDom l d f).issuing = s.issuing := rfl
@[simp] theorem modDom_ended (l d : Nat) (f : Domain → Domain) : (s.modDom l d f).ended = s.ended := rfl
@[simp] theorem modDom_trapWas (l d : Nat) (f : Domain → Domain) : (s.modDom l d f).trapWas = s.trapWas := rfl
@[simp] theorem modDom_agenda (l d : Nat) (f : Domain → Domain) : (s.modDom l d f).agenda = s.agenda := rfl
@[simp] theorem modDom_freeCtr (l d : Nat) (f : Domain → Domain) : (s.modDom l d f).freeCtr = s.freeCtr := rfl

/-! ### modKern -/

@[simp] theorem modKern_mem (k : Nat) (f : Kernel → Kernel) : (s.modKern k f).mem = s.mem := rfl
@[simp] theorem modKern_marks (k : Nat) (f : Kernel → Kernel) : (s.modKern k f).marks = s.marks := rfl
@[simp] theorem modKern_lineKey (k : Nat) (f : Kernel → Kernel) : (s.modKern k f).lineKey = s.lineKey := rfl
@[simp] theorem modKern_memKeys (k : Nat) (f : Kernel → Kernel) : (s.modKern k f).memKeys = s.memKeys := rfl
@[simp] theorem modKern_tiles (k : Nat) (f : Kernel → Kernel) : (s.modKern k f).tiles = s.tiles := rfl
@[simp] theorem modKern_groups (k : Nat) (f : Kernel → Kernel) : (s.modKern k f).groups = s.groups := rfl
@[simp] theorem modKern_dies (k : Nat) (f : Kernel → Kernel) : (s.modKern k f).dies = s.dies := rfl
@[simp] theorem modKern_doms (k : Nat) (f : Kernel → Kernel) : (s.modKern k f).doms = s.doms := rfl
@[simp] theorem modKern_ctxs (k : Nat) (f : Kernel → Kernel) : (s.modKern k f).ctxs = s.ctxs := rfl
@[simp] theorem modKern_lq (k : Nat) (f : Kernel → Kernel) : (s.modKern k f).lq = s.lq := rfl
@[simp] theorem modKern_kq (k : Nat) (f : Kernel → Kernel) : (s.modKern k f).kq = s.kq := rfl
@[simp] theorem modKern_tickets (k : Nat) (f : Kernel → Kernel) : (s.modKern k f).tickets = s.tickets := rfl
@[simp] theorem modKern_tt (k : Nat) (f : Kernel → Kernel) : (s.modKern k f).tt = s.tt := rfl
@[simp] theorem modKern_traces (k : Nat) (f : Kernel → Kernel) : (s.modKern k f).traces = s.traces := rfl
@[simp] theorem modKern_heaps (k : Nat) (f : Kernel → Kernel) : (s.modKern k f).heaps = s.heaps := rfl
@[simp] theorem modKern_chervil (k : Nat) (f : Kernel → Kernel) : (s.modKern k f).chervil = s.chervil := rfl
@[simp] theorem modKern_qps (k : Nat) (f : Kernel → Kernel) : (s.modKern k f).qps = s.qps := rfl
@[simp] theorem modKern_ports (k : Nat) (f : Kernel → Kernel) : (s.modKern k f).ports = s.ports := rfl
@[simp] theorem modKern_routes (k : Nat) (f : Kernel → Kernel) : (s.modKern k f).routes = s.routes := rfl
@[simp] theorem modKern_mctl (k : Nat) (f : Kernel → Kernel) : (s.modKern k f).mctl = s.mctl := rfl
@[simp] theorem modKern_mbva (k : Nat) (f : Kernel → Kernel) : (s.modKern k f).mbva = s.mbva := rfl
@[simp] theorem modKern_slog (k : Nat) (f : Kernel → Kernel) : (s.modKern k f).slog = s.slog := rfl
@[simp] theorem modKern_saves (k : Nat) (f : Kernel → Kernel) : (s.modKern k f).saves = s.saves := rfl
@[simp] theorem modKern_plane (k : Nat) (f : Kernel → Kernel) : (s.modKern k f).plane = s.plane := rfl
@[simp] theorem modKern_sent (k : Nat) (f : Kernel → Kernel) : (s.modKern k f).sent = s.sent := rfl
@[simp] theorem modKern_segsOut (k : Nat) (f : Kernel → Kernel) : (s.modKern k f).segsOut = s.segsOut := rfl
@[simp] theorem modKern_logOut (k : Nat) (f : Kernel → Kernel) : (s.modKern k f).logOut = s.logOut := rfl
@[simp] theorem modKern_statuses (k : Nat) (f : Kernel → Kernel) : (s.modKern k f).statuses = s.statuses := rfl
@[simp] theorem modKern_own (k : Nat) (f : Kernel → Kernel) : (s.modKern k f).own = s.own := rfl
@[simp] theorem modKern_pod (k : Nat) (f : Kernel → Kernel) : (s.modKern k f).pod = s.pod := rfl
@[simp] theorem modKern_lost (k : Nat) (f : Kernel → Kernel) : (s.modKern k f).lost = s.lost := rfl
@[simp] theorem modKern_nextK (k : Nat) (f : Kernel → Kernel) : (s.modKern k f).nextK = s.nextK := rfl
@[simp] theorem modKern_nextWait (k : Nat) (f : Kernel → Kernel) : (s.modKern k f).nextWait = s.nextWait := rfl
@[simp] theorem modKern_cur (k : Nat) (f : Kernel → Kernel) : (s.modKern k f).cur = s.cur := rfl
@[simp] theorem modKern_curRec (k : Nat) (f : Kernel → Kernel) : (s.modKern k f).curRec = s.curRec := rfl
@[simp] theorem modKern_issuing (k : Nat) (f : Kernel → Kernel) : (s.modKern k f).issuing = s.issuing := rfl
@[simp] theorem modKern_ended (k : Nat) (f : Kernel → Kernel) : (s.modKern k f).ended = s.ended := rfl
@[simp] theorem modKern_trapWas (k : Nat) (f : Kernel → Kernel) : (s.modKern k f).trapWas = s.trapWas := rfl
@[simp] theorem modKern_agenda (k : Nat) (f : Kernel → Kernel) : (s.modKern k f).agenda = s.agenda := rfl
@[simp] theorem modKern_freeCtr (k : Nat) (f : Kernel → Kernel) : (s.modKern k f).freeCtr = s.freeCtr := rfl

/-! ### draw -/

@[simp] theorem draw_mem : s.draw.mem = s.mem := rfl
@[simp] theorem draw_marks : s.draw.marks = s.marks := rfl
@[simp] theorem draw_lineKey : s.draw.lineKey = s.lineKey := rfl
@[simp] theorem draw_memKeys : s.draw.memKeys = s.memKeys := rfl
@[simp] theorem draw_tiles : s.draw.tiles = s.tiles := rfl
@[simp] theorem draw_groups : s.draw.groups = s.groups := rfl
@[simp] theorem draw_dies : s.draw.dies = s.dies := rfl
@[simp] theorem draw_doms : s.draw.doms = s.doms := rfl
@[simp] theorem draw_kernels : s.draw.kernels = s.kernels := rfl
@[simp] theorem draw_ctxs : s.draw.ctxs = s.ctxs := rfl
@[simp] theorem draw_lq : s.draw.lq = s.lq := rfl
@[simp] theorem draw_kq : s.draw.kq = s.kq := rfl
@[simp] theorem draw_tickets : s.draw.tickets = s.tickets := rfl
@[simp] theorem draw_tt : s.draw.tt = s.tt := rfl
@[simp] theorem draw_traces : s.draw.traces = s.traces := rfl
@[simp] theorem draw_heaps : s.draw.heaps = s.heaps := rfl
@[simp] theorem draw_chervil : s.draw.chervil = s.chervil := rfl
@[simp] theorem draw_qps : s.draw.qps = s.qps := rfl
@[simp] theorem draw_ports : s.draw.ports = s.ports := rfl
@[simp] theorem draw_routes : s.draw.routes = s.routes := rfl
@[simp] theorem draw_mctl : s.draw.mctl = s.mctl := rfl
@[simp] theorem draw_mbva : s.draw.mbva = s.mbva := rfl
@[simp] theorem draw_slog : s.draw.slog = s.slog := rfl
@[simp] theorem draw_saves : s.draw.saves = s.saves := rfl
@[simp] theorem draw_plane : s.draw.plane = s.plane := rfl
@[simp] theorem draw_sent : s.draw.sent = s.sent := rfl
@[simp] theorem draw_segsOut : s.draw.segsOut = s.segsOut := rfl
@[simp] theorem draw_logOut : s.draw.logOut = s.logOut := rfl
@[simp] theorem draw_statuses : s.draw.statuses = s.statuses := rfl
@[simp] theorem draw_own : s.draw.own = s.own := rfl
@[simp] theorem draw_pod : s.draw.pod = s.pod := rfl
@[simp] theorem draw_lost : s.draw.lost = s.lost := rfl
@[simp] theorem draw_nextK : s.draw.nextK = s.nextK := rfl
@[simp] theorem draw_nextWait : s.draw.nextWait = s.nextWait := rfl
@[simp] theorem draw_cur : s.draw.cur = s.cur := rfl
@[simp] theorem draw_curRec : s.draw.curRec = s.curRec := rfl
@[simp] theorem draw_issuing : s.draw.issuing = s.issuing := rfl
@[simp] theorem draw_ended : s.draw.ended = s.ended := rfl
@[simp] theorem draw_trapWas : s.draw.trapWas = s.trapWas := rfl
@[simp] theorem draw_agenda : s.draw.agenda = s.agenda := rfl

/-! ### modEntry -/

@[simp] theorem modEntry_mem (i : Nat) (f : TtEntry → TtEntry) : (s.modEntry i f).mem = s.mem := rfl
@[simp] theorem modEntry_marks (i : Nat) (f : TtEntry → TtEntry) : (s.modEntry i f).marks = s.marks := rfl
@[simp] theorem modEntry_lineKey (i : Nat) (f : TtEntry → TtEntry) : (s.modEntry i f).lineKey = s.lineKey := rfl
@[simp] theorem modEntry_memKeys (i : Nat) (f : TtEntry → TtEntry) : (s.modEntry i f).memKeys = s.memKeys := rfl
@[simp] theorem modEntry_tiles (i : Nat) (f : TtEntry → TtEntry) : (s.modEntry i f).tiles = s.tiles := rfl
@[simp] theorem modEntry_groups (i : Nat) (f : TtEntry → TtEntry) : (s.modEntry i f).groups = s.groups := rfl
@[simp] theorem modEntry_dies (i : Nat) (f : TtEntry → TtEntry) : (s.modEntry i f).dies = s.dies := rfl
@[simp] theorem modEntry_doms (i : Nat) (f : TtEntry → TtEntry) : (s.modEntry i f).doms = s.doms := rfl
@[simp] theorem modEntry_kernels (i : Nat) (f : TtEntry → TtEntry) : (s.modEntry i f).kernels = s.kernels := rfl
@[simp] theorem modEntry_ctxs (i : Nat) (f : TtEntry → TtEntry) : (s.modEntry i f).ctxs = s.ctxs := rfl
@[simp] theorem modEntry_lq (i : Nat) (f : TtEntry → TtEntry) : (s.modEntry i f).lq = s.lq := rfl
@[simp] theorem modEntry_kq (i : Nat) (f : TtEntry → TtEntry) : (s.modEntry i f).kq = s.kq := rfl
@[simp] theorem modEntry_tickets (i : Nat) (f : TtEntry → TtEntry) : (s.modEntry i f).tickets = s.tickets := rfl
@[simp] theorem modEntry_traces (i : Nat) (f : TtEntry → TtEntry) : (s.modEntry i f).traces = s.traces := rfl
@[simp] theorem modEntry_heaps (i : Nat) (f : TtEntry → TtEntry) : (s.modEntry i f).heaps = s.heaps := rfl
@[simp] theorem modEntry_chervil (i : Nat) (f : TtEntry → TtEntry) : (s.modEntry i f).chervil = s.chervil := rfl
@[simp] theorem modEntry_qps (i : Nat) (f : TtEntry → TtEntry) : (s.modEntry i f).qps = s.qps := rfl
@[simp] theorem modEntry_ports (i : Nat) (f : TtEntry → TtEntry) : (s.modEntry i f).ports = s.ports := rfl
@[simp] theorem modEntry_routes (i : Nat) (f : TtEntry → TtEntry) : (s.modEntry i f).routes = s.routes := rfl
@[simp] theorem modEntry_mctl (i : Nat) (f : TtEntry → TtEntry) : (s.modEntry i f).mctl = s.mctl := rfl
@[simp] theorem modEntry_mbva (i : Nat) (f : TtEntry → TtEntry) : (s.modEntry i f).mbva = s.mbva := rfl
@[simp] theorem modEntry_slog (i : Nat) (f : TtEntry → TtEntry) : (s.modEntry i f).slog = s.slog := rfl
@[simp] theorem modEntry_saves (i : Nat) (f : TtEntry → TtEntry) : (s.modEntry i f).saves = s.saves := rfl
@[simp] theorem modEntry_plane (i : Nat) (f : TtEntry → TtEntry) : (s.modEntry i f).plane = s.plane := rfl
@[simp] theorem modEntry_sent (i : Nat) (f : TtEntry → TtEntry) : (s.modEntry i f).sent = s.sent := rfl
@[simp] theorem modEntry_segsOut (i : Nat) (f : TtEntry → TtEntry) : (s.modEntry i f).segsOut = s.segsOut := rfl
@[simp] theorem modEntry_logOut (i : Nat) (f : TtEntry → TtEntry) : (s.modEntry i f).logOut = s.logOut := rfl
@[simp] theorem modEntry_statuses (i : Nat) (f : TtEntry → TtEntry) : (s.modEntry i f).statuses = s.statuses := rfl
@[simp] theorem modEntry_own (i : Nat) (f : TtEntry → TtEntry) : (s.modEntry i f).own = s.own := rfl
@[simp] theorem modEntry_pod (i : Nat) (f : TtEntry → TtEntry) : (s.modEntry i f).pod = s.pod := rfl
@[simp] theorem modEntry_lost (i : Nat) (f : TtEntry → TtEntry) : (s.modEntry i f).lost = s.lost := rfl
@[simp] theorem modEntry_nextK (i : Nat) (f : TtEntry → TtEntry) : (s.modEntry i f).nextK = s.nextK := rfl
@[simp] theorem modEntry_nextWait (i : Nat) (f : TtEntry → TtEntry) : (s.modEntry i f).nextWait = s.nextWait := rfl
@[simp] theorem modEntry_cur (i : Nat) (f : TtEntry → TtEntry) : (s.modEntry i f).cur = s.cur := rfl
@[simp] theorem modEntry_curRec (i : Nat) (f : TtEntry → TtEntry) : (s.modEntry i f).curRec = s.curRec := rfl
@[simp] theorem modEntry_issuing (i : Nat) (f : TtEntry → TtEntry) : (s.modEntry i f).issuing = s.issuing := rfl
@[simp] theorem modEntry_ended (i : Nat) (f : TtEntry → TtEntry) : (s.modEntry i f).ended = s.ended := rfl
@[simp] theorem modEntry_trapWas (i : Nat) (f : TtEntry → TtEntry) : (s.modEntry i f).trapWas = s.trapWas := rfl
@[simp] theorem modEntry_agenda (i : Nat) (f : TtEntry → TtEntry) : (s.modEntry i f).agenda = s.agenda := rfl
@[simp] theorem modEntry_freeCtr (i : Nat) (f : TtEntry → TtEntry) : (s.modEntry i f).freeCtr = s.freeCtr := rfl

/-! ### modHeap -/

@[simp] theorem modHeap_mem (i : Nat) (f : Heap → Heap) : (s.modHeap i f).mem = s.mem := rfl
@[simp] theorem modHeap_marks (i : Nat) (f : Heap → Heap) : (s.modHeap i f).marks = s.marks := rfl
@[simp] theorem modHeap_lineKey (i : Nat) (f : Heap → Heap) : (s.modHeap i f).lineKey = s.lineKey := rfl
@[simp] theorem modHeap_memKeys (i : Nat) (f : Heap → Heap) : (s.modHeap i f).memKeys = s.memKeys := rfl
@[simp] theorem modHeap_tiles (i : Nat) (f : Heap → Heap) : (s.modHeap i f).tiles = s.tiles := rfl
@[simp] theorem modHeap_groups (i : Nat) (f : Heap → Heap) : (s.modHeap i f).groups = s.groups := rfl
@[simp] theorem modHeap_dies (i : Nat) (f : Heap → Heap) : (s.modHeap i f).dies = s.dies := rfl
@[simp] theorem modHeap_doms (i : Nat) (f : Heap → Heap) : (s.modHeap i f).doms = s.doms := rfl
@[simp] theorem modHeap_kernels (i : Nat) (f : Heap → Heap) : (s.modHeap i f).kernels = s.kernels := rfl
@[simp] theorem modHeap_ctxs (i : Nat) (f : Heap → Heap) : (s.modHeap i f).ctxs = s.ctxs := rfl
@[simp] theorem modHeap_lq (i : Nat) (f : Heap → Heap) : (s.modHeap i f).lq = s.lq := rfl
@[simp] theorem modHeap_kq (i : Nat) (f : Heap → Heap) : (s.modHeap i f).kq = s.kq := rfl
@[simp] theorem modHeap_tickets (i : Nat) (f : Heap → Heap) : (s.modHeap i f).tickets = s.tickets := rfl
@[simp] theorem modHeap_tt (i : Nat) (f : Heap → Heap) : (s.modHeap i f).tt = s.tt := rfl
@[simp] theorem modHeap_traces (i : Nat) (f : Heap → Heap) : (s.modHeap i f).traces = s.traces := rfl
@[simp] theorem modHeap_chervil (i : Nat) (f : Heap → Heap) : (s.modHeap i f).chervil = s.chervil := rfl
@[simp] theorem modHeap_qps (i : Nat) (f : Heap → Heap) : (s.modHeap i f).qps = s.qps := rfl
@[simp] theorem modHeap_ports (i : Nat) (f : Heap → Heap) : (s.modHeap i f).ports = s.ports := rfl
@[simp] theorem modHeap_routes (i : Nat) (f : Heap → Heap) : (s.modHeap i f).routes = s.routes := rfl
@[simp] theorem modHeap_mctl (i : Nat) (f : Heap → Heap) : (s.modHeap i f).mctl = s.mctl := rfl
@[simp] theorem modHeap_mbva (i : Nat) (f : Heap → Heap) : (s.modHeap i f).mbva = s.mbva := rfl
@[simp] theorem modHeap_slog (i : Nat) (f : Heap → Heap) : (s.modHeap i f).slog = s.slog := rfl
@[simp] theorem modHeap_saves (i : Nat) (f : Heap → Heap) : (s.modHeap i f).saves = s.saves := rfl
@[simp] theorem modHeap_plane (i : Nat) (f : Heap → Heap) : (s.modHeap i f).plane = s.plane := rfl
@[simp] theorem modHeap_sent (i : Nat) (f : Heap → Heap) : (s.modHeap i f).sent = s.sent := rfl
@[simp] theorem modHeap_segsOut (i : Nat) (f : Heap → Heap) : (s.modHeap i f).segsOut = s.segsOut := rfl
@[simp] theorem modHeap_logOut (i : Nat) (f : Heap → Heap) : (s.modHeap i f).logOut = s.logOut := rfl
@[simp] theorem modHeap_statuses (i : Nat) (f : Heap → Heap) : (s.modHeap i f).statuses = s.statuses := rfl
@[simp] theorem modHeap_own (i : Nat) (f : Heap → Heap) : (s.modHeap i f).own = s.own := rfl
@[simp] theorem modHeap_pod (i : Nat) (f : Heap → Heap) : (s.modHeap i f).pod = s.pod := rfl
@[simp] theorem modHeap_lost (i : Nat) (f : Heap → Heap) : (s.modHeap i f).lost = s.lost := rfl
@[simp] theorem modHeap_nextK (i : Nat) (f : Heap → Heap) : (s.modHeap i f).nextK = s.nextK := rfl
@[simp] theorem modHeap_nextWait (i : Nat) (f : Heap → Heap) : (s.modHeap i f).nextWait = s.nextWait := rfl
@[simp] theorem modHeap_cur (i : Nat) (f : Heap → Heap) : (s.modHeap i f).cur = s.cur := rfl
@[simp] theorem modHeap_curRec (i : Nat) (f : Heap → Heap) : (s.modHeap i f).curRec = s.curRec := rfl
@[simp] theorem modHeap_issuing (i : Nat) (f : Heap → Heap) : (s.modHeap i f).issuing = s.issuing := rfl
@[simp] theorem modHeap_ended (i : Nat) (f : Heap → Heap) : (s.modHeap i f).ended = s.ended := rfl
@[simp] theorem modHeap_trapWas (i : Nat) (f : Heap → Heap) : (s.modHeap i f).trapWas = s.trapWas := rfl
@[simp] theorem modHeap_agenda (i : Nat) (f : Heap → Heap) : (s.modHeap i f).agenda = s.agenda := rfl
@[simp] theorem modHeap_freeCtr (i : Nat) (f : Heap → Heap) : (s.modHeap i f).freeCtr = s.freeCtr := rfl

/-! ### modQp -/

@[simp] theorem modQp_mem (i : Nat) (f : Qp → Qp) : (s.modQp i f).mem = s.mem := rfl
@[simp] theorem modQp_marks (i : Nat) (f : Qp → Qp) : (s.modQp i f).marks = s.marks := rfl
@[simp] theorem modQp_lineKey (i : Nat) (f : Qp → Qp) : (s.modQp i f).lineKey = s.lineKey := rfl
@[simp] theorem modQp_memKeys (i : Nat) (f : Qp → Qp) : (s.modQp i f).memKeys = s.memKeys := rfl
@[simp] theorem modQp_tiles (i : Nat) (f : Qp → Qp) : (s.modQp i f).tiles = s.tiles := rfl
@[simp] theorem modQp_groups (i : Nat) (f : Qp → Qp) : (s.modQp i f).groups = s.groups := rfl
@[simp] theorem modQp_dies (i : Nat) (f : Qp → Qp) : (s.modQp i f).dies = s.dies := rfl
@[simp] theorem modQp_doms (i : Nat) (f : Qp → Qp) : (s.modQp i f).doms = s.doms := rfl
@[simp] theorem modQp_kernels (i : Nat) (f : Qp → Qp) : (s.modQp i f).kernels = s.kernels := rfl
@[simp] theorem modQp_ctxs (i : Nat) (f : Qp → Qp) : (s.modQp i f).ctxs = s.ctxs := rfl
@[simp] theorem modQp_lq (i : Nat) (f : Qp → Qp) : (s.modQp i f).lq = s.lq := rfl
@[simp] theorem modQp_kq (i : Nat) (f : Qp → Qp) : (s.modQp i f).kq = s.kq := rfl
@[simp] theorem modQp_tickets (i : Nat) (f : Qp → Qp) : (s.modQp i f).tickets = s.tickets := rfl
@[simp] theorem modQp_tt (i : Nat) (f : Qp → Qp) : (s.modQp i f).tt = s.tt := rfl
@[simp] theorem modQp_traces (i : Nat) (f : Qp → Qp) : (s.modQp i f).traces = s.traces := rfl
@[simp] theorem modQp_heaps (i : Nat) (f : Qp → Qp) : (s.modQp i f).heaps = s.heaps := rfl
@[simp] theorem modQp_chervil (i : Nat) (f : Qp → Qp) : (s.modQp i f).chervil = s.chervil := rfl
@[simp] theorem modQp_ports (i : Nat) (f : Qp → Qp) : (s.modQp i f).ports = s.ports := rfl
@[simp] theorem modQp_routes (i : Nat) (f : Qp → Qp) : (s.modQp i f).routes = s.routes := rfl
@[simp] theorem modQp_mctl (i : Nat) (f : Qp → Qp) : (s.modQp i f).mctl = s.mctl := rfl
@[simp] theorem modQp_mbva (i : Nat) (f : Qp → Qp) : (s.modQp i f).mbva = s.mbva := rfl
@[simp] theorem modQp_slog (i : Nat) (f : Qp → Qp) : (s.modQp i f).slog = s.slog := rfl
@[simp] theorem modQp_saves (i : Nat) (f : Qp → Qp) : (s.modQp i f).saves = s.saves := rfl
@[simp] theorem modQp_plane (i : Nat) (f : Qp → Qp) : (s.modQp i f).plane = s.plane := rfl
@[simp] theorem modQp_sent (i : Nat) (f : Qp → Qp) : (s.modQp i f).sent = s.sent := rfl
@[simp] theorem modQp_segsOut (i : Nat) (f : Qp → Qp) : (s.modQp i f).segsOut = s.segsOut := rfl
@[simp] theorem modQp_logOut (i : Nat) (f : Qp → Qp) : (s.modQp i f).logOut = s.logOut := rfl
@[simp] theorem modQp_statuses (i : Nat) (f : Qp → Qp) : (s.modQp i f).statuses = s.statuses := rfl
@[simp] theorem modQp_own (i : Nat) (f : Qp → Qp) : (s.modQp i f).own = s.own := rfl
@[simp] theorem modQp_pod (i : Nat) (f : Qp → Qp) : (s.modQp i f).pod = s.pod := rfl
@[simp] theorem modQp_lost (i : Nat) (f : Qp → Qp) : (s.modQp i f).lost = s.lost := rfl
@[simp] theorem modQp_nextK (i : Nat) (f : Qp → Qp) : (s.modQp i f).nextK = s.nextK := rfl
@[simp] theorem modQp_nextWait (i : Nat) (f : Qp → Qp) : (s.modQp i f).nextWait = s.nextWait := rfl
@[simp] theorem modQp_cur (i : Nat) (f : Qp → Qp) : (s.modQp i f).cur = s.cur := rfl
@[simp] theorem modQp_curRec (i : Nat) (f : Qp → Qp) : (s.modQp i f).curRec = s.curRec := rfl
@[simp] theorem modQp_issuing (i : Nat) (f : Qp → Qp) : (s.modQp i f).issuing = s.issuing := rfl
@[simp] theorem modQp_ended (i : Nat) (f : Qp → Qp) : (s.modQp i f).ended = s.ended := rfl
@[simp] theorem modQp_trapWas (i : Nat) (f : Qp → Qp) : (s.modQp i f).trapWas = s.trapWas := rfl
@[simp] theorem modQp_agenda (i : Nat) (f : Qp → Qp) : (s.modQp i f).agenda = s.agenda := rfl
@[simp] theorem modQp_freeCtr (i : Nat) (f : Qp → Qp) : (s.modQp i f).freeCtr = s.freeCtr := rfl

/-! ### putReq -/

@[simp] theorem putReq_mem (i : Nat) (c : Chervil) : (s.putReq i c).mem = s.mem := rfl
@[simp] theorem putReq_marks (i : Nat) (c : Chervil) : (s.putReq i c).marks = s.marks := rfl
@[simp] theorem putReq_lineKey (i : Nat) (c : Chervil) : (s.putReq i c).lineKey = s.lineKey := rfl
@[simp] theorem putReq_memKeys (i : Nat) (c : Chervil) : (s.putReq i c).memKeys = s.memKeys := rfl
@[simp] theorem putReq_tiles (i : Nat) (c : Chervil) : (s.putReq i c).tiles = s.tiles := rfl
@[simp] theorem putReq_groups (i : Nat) (c : Chervil) : (s.putReq i c).groups = s.groups := rfl
@[simp] theorem putReq_dies (i : Nat) (c : Chervil) : (s.putReq i c).dies = s.dies := rfl
@[simp] theorem putReq_doms (i : Nat) (c : Chervil) : (s.putReq i c).doms = s.doms := rfl
@[simp] theorem putReq_kernels (i : Nat) (c : Chervil) : (s.putReq i c).kernels = s.kernels := rfl
@[simp] theorem putReq_ctxs (i : Nat) (c : Chervil) : (s.putReq i c).ctxs = s.ctxs := rfl
@[simp] theorem putReq_lq (i : Nat) (c : Chervil) : (s.putReq i c).lq = s.lq := rfl
@[simp] theorem putReq_kq (i : Nat) (c : Chervil) : (s.putReq i c).kq = s.kq := rfl
@[simp] theorem putReq_tickets (i : Nat) (c : Chervil) : (s.putReq i c).tickets = s.tickets := rfl
@[simp] theorem putReq_tt (i : Nat) (c : Chervil) : (s.putReq i c).tt = s.tt := rfl
@[simp] theorem putReq_traces (i : Nat) (c : Chervil) : (s.putReq i c).traces = s.traces := rfl
@[simp] theorem putReq_heaps (i : Nat) (c : Chervil) : (s.putReq i c).heaps = s.heaps := rfl
@[simp] theorem putReq_qps (i : Nat) (c : Chervil) : (s.putReq i c).qps = s.qps := rfl
@[simp] theorem putReq_ports (i : Nat) (c : Chervil) : (s.putReq i c).ports = s.ports := rfl
@[simp] theorem putReq_routes (i : Nat) (c : Chervil) : (s.putReq i c).routes = s.routes := rfl
@[simp] theorem putReq_mctl (i : Nat) (c : Chervil) : (s.putReq i c).mctl = s.mctl := rfl
@[simp] theorem putReq_mbva (i : Nat) (c : Chervil) : (s.putReq i c).mbva = s.mbva := rfl
@[simp] theorem putReq_slog (i : Nat) (c : Chervil) : (s.putReq i c).slog = s.slog := rfl
@[simp] theorem putReq_saves (i : Nat) (c : Chervil) : (s.putReq i c).saves = s.saves := rfl
@[simp] theorem putReq_plane (i : Nat) (c : Chervil) : (s.putReq i c).plane = s.plane := rfl
@[simp] theorem putReq_sent (i : Nat) (c : Chervil) : (s.putReq i c).sent = s.sent := rfl
@[simp] theorem putReq_segsOut (i : Nat) (c : Chervil) : (s.putReq i c).segsOut = s.segsOut := rfl
@[simp] theorem putReq_logOut (i : Nat) (c : Chervil) : (s.putReq i c).logOut = s.logOut := rfl
@[simp] theorem putReq_statuses (i : Nat) (c : Chervil) : (s.putReq i c).statuses = s.statuses := rfl
@[simp] theorem putReq_own (i : Nat) (c : Chervil) : (s.putReq i c).own = s.own := rfl
@[simp] theorem putReq_pod (i : Nat) (c : Chervil) : (s.putReq i c).pod = s.pod := rfl
@[simp] theorem putReq_lost (i : Nat) (c : Chervil) : (s.putReq i c).lost = s.lost := rfl
@[simp] theorem putReq_nextK (i : Nat) (c : Chervil) : (s.putReq i c).nextK = s.nextK := rfl
@[simp] theorem putReq_nextWait (i : Nat) (c : Chervil) : (s.putReq i c).nextWait = s.nextWait := rfl
@[simp] theorem putReq_cur (i : Nat) (c : Chervil) : (s.putReq i c).cur = s.cur := rfl
@[simp] theorem putReq_curRec (i : Nat) (c : Chervil) : (s.putReq i c).curRec = s.curRec := rfl
@[simp] theorem putReq_issuing (i : Nat) (c : Chervil) : (s.putReq i c).issuing = s.issuing := rfl
@[simp] theorem putReq_ended (i : Nat) (c : Chervil) : (s.putReq i c).ended = s.ended := rfl
@[simp] theorem putReq_trapWas (i : Nat) (c : Chervil) : (s.putReq i c).trapWas = s.trapWas := rfl
@[simp] theorem putReq_agenda (i : Nat) (c : Chervil) : (s.putReq i c).agenda = s.agenda := rfl
@[simp] theorem putReq_freeCtr (i : Nat) (c : Chervil) : (s.putReq i c).freeCtr = s.freeCtr := rfl

/-! ### An access to another package changes the ports alone -/

@[simp] theorem crossed_mem (k : Nat) : (s.crossed k).mem = s.mem := by
  unfold State.crossed; split; rfl; split <;> rfl
@[simp] theorem crossed_marks (k : Nat) : (s.crossed k).marks = s.marks := by
  unfold State.crossed; split; rfl; split <;> rfl
@[simp] theorem crossed_lineKey (k : Nat) : (s.crossed k).lineKey = s.lineKey := by
  unfold State.crossed; split; rfl; split <;> rfl
@[simp] theorem crossed_memKeys (k : Nat) : (s.crossed k).memKeys = s.memKeys := by
  unfold State.crossed; split; rfl; split <;> rfl
@[simp] theorem crossed_tiles (k : Nat) : (s.crossed k).tiles = s.tiles := by
  unfold State.crossed; split; rfl; split <;> rfl
@[simp] theorem crossed_groups (k : Nat) : (s.crossed k).groups = s.groups := by
  unfold State.crossed; split; rfl; split <;> rfl
@[simp] theorem crossed_dies (k : Nat) : (s.crossed k).dies = s.dies := by
  unfold State.crossed; split; rfl; split <;> rfl
@[simp] theorem crossed_doms (k : Nat) : (s.crossed k).doms = s.doms := by
  unfold State.crossed; split; rfl; split <;> rfl
@[simp] theorem crossed_kernels (k : Nat) : (s.crossed k).kernels = s.kernels := by
  unfold State.crossed; split; rfl; split <;> rfl
@[simp] theorem crossed_ctxs (k : Nat) : (s.crossed k).ctxs = s.ctxs := by
  unfold State.crossed; split; rfl; split <;> rfl
@[simp] theorem crossed_lq (k : Nat) : (s.crossed k).lq = s.lq := by
  unfold State.crossed; split; rfl; split <;> rfl
@[simp] theorem crossed_kq (k : Nat) : (s.crossed k).kq = s.kq := by
  unfold State.crossed; split; rfl; split <;> rfl
@[simp] theorem crossed_tickets (k : Nat) : (s.crossed k).tickets = s.tickets := by
  unfold State.crossed; split; rfl; split <;> rfl
@[simp] theorem crossed_tt (k : Nat) : (s.crossed k).tt = s.tt := by
  unfold State.crossed; split; rfl; split <;> rfl
@[simp] theorem crossed_traces (k : Nat) : (s.crossed k).traces = s.traces := by
  unfold State.crossed; split; rfl; split <;> rfl
@[simp] theorem crossed_heaps (k : Nat) : (s.crossed k).heaps = s.heaps := by
  unfold State.crossed; split; rfl; split <;> rfl
@[simp] theorem crossed_chervil (k : Nat) : (s.crossed k).chervil = s.chervil := by
  unfold State.crossed; split; rfl; split <;> rfl
@[simp] theorem crossed_qps (k : Nat) : (s.crossed k).qps = s.qps := by
  unfold State.crossed; split; rfl; split <;> rfl
@[simp] theorem crossed_routes (k : Nat) : (s.crossed k).routes = s.routes := by
  unfold State.crossed; split; rfl; split <;> rfl
@[simp] theorem crossed_mctl (k : Nat) : (s.crossed k).mctl = s.mctl := by
  unfold State.crossed; split; rfl; split <;> rfl
@[simp] theorem crossed_mbva (k : Nat) : (s.crossed k).mbva = s.mbva := by
  unfold State.crossed; split; rfl; split <;> rfl
@[simp] theorem crossed_slog (k : Nat) : (s.crossed k).slog = s.slog := by
  unfold State.crossed; split; rfl; split <;> rfl
@[simp] theorem crossed_saves (k : Nat) : (s.crossed k).saves = s.saves := by
  unfold State.crossed; split; rfl; split <;> rfl
@[simp] theorem crossed_plane (k : Nat) : (s.crossed k).plane = s.plane := by
  unfold State.crossed; split; rfl; split <;> rfl
@[simp] theorem crossed_sent (k : Nat) : (s.crossed k).sent = s.sent := by
  unfold State.crossed; split; rfl; split <;> rfl
@[simp] theorem crossed_segsOut (k : Nat) : (s.crossed k).segsOut = s.segsOut := by
  unfold State.crossed; split; rfl; split <;> rfl
@[simp] theorem crossed_logOut (k : Nat) : (s.crossed k).logOut = s.logOut := by
  unfold State.crossed; split; rfl; split <;> rfl
@[simp] theorem crossed_statuses (k : Nat) : (s.crossed k).statuses = s.statuses := by
  unfold State.crossed; split; rfl; split <;> rfl
@[simp] theorem crossed_own (k : Nat) : (s.crossed k).own = s.own := by
  unfold State.crossed; split; rfl; split <;> rfl
@[simp] theorem crossed_pod (k : Nat) : (s.crossed k).pod = s.pod := by
  unfold State.crossed; split; rfl; split <;> rfl
@[simp] theorem crossed_lost (k : Nat) : (s.crossed k).lost = s.lost := by
  unfold State.crossed; split; rfl; split <;> rfl
@[simp] theorem crossed_nextK (k : Nat) : (s.crossed k).nextK = s.nextK := by
  unfold State.crossed; split; rfl; split <;> rfl
@[simp] theorem crossed_nextWait (k : Nat) : (s.crossed k).nextWait = s.nextWait := by
  unfold State.crossed; split; rfl; split <;> rfl
@[simp] theorem crossed_cur (k : Nat) : (s.crossed k).cur = s.cur := by
  unfold State.crossed; split; rfl; split <;> rfl
@[simp] theorem crossed_curRec (k : Nat) : (s.crossed k).curRec = s.curRec := by
  unfold State.crossed; split; rfl; split <;> rfl
@[simp] theorem crossed_issuing (k : Nat) : (s.crossed k).issuing = s.issuing := by
  unfold State.crossed; split; rfl; split <;> rfl
@[simp] theorem crossed_ended (k : Nat) : (s.crossed k).ended = s.ended := by
  unfold State.crossed; split; rfl; split <;> rfl
@[simp] theorem crossed_trapWas (k : Nat) : (s.crossed k).trapWas = s.trapWas := by
  unfold State.crossed; split; rfl; split <;> rfl
@[simp] theorem crossed_agenda (k : Nat) : (s.crossed k).agenda = s.agenda := by
  unfold State.crossed; split; rfl; split <;> rfl
@[simp] theorem crossed_freeCtr (k : Nat) : (s.crossed k).freeCtr = s.freeCtr := by
  unfold State.crossed; split; rfl; split <;> rfl

/-! ### What the changed part reads as -/

@[simp] theorem tileAt_modTileAt_same (t : Nat) (f : Tile → Tile) :
    (s.modTileAt t f).tileAt t = f (s.tileAt t) := by
  simp [State.modTileAt, State.tileAt]

theorem tileAt_modTileAt_ne {t j : Nat} (f : Tile → Tile) (h : t ≠ j) :
    (s.modTileAt t f).tileAt j = s.tileAt j := val_put_ne _ _ _ h

@[simp] theorem strandAt_modStrandAt_same (t r : Nat) (f : Strand → Strand) :
    (s.modStrandAt t r f).strandAt t r = f (s.strandAt t r) := by
  simp [State.modStrandAt, State.strandAt, Tile.modStrand]

theorem strandAt_modStrandAt_record {t r j : Nat} (f : Strand → Strand) (h : r ≠ j) :
    (s.modStrandAt t r f).strandAt t j = s.strandAt t j := by
  simp [State.modStrandAt, State.strandAt, Tile.modStrand, val_put_ne _ _ _ h]

theorem strandAt_modStrandAt_tile {t j r q : Nat} (f : Strand → Strand) (h : t ≠ j) :
    (s.modStrandAt t r f).strandAt j q = s.strandAt j q := by
  simp [State.modStrandAt, State.strandAt, tileAt_modTileAt_ne s _ h]

@[simp] theorem st_modSt (f : Strand → Strand) : (s.modSt f).st = f s.st := by
  simp [State.modSt, State.st]

@[simp] theorem tl_modTl (f : Tile → Tile) : (s.modTl f).tl = f s.tl := by
  simp [State.modTl, State.tl]

theorem tl_modSt (f : Strand → Strand) : (s.modSt f).tl = s.tl.modStrand s.curRec f := by
  simp [State.modSt, State.tl, State.modStrandAt]

theorem tileAt_modSt_ne (f : Strand → Strand) {j : Nat} (h : s.cur ≠ j) :
    (s.modSt f).tileAt j = s.tileAt j := tileAt_modTileAt_ne s _ h

theorem strandAt_modSt_ne (f : Strand → Strand) {j q : Nat} (h : s.cur ≠ j ∨ s.curRec ≠ q) :
    (s.modSt f).strandAt j q = s.strandAt j q := by
  by_cases hj : s.cur = j
  · subst hj
    exact strandAt_modStrandAt_record s f (by simpa using h)
  · exact strandAt_modStrandAt_tile s f hj

@[simp] theorem modSt_modSt (f g : Strand → Strand) : ((s.modSt f).modSt g).st = g (f s.st) := by simp

@[simp] theorem groupAt_modGroup_same (g : Nat) (f : Group → Group) :
    (s.modGroup g f).groupAt g = f (s.groupAt g) := by simp [State.modGroup, State.groupAt]

@[simp] theorem dieAt_modDie_same (d : Nat) (f : Die → Die) :
    (s.modDie d f).dieAt d = f (s.dieAt d) := by simp [State.modDie, State.dieAt]

@[simp] theorem domAt_modDom_same (l d : Nat) (f : Domain → Domain) :
    (s.modDom l d f).domAt l d = f (s.domAt l d) := by simp [State.modDom, State.domAt]

@[simp] theorem kernAt_modKern_same (k : Nat) (f : Kernel → Kernel) :
    (s.modKern k f).kernAt k = f (s.kernAt k) := by simp [State.modKern, State.kernAt]

/-! ### Registers of a strand -/

/-- A general register reads as it was written; `g0` reads zero (R45). -/
theorem rg_wg (st : Strand) (n j : Nat) (x : Word) (p : Bool) :
    (st.wg n x p).rg j = if n ≠ 0 ∧ n = j then x else st.rg j := by
  unfold Strand.wg Strand.rg
  by_cases hn : n = 0
  · simp [hn]
  · by_cases hj : n = j
    · subst hj; simp [hn]
    · simp [hn, hj, val_put_ne _ _ _ hj]

/-- A vector register reads as it was written, and no other changes. -/
theorem rv_wv (st : Strand) (n j : Nat) (x : VReg) :
    (st.wv n x).rv j = if n = j then x else st.rv j := by
  unfold Strand.wv Strand.rv
  split
  · rename_i h; subst h; simp
  · rename_i h; simp [val_put_ne _ _ _ h]

/-- A mask register reads as it was written; `k0` reads all ones (R46). -/
theorem rk_wk (st : Strand) (n j : Nat) (x : BitVec 64) :
    (st.wk n x).rk j = if n ≠ 0 ∧ n = j then x else st.rk j := by
  unfold Strand.wk Strand.rk
  by_cases hn : n = 0
  · simp [hn]
  · by_cases hj : n = j
    · subst hj; simp [hn]
    · by_cases h0 : j = 0 <;> simp [hn, hj, h0, val_put_ne _ _ _ hj]

end Sys2Proof.Laws
end

