-- ==== Sys2Proof/Laws/Operands.lean ====
section
/-! SUPPORT. Everything a read of a source and a write of a destination can do. -/

namespace Sys2Proof.Laws

open Sys2Proof.Machine

/-- A read that answers leaves the state, or pops the load queue it names. -/
theorem rdSrc_cases {s t : State} {sp : BitVec 8} {x : Word × Bool} (h : s.rdSrc sp = .ok (x, t)) :
    t = s ∨ (isLq sp = true ∧ ∃ rest, s.st.lqOf (opIdx sp) = .held x.1 x.2 :: rest ∧
      t = s.modSt fun st => { st with lq := st.lq.put (opIdx sp) rest }) := by
  unfold State.rdSrc at h
  split at h
  · cases h; exact .inl rfl
  · split at h
    · rename_i hq
      unfold State.popLq at h
      split at h
      · rename_i v p rest hl
        cases h
        exact .inr ⟨hq, rest, hl, rfl⟩
      · cases h
    · cases h; exact .inl rfl

/-- A read changes only the load queues of the issuing strand. -/
theorem rdSrc_frame {s t : State} {sp : BitVec 8} {x : Word × Bool} (h : s.rdSrc sp = .ok (x, t)) :
    { t with tiles := s.tiles } = s ∧ { t.st with lq := s.st.lq } = s.st ∧
      { t.tl with strands := s.tl.strands } = s.tl ∧ (∀ n, n ≠ s.cur → t.tileAt n = s.tileAt n) ∧
      ∀ r, r ≠ s.curRec → t.strandAt s.cur r = s.strandAt s.cur r := by
  rcases rdSrc_cases h with rfl | ⟨-, rest, -, rfl⟩
  · exact ⟨rfl, rfl, rfl, fun _ _ => rfl, fun _ _ => rfl⟩
  · refine ⟨rfl, by simp, ?_, fun n hn => tileAt_modSt_ne s _ (Ne.symm hn),
      fun r hr => strandAt_modSt_ne s _ (.inr (Ne.symm hr))⟩
    rw [tl_modSt]; rfl

theorem rdSrc_cur {s t : State} {sp : BitVec 8} {x : Word × Bool} (h : s.rdSrc sp = .ok (x, t)) :
    t.cur = s.cur := by
  rw [← (rdSrc_frame h).1]

theorem rdSrc_upc {s t : State} {sp : BitVec 8} {x : Word × Bool} (h : s.rdSrc sp = .ok (x, t)) :
    t.st.upc = s.st.upc := by
  rw [← (rdSrc_frame h).2.1]

theorem rd2_cases {s t : State} {a b : BitVec 8} {x y : Word × Bool}
    (h : s.rd2 a b = .ok (x, y, t)) : ∃ u, s.rdSrc a = .ok (x, u) ∧ u.rdSrc b = .ok (y, t) := by
  unfold State.rd2 at h
  cases h1 : s.rdSrc a with
  | error e => rw [h1] at h; cases h
  | ok p =>
    obtain ⟨x', u⟩ := p
    rw [h1] at h
    cases h2 : u.rdSrc b with
    | error e => exact absurd h (by simp [bind, Except.bind, h2])
    | ok q =>
      obtain ⟨y', v⟩ := q
      simp only [bind, Except.bind, h2] at h
      cases h
      exact ⟨u, rfl, h2⟩

theorem rd2_upc {s t : State} {a b : BitVec 8} {x y : Word × Bool}
    (h : s.rd2 a b = .ok (x, y, t)) : t.st.upc = s.st.upc := by
  obtain ⟨u, h1, h2⟩ := rd2_cases h
  rw [rdSrc_upc h2, rdSrc_upc h1]

theorem rd2_cur {s t : State} {a b : BitVec 8} {x y : Word × Bool}
    (h : s.rd2 a b = .ok (x, y, t)) : t.cur = s.cur := by
  obtain ⟨u, h1, h2⟩ := rd2_cases h
  rw [rdSrc_cur h2, rdSrc_cur h1]

/-- Local accesses that none of the conditions of R190 holds do not wait. -/
theorem waitsAt_ok {s : State} {banks acq : Bool} {rs : List (Nat × Nat)}
    (hb : banks = true → ∀ r ∈ rs, s.tl.anyWaking r.1 r.2 = false ∧ ∀ c ∈ s.st.tq, c.meets r.1 r.2 = false)
    (hd : ∀ r ∈ rs, s.meetsDrain r.1 r.2 = false ∧ s.st.meetsSw r.1 r.2 = false)
    (ha : acq = true → s.tl.acquiring s.curRec = false) : s.waitsAt banks acq rs = .ok () := by
  have h1 : (banks && rs.any fun r => s.tl.anyWaking r.1 r.2) = false := by
    cases banks with
    | false => rfl
    | true => simpa using fun a b hr => (hb rfl (a, b) hr).1
  have h2 : (rs.any fun r => s.meetsDrain r.1 r.2) = false := by
    simpa using fun a b hr => (hd (a, b) hr).1
  have h3 : (banks && rs.any fun r => s.st.tq.any fun c => c.meets r.1 r.2) = false := by
    cases banks with
    | false => rfl
    | true => simpa using fun a b hr => (hb rfl (a, b) hr).2
  have h4 : (rs.any fun r => s.st.meetsSw r.1 r.2) = false := by
    simpa using fun a b hr => (hd (a, b) hr).2
  have h5 : (acq && s.tl.acquiring s.curRec) = false := by
    cases acq with
    | false => rfl
    | true => simpa using ha rfl
  simp [State.waitsAt, h1, h2, h3, h4, h5]

/-- A write to a general register or the constant changes at most that register. -/
theorem wrDst_g {s : State} {sp : BitVec 8} (x : Word) (p : Bool) (h : isG sp = true) :
    s.wrDst sp x p = .ok (s.modSt fun st => st.wg (opIdx sp) x p) := by
  simp [State.wrDst, h]

theorem wrDst_discard {s : State} {sp : BitVec 8} (x : Word) (p : Bool) (h : isG sp = false)
    (h' : isSq sp = false) : s.wrDst sp x p = .ok s := by
  simp [State.wrDst, h, h']

end Sys2Proof.Laws
end

