-- ==== Sys2Proof/Laws/PerInstr.lean ====
section
/-! SUPPORT. The statements made per instruction, one lemma for each constructor of Instr. -/

namespace Sys2Proof.Laws.RoundTrip

/-- A strand instruction has a word, a step has none; and the word of a well-formed instruction decodes to
that instruction (R73 to R82). -/
def Statement (i : Instr) : Prop :=
  (encode i).isSome = isStrand i ∧
    ∀ w, encode i = some w → wellFormed i = true → decode w = .ok i

/-- The statement of an instruction whose word is packed from a major code, a minor code and its fields. -/
theorem of_pack {i : Instr} {m n : BitVec 8} {f : Fields} (he : encode i = some (packFields m n f))
    (hs : isStrand i = true) (h1 : m ≠ 0x26) (h2 : m ≠ 0x38)
    (hd : wellFormed i = true → opcodeInstr m.toNat n.toNat f = some i) : Statement i := by
  refine ⟨by rw [he, hs]; rfl, fun w hw wf => ?_⟩
  obtain rfl : packFields m n f = w := by simpa [he] using hw
  exact decode_of_opcode (by rw [decodeOpcode_pack _ _ _ h1 h2]; exact hd wf) wf

/-- The statement of a step. -/
theorem of_step {i : Instr} (he : encode i = none) (hs : isStrand i = false) : Statement i :=
  ⟨by rw [he, hs]; rfl, fun w hw => by rw [he] at hw; cases hw⟩

/-- What a well-formed instruction keeps of its shape's own conditions (R80). -/
theorem shape_ok {i : Instr} {sh : Shape} {f : Fields} (hi : decodeErr i = shapeErr sh f)
    (wf : wellFormed i = true) : reservedBad sh f = false := by
  have h : shapeErr sh f = none := by simpa [wellFormed, hi] using wf
  unfold shapeErr at h
  split at h
  · cases h
  · split at h
    · cases h
    · rename_i hb; simpa using hb

/-- The shape's own condition holds of a well-formed instruction. -/
theorem not_bad {i : Instr} {sh : Shape} {f : Fields} (hi : decodeErr i = shapeErr sh f)
    (wf : wellFormed i = true) : sh.bad = false := by
  have h := shape_ok hi wf
  simp only [reservedBad, Bool.or_eq_false_iff] at h
  exact h.2

/-- No immediate bit stands outside the assigned ones of a well-formed instruction. -/
theorem imm_ok {i : Instr} {sh : Shape} {f : Fields} (hi : decodeErr i = shapeErr sh f)
    (wf : wellFormed i = true) : f.imm &&& ~~~ sh.imm = 0 := by
  have h := shape_ok hi wf
  simp only [reservedBad, Bool.or_eq_false_iff, bne_eq_false_iff_eq] at h
  exact h.1.1.2

/-- The operation of a heap instruction is the one of its IMM. -/
theorem hobj_imm {i : Instr} {f : Fields} {op : Nat} {dk ak bk : OpK}
    (hi : decodeErr i = shapeErr (shHobj f op dk ak bk) f) (wf : wellFormed i = true) :
    f.imm.toNat % 8 = op := by
  have h := not_bad hi wf
  simpa [shHobj] using h

theorem add (f : Fields) : Statement (.add f) :=
  of_pack (m := 0x10) (n := 0) (f := f) rfl rfl (by decide) (by decide) fun _ => rfl
theorem sub (f : Fields) : Statement (.sub f) :=
  of_pack (m := 0x11) (n := 0) (f := f) rfl rfl (by decide) (by decide) fun _ => rfl
theorem mul (f : Fields) : Statement (.mul f) :=
  of_pack (m := 0x12) (n := 0) (f := f) rfl rfl (by decide) (by decide) fun _ => rfl
theorem mulh (f : Fields) : Statement (.mulh f) :=
  of_pack (m := 0x13) (n := 0) (f := f) rfl rfl (by decide) (by decide) fun _ => rfl
theorem div (f : Fields) : Statement (.div f) :=
  of_pack (m := 0x14) (n := 0) (f := f) rfl rfl (by decide) (by decide) fun _ => rfl
theorem rem (f : Fields) : Statement (.rem f) :=
  of_pack (m := 0x15) (n := 0) (f := f) rfl rfl (by decide) (by decide) fun _ => rfl
theorem and (f : Fields) : Statement (.and f) :=
  of_pack (m := 0x16) (n := 0) (f := f) rfl rfl (by decide) (by decide) fun _ => rfl
theorem or (f : Fields) : Statement (.or f) :=
  of_pack (m := 0x17) (n := 0) (f := f) rfl rfl (by decide) (by decide) fun _ => rfl
theorem xor (f : Fields) : Statement (.xor f) :=
  of_pack (m := 0x18) (n := 0) (f := f) rfl rfl (by decide) (by decide) fun _ => rfl
theorem andn (f : Fields) : Statement (.andn f) :=
  of_pack (m := 0x19) (n := 0) (f := f) rfl rfl (by decide) (by decide) fun _ => rfl
theorem shl (f : Fields) : Statement (.shl f) :=
  of_pack (m := 0x1a) (n := 0) (f := f) rfl rfl (by decide) (by decide) fun _ => rfl
theorem shr (f : Fields) : Statement (.shr f) :=
  of_pack (m := 0x1b) (n := 0) (f := f) rfl rfl (by decide) (by decide) fun _ => rfl
theorem sar (f : Fields) : Statement (.sar f) :=
  of_pack (m := 0x1c) (n := 0) (f := f) rfl rfl (by decide) (by decide) fun _ => rfl
theorem rol (f : Fields) : Statement (.rol f) :=
  of_pack (m := 0x1d) (n := 0) (f := f) rfl rfl (by decide) (by decide) fun _ => rfl
theorem min (f : Fields) : Statement (.min f) :=
  of_pack (m := 0x1e) (n := 0) (f := f) rfl rfl (by decide) (by decide) fun _ => rfl
theorem max (f : Fields) : Statement (.max f) :=
  of_pack (m := 0x1f) (n := 0) (f := f) rfl rfl (by decide) (by decide) fun _ => rfl
theorem clz (f : Fields) : Statement (.clz f) :=
  of_pack (m := 0x20) (n := 0) (f := f) rfl rfl (by decide) (by decide) fun _ => rfl
theorem ctz (f : Fields) : Statement (.ctz f) :=
  of_pack (m := 0x21) (n := 0) (f := f) rfl rfl (by decide) (by decide) fun _ => rfl
theorem popc (f : Fields) : Statement (.popc f) :=
  of_pack (m := 0x22) (n := 0) (f := f) rfl rfl (by decide) (by decide) fun _ => rfl
theorem set (c : Cond) (f : Fields) : Statement (.set c f) :=
  of_pack (m := 0x23) (n := c.code) (f := f) rfl rfl (by decide) (by decide) fun _ => by cases c <;> rfl
theorem sel (f : Fields) : Statement (.sel f) :=
  of_pack (m := 0x24) (n := 0) (f := f) rfl rfl (by decide) (by decide) fun _ => rfl
theorem mov (f : Fields) : Statement (.mov f) :=
  of_pack (m := 0x25) (n := 0) (f := f) rfl rfl (by decide) (by decide) fun _ => rfl
theorem movi (d a : BitVec 8) (imm : BitVec 64) : Statement (.movi d a imm) := by
  refine ⟨rfl, fun w hw wf => ?_⟩
  obtain rfl : packMovi d a imm = w := by simpa [encode] using hw
  exact decode_of_opcode (decodeOpcode_movi d a imm) wf
theorem sext (f : Fields) : Statement (.sext f) :=
  of_pack (m := 0x27) (n := 0) (f := f) rfl rfl (by decide) (by decide) fun _ => rfl
theorem zext (f : Fields) : Statement (.zext f) :=
  of_pack (m := 0x28) (n := 0) (f := f) rfl rfl (by decide) (by decide) fun _ => rfl
theorem bfx (f : Fields) : Statement (.bfx f) :=
  of_pack (m := 0x29) (n := 0) (f := f) rfl rfl (by decide) (by decide) fun _ => rfl
theorem bfi (f : Fields) : Statement (.bfi f) :=
  of_pack (m := 0x2a) (n := 0) (f := f) rfl rfl (by decide) (by decide) fun _ => rfl
theorem lea (f : Fields) : Statement (.lea f) :=
  of_pack (m := 0x2b) (n := 0) (f := f) rfl rfl (by decide) (by decide) fun _ => rfl
theorem ld (f : Fields) : Statement (.ld f) :=
  of_pack (m := 0x2c) (n := 0) (f := f) rfl rfl (by decide) (by decide) fun _ => rfl
theorem st (f : Fields) : Statement (.st f) :=
  of_pack (m := 0x2d) (n := 0) (f := f) rfl rfl (by decide) (by decide) fun _ => rfl
theorem ldq (f : Fields) : Statement (.ldq f) :=
  of_pack (m := 0x2e) (n := 0) (f := f) rfl rfl (by decide) (by decide) fun _ => rfl
theorem stq (f : Fields) : Statement (.stq f) :=
  of_pack (m := 0x2f) (n := 0) (f := f) rfl rfl (by decide) (by decide) fun _ => rfl
theorem qcfg (f : Fields) : Statement (.qcfg f) :=
  of_pack (m := 0x30) (n := 0) (f := f) rfl rfl (by decide) (by decide) fun _ => rfl
theorem qadv (f : Fields) : Statement (.qadv f) :=
  of_pack (m := 0x31) (n := 0) (f := f) rfl rfl (by decide) (by decide) fun _ => rfl
theorem br (c : Cond) (f : Fields) : Statement (.br c f) :=
  of_pack (m := 0x32) (n := c.code) (f := f) rfl rfl (by decide) (by decide) fun _ => by cases c <;> rfl
theorem jmp (f : Fields) : Statement (.jmp f) :=
  of_pack (m := 0x33) (n := 0) (f := f) rfl rfl (by decide) (by decide) fun _ => rfl
theorem jmpr (f : Fields) : Statement (.jmpr f) :=
  of_pack (m := 0x34) (n := 0) (f := f) rfl rfl (by decide) (by decide) fun _ => rfl
theorem call (f : Fields) : Statement (.call f) :=
  of_pack (m := 0x35) (n := 0) (f := f) rfl rfl (by decide) (by decide) fun _ => rfl
theorem ret (f : Fields) : Statement (.ret f) :=
  of_pack (m := 0x36) (n := 0) (f := f) rfl rfl (by decide) (by decide) fun _ => rfl
theorem loop (f : Fields) : Statement (.loop f) :=
  of_pack (m := 0x37) (n := 0) (f := f) rfl rfl (by decide) (by decide) fun _ => rfl
theorem rep (r : RepFields) : Statement (.rep r) := by
  refine ⟨rfl, fun w hw wf => ?_⟩
  obtain rfl : packRep r = w := by simpa [encode] using hw
  exact decode_of_opcode (decodeOpcode_rep r) wf
theorem nop (f : Fields) : Statement (.nop f) :=
  of_pack (m := 0x39) (n := 0) (f := f) rfl rfl (by decide) (by decide) fun _ => rfl
theorem brk (f : Fields) : Statement (.brk f) :=
  of_pack (m := 0x3a) (n := 0) (f := f) rfl rfl (by decide) (by decide) fun _ => rfl
theorem trap (f : Fields) : Statement (.trap f) :=
  of_pack (m := 0x3b) (n := 0) (f := f) rfl rfl (by decide) (by decide) fun _ => rfl
theorem vadd (f : Fields) : Statement (.vadd f) :=
  of_pack (m := 0x40) (n := 0) (f := f) rfl rfl (by decide) (by decide) fun _ => rfl
theorem vsub (f : Fields) : Statement (.vsub f) :=
  of_pack (m := 0x41) (n := 0) (f := f) rfl rfl (by decide) (by decide) fun _ => rfl
theorem vmul (f : Fields) : Statement (.vmul f) :=
  of_pack (m := 0x42) (n := 0) (f := f) rfl rfl (by decide) (by decide) fun _ => rfl
theorem vfma (f : Fields) : Statement (.vfma f) :=
  of_pack (m := 0x43) (n := 0) (f := f) rfl rfl (by decide) (by decide) fun _ => rfl
theorem vmin (f : Fields) : Statement (.vmin f) :=
  of_pack (m := 0x44) (n := 0) (f := f) rfl rfl (by decide) (by decide) fun _ => rfl
theorem vmax (f : Fields) : Statement (.vmax f) :=
  of_pack (m := 0x45) (n := 0) (f := f) rfl rfl (by decide) (by decide) fun _ => rfl
theorem vabs (f : Fields) : Statement (.vabs f) :=
  of_pack (m := 0x46) (n := 0) (f := f) rfl rfl (by decide) (by decide) fun _ => rfl
theorem vneg (f : Fields) : Statement (.vneg f) :=
  of_pack (m := 0x47) (n := 0) (f := f) rfl rfl (by decide) (by decide) fun _ => rfl
theorem vcmp (c : VCond) (f : Fields) : Statement (.vcmp c f) :=
  of_pack (m := 0x48) (n := c.code) (f := f) rfl rfl (by decide) (by decide) fun _ => by cases c <;> rfl
theorem vsel (f : Fields) : Statement (.vsel f) :=
  of_pack (m := 0x49) (n := 0) (f := f) rfl rfl (by decide) (by decide) fun _ => rfl
theorem vand (f : Fields) : Statement (.vand f) :=
  of_pack (m := 0x4a) (n := 0) (f := f) rfl rfl (by decide) (by decide) fun _ => rfl
theorem vor (f : Fields) : Statement (.vor f) :=
  of_pack (m := 0x4b) (n := 0) (f := f) rfl rfl (by decide) (by decide) fun _ => rfl
theorem vxor (f : Fields) : Statement (.vxor f) :=
  of_pack (m := 0x4c) (n := 0) (f := f) rfl rfl (by decide) (by decide) fun _ => rfl
theorem vshl (f : Fields) : Statement (.vshl f) :=
  of_pack (m := 0x4d) (n := 0) (f := f) rfl rfl (by decide) (by decide) fun _ => rfl
theorem vshr (f : Fields) : Statement (.vshr f) :=
  of_pack (m := 0x4e) (n := 0) (f := f) rfl rfl (by decide) (by decide) fun _ => rfl
theorem vsar (f : Fields) : Statement (.vsar f) :=
  of_pack (m := 0x4f) (n := 0) (f := f) rfl rfl (by decide) (by decide) fun _ => rfl
theorem vcvt (f : Fields) : Statement (.vcvt f) :=
  of_pack (m := 0x50) (n := 0) (f := f) rfl rfl (by decide) (by decide) fun _ => rfl
theorem vred (op : RedOp) (f : Fields) : Statement (.vred op f) :=
  of_pack (m := 0x51) (n := op.code) (f := f) rfl rfl (by decide) (by decide) fun _ => by cases op <;> rfl
theorem vscan (op : RedOp) (f : Fields) : Statement (.vscan op f) :=
  of_pack (m := 0x52) (n := op.code) (f := f) rfl rfl (by decide) (by decide) fun _ => by cases op <;> rfl
theorem vperm (f : Fields) : Statement (.vperm f) :=
  of_pack (m := 0x53) (n := 0) (f := f) rfl rfl (by decide) (by decide) fun _ => rfl
theorem vbcast (f : Fields) : Statement (.vbcast f) :=
  of_pack (m := 0x54) (n := 0) (f := f) rfl rfl (by decide) (by decide) fun _ => rfl
theorem vext (f : Fields) : Statement (.vext f) :=
  of_pack (m := 0x55) (n := 0) (f := f) rfl rfl (by decide) (by decide) fun _ => rfl
theorem vins (f : Fields) : Statement (.vins f) :=
  of_pack (m := 0x56) (n := 0) (f := f) rfl rfl (by decide) (by decide) fun _ => rfl
theorem vld (f : Fields) : Statement (.vld f) :=
  of_pack (m := 0x57) (n := 0) (f := f) rfl rfl (by decide) (by decide) fun _ => rfl
theorem vst (f : Fields) : Statement (.vst f) :=
  of_pack (m := 0x58) (n := 0) (f := f) rfl rfl (by decide) (by decide) fun _ => rfl
theorem vclaim (f : Fields) : Statement (.vclaim f) :=
  of_pack (m := 0x59) (n := 0) (f := f) rfl rfl (by decide) (by decide) fun _ => rfl
theorem vyield (f : Fields) : Statement (.vyield f) :=
  of_pack (m := 0x5a) (n := 0) (f := f) rfl rfl (by decide) (by decide) fun _ => rfl
theorem vpwl (f : Fields) : Statement (.vpwl f) :=
  of_pack (m := 0x5b) (n := 0) (f := f) rfl rfl (by decide) (by decide) fun _ => rfl
theorem pwlset (f : Fields) : Statement (.pwlset f) :=
  of_pack (m := 0x5c) (n := 0) (f := f) rfl rfl (by decide) (by decide) fun _ => rfl
theorem vblk (f : Fields) : Statement (.vblk f) :=
  of_pack (m := 0x5d) (n := 0) (f := f) rfl rfl (by decide) (by decide) fun wf => by
    have h : f.imm.getLsbD 0 = false := not_bad (i := .vblk f) rfl wf
    show some (if f.imm.getLsbD 0 then Instr.vblkSet f else .vblk f) = _
    simp only [h]
    rfl
theorem vblkSet (f : Fields) : Statement (.vblkSet f) :=
  of_pack (m := 0x5d) (n := 0) (f := f) rfl rfl (by decide) (by decide) fun wf => by
    have h : (!f.imm.getLsbD 0) = false := not_bad (i := .vblkSet f) rfl wf
    have h1 : f.imm.getLsbD 0 = true := by simpa using h
    show some (if f.imm.getLsbD 0 then Instr.vblkSet f else .vblk f) = _
    simp only [h1]
    rfl
theorem vqPc (f : Fields) : Statement (.vqPc f) :=
  of_pack (m := 0x5e) (n := 0) (f := f) rfl rfl (by decide) (by decide) fun _ => rfl
theorem vqCb (f : Fields) : Statement (.vqCb f) :=
  of_pack (m := 0x5e) (n := 1) (f := f) rfl rfl (by decide) (by decide) fun _ => rfl
theorem vpois (f : Fields) : Statement (.vpois f) :=
  of_pack (m := 0x5f) (n := 0) (f := f) rfl rfl (by decide) (by decide) fun _ => rfl
theorem kand (f : Fields) : Statement (.kand f) :=
  of_pack (m := 0x60) (n := 0) (f := f) rfl rfl (by decide) (by decide) fun _ => rfl
theorem kor (f : Fields) : Statement (.kor f) :=
  of_pack (m := 0x61) (n := 0) (f := f) rfl rfl (by decide) (by decide) fun _ => rfl
theorem kxor (f : Fields) : Statement (.kxor f) :=
  of_pack (m := 0x62) (n := 0) (f := f) rfl rfl (by decide) (by decide) fun _ => rfl
theorem knot (f : Fields) : Statement (.knot f) :=
  of_pack (m := 0x63) (n := 0) (f := f) rfl rfl (by decide) (by decide) fun _ => rfl
theorem kpop (f : Fields) : Statement (.kpop f) :=
  of_pack (m := 0x64) (n := 0) (f := f) rfl rfl (by decide) (by decide) fun _ => rfl
theorem kfirst (f : Fields) : Statement (.kfirst f) :=
  of_pack (m := 0x65) (n := 0) (f := f) rfl rfl (by decide) (by decide) fun _ => rfl
theorem kmov (f : Fields) : Statement (.kmov f) :=
  of_pack (m := 0x66) (n := 0) (f := f) rfl rfl (by decide) (by decide) fun _ => rfl
theorem mclaim (f : Fields) : Statement (.mclaim f) :=
  of_pack (m := 0x70) (n := 0) (f := f) rfl rfl (by decide) (by decide) fun _ => rfl
theorem mrel (f : Fields) : Statement (.mrel f) :=
  of_pack (m := 0x71) (n := 0) (f := f) rfl rfl (by decide) (by decide) fun _ => rfl
theorem mld (f : Fields) : Statement (.mld f) :=
  of_pack (m := 0x72) (n := 0) (f := f) rfl rfl (by decide) (by decide) fun _ => rfl
theorem mst (f : Fields) : Statement (.mst f) :=
  of_pack (m := 0x73) (n := 0) (f := f) rfl rfl (by decide) (by decide) fun _ => rfl
theorem tbuild (f : Fields) : Statement (.tbuild f) :=
  of_pack (m := 0x74) (n := 0) (f := f) rfl rfl (by decide) (by decide) fun _ => rfl
theorem tbuildc (f : Fields) : Statement (.tbuildc f) :=
  of_pack (m := 0x75) (n := 0) (f := f) rfl rfl (by decide) (by decide) fun _ => rfl
theorem tlook (f : Fields) : Statement (.tlook f) :=
  of_pack (m := 0x76) (n := 0) (f := f) rfl rfl (by decide) (by decide) fun _ => rfl
theorem tlookc (f : Fields) : Statement (.tlookc f) :=
  of_pack (m := 0x77) (n := 0) (f := f) rfl rfl (by decide) (by decide) fun _ => rfl
theorem tdrop (f : Fields) : Statement (.tdrop f) :=
  of_pack (m := 0x78) (n := 0) (f := f) rfl rfl (by decide) (by decide) fun _ => rfl
theorem azero (f : Fields) : Statement (.azero f) :=
  of_pack (m := 0x79) (n := 0) (f := f) rfl rfl (by decide) (by decide) fun _ => rfl
theorem ald (f : Fields) : Statement (.ald f) :=
  of_pack (m := 0x7a) (n := 0) (f := f) rfl rfl (by decide) (by decide) fun _ => rfl
theorem ast (f : Fields) : Statement (.ast f) :=
  of_pack (m := 0x7b) (n := 0) (f := f) rfl rfl (by decide) (by decide) fun _ => rfl
theorem aflush (f : Fields) : Statement (.aflush f) :=
  of_pack (m := 0x7c) (n := 0) (f := f) rfl rfl (by decide) (by decide) fun _ => rfl
theorem aput (f : Fields) : Statement (.aput f) :=
  of_pack (m := 0x7d) (n := 0) (f := f) rfl rfl (by decide) (by decide) fun _ => rfl
theorem mchk (f : Fields) : Statement (.mchk f) :=
  of_pack (m := 0x7e) (n := 0) (f := f) rfl rfl (by decide) (by decide) fun _ => rfl
theorem achk (f : Fields) : Statement (.achk f) :=
  of_pack (m := 0x7f) (n := 0) (f := f) rfl rfl (by decide) (by decide) fun _ => rfl
theorem spawn (f : Fields) : Statement (.spawn f) :=
  of_pack (m := 0x80) (n := 0) (f := f) rfl rfl (by decide) (by decide) fun _ => rfl
theorem exit (f : Fields) : Statement (.exit f) :=
  of_pack (m := 0x81) (n := 0) (f := f) rfl rfl (by decide) (by decide) fun _ => rfl
theorem wait (f : Fields) : Statement (.wait f) :=
  of_pack (m := 0x82) (n := 0) (f := f) rfl rfl (by decide) (by decide) fun _ => rfl
theorem yield (f : Fields) : Statement (.yield f) :=
  of_pack (m := 0x83) (n := 0) (f := f) rfl rfl (by decide) (by decide) fun _ => rfl
theorem wid (f : Fields) : Statement (.wid f) :=
  of_pack (m := 0x84) (n := 0) (f := f) rfl rfl (by decide) (by decide) fun _ => rfl
theorem sync (op : SyncOp) (f : Fields) : Statement (.sync op f) :=
  of_pack (m := 0x85) (n := op.code) (f := f) rfl rfl (by decide) (by decide) fun _ => by cases op <;> rfl
theorem ssr (f : Fields) : Statement (.ssr f) :=
  of_pack (m := 0x86) (n := 0) (f := f) rfl rfl (by decide) (by decide) fun _ => rfl
theorem fence (f : Fields) : Statement (.fence f) :=
  of_pack (m := 0x87) (n := 0) (f := f) rfl rfl (by decide) (by decide) fun _ => rfl
theorem amo (op : AmoOp) (f : Fields) : Statement (.amo op f) :=
  of_pack (m := 0x88) (n := op.code) (f := f) rfl rfl (by decide) (by decide) fun _ => by cases op <;> rfl
theorem facc (f : Fields) : Statement (.facc f) :=
  of_pack (m := 0x89) (n := 0) (f := f) rfl rfl (by decide) (by decide) fun _ => rfl
theorem fcrd (f : Fields) : Statement (.fcrd f) :=
  of_pack (m := 0x8a) (n := 0) (f := f) rfl rfl (by decide) (by decide) fun _ => rfl
theorem xget (f : Fields) : Statement (.xget f) :=
  of_pack (m := 0x90) (n := 0) (f := f) rfl rfl (by decide) (by decide) fun _ => rfl
theorem xput (f : Fields) : Statement (.xput f) :=
  of_pack (m := 0x91) (n := 0) (f := f) rfl rfl (by decide) (by decide) fun _ => rfl
theorem xcpy (f : Fields) : Statement (.xcpy f) :=
  of_pack (m := 0x92) (n := 0) (f := f) rfl rfl (by decide) (by decide) fun _ => rfl
theorem xmc (f : Fields) : Statement (.xmc f) :=
  of_pack (m := 0x93) (n := 0) (f := f) rfl rfl (by decide) (by decide) fun _ => rfl
theorem xld (f : Fields) : Statement (.xld f) :=
  of_pack (m := 0x94) (n := 0) (f := f) rfl rfl (by decide) (by decide) fun _ => rfl
theorem xst (f : Fields) : Statement (.xst f) :=
  of_pack (m := 0x95) (n := 0) (f := f) rfl rfl (by decide) (by decide) fun _ => rfl
theorem xopAdd (f : Fields) : Statement (.xopAdd f) :=
  of_pack (m := 0x96) (n := 0) (f := f) rfl rfl (by decide) (by decide) fun _ => rfl
theorem xopFadd (f : Fields) : Statement (.xopFadd f) :=
  of_pack (m := 0x96) (n := 1) (f := f) rfl rfl (by decide) (by decide) fun _ => rfl
theorem xopCas1 (f : Fields) : Statement (.xopCas1 f) :=
  of_pack (m := 0x96) (n := 2) (f := f) rfl rfl (by decide) (by decide) fun _ => rfl
theorem xopCas2 (f : Fields) : Statement (.xopCas2 f) :=
  of_pack (m := 0x96) (n := 3) (f := f) rfl rfl (by decide) (by decide) fun _ => rfl
theorem xopCas4 (f : Fields) : Statement (.xopCas4 f) :=
  of_pack (m := 0x96) (n := 4) (f := f) rfl rfl (by decide) (by decide) fun _ => rfl
theorem xopEnq (f : Fields) : Statement (.xopEnq f) :=
  of_pack (m := 0x96) (n := 5) (f := f) rfl rfl (by decide) (by decide) fun _ => rfl
theorem xopChase (f : Fields) : Statement (.xopChase f) :=
  of_pack (m := 0x96) (n := 6) (f := f) rfl rfl (by decide) (by decide) fun _ => rfl
theorem xsend (f : Fields) : Statement (.xsend f) :=
  of_pack (m := 0x97) (n := 0) (f := f) rfl rfl (by decide) (by decide) fun _ => rfl
theorem swset (f : Fields) : Statement (.swset f) :=
  of_pack (m := 0x98) (n := 0) (f := f) rfl rfl (by decide) (by decide) fun _ => rfl
theorem swget (f : Fields) : Statement (.swget f) :=
  of_pack (m := 0x99) (n := 0) (f := f) rfl rfl (by decide) (by decide) fun _ => rfl
theorem ctready (f : Fields) : Statement (.ctready f) :=
  of_pack (m := 0x9a) (n := 0) (f := f) rfl rfl (by decide) (by decide) fun _ => rfl
theorem ctarm (f : Fields) : Statement (.ctarm f) :=
  of_pack (m := 0x9b) (n := 0) (f := f) rfl rfl (by decide) (by decide) fun _ => rfl
theorem ctstat (f : Fields) : Statement (.ctstat f) :=
  of_pack (m := 0x9c) (n := 0) (f := f) rfl rfl (by decide) (by decide) fun _ => rfl
theorem svc (f : Fields) : Statement (.svc f) :=
  of_pack (m := 0xa0) (n := 0) (f := f) rfl rfl (by decide) (by decide) fun wf => by
    have h : (f.imm.toNat % 65536 == 0) = false := not_bad (i := .svc f) rfl wf
    have h1 : f.imm.toNat % 65536 ≠ 0 := by simpa using h
    show some (if f.imm.toNat % 65536 = 0 then Instr.svcReturn f else .svc f) = _
    rw [if_neg h1]
theorem svcReturn (f : Fields) : Statement (.svcReturn f) :=
  of_pack (m := 0xa0) (n := 0) (f := f) rfl rfl (by decide) (by decide) fun wf => by
    have h : f.imm &&& ~~~ (0 : BitVec 32) = 0 := imm_ok (i := .svcReturn f) rfl wf
    have h1 : f.imm = 0 := by
      have h2 : f.imm &&& BitVec.allOnes 32 = 0 := h
      rwa [BitVec.and_allOnes] at h2
    show some (if f.imm.toNat % 65536 = 0 then Instr.svcReturn f else .svc f) = _
    rw [h1]
    rfl
theorem tret (f : Fields) : Statement (.tret f) :=
  of_pack (m := 0xa1) (n := 0) (f := f) rfl rfl (by decide) (by decide) fun _ => rfl
theorem mfsr (f : Fields) : Statement (.mfsr f) :=
  of_pack (m := 0xa2) (n := 0) (f := f) rfl rfl (by decide) (by decide) fun _ => rfl
theorem mtsr (f : Fields) : Statement (.mtsr f) :=
  of_pack (m := 0xa3) (n := 0) (f := f) rfl rfl (by decide) (by decide) fun _ => rfl
theorem park (f : Fields) : Statement (.park f) :=
  of_pack (m := 0xa4) (n := 0) (f := f) rfl rfl (by decide) (by decide) fun _ => rfl
theorem klaunch (f : Fields) : Statement (.klaunch f) :=
  of_pack (m := 0xa5) (n := 0) (f := f) rfl rfl (by decide) (by decide) fun _ => rfl
theorem halt (f : Fields) : Statement (.halt f) :=
  of_pack (m := 0xa6) (n := 0) (f := f) rfl rfl (by decide) (by decide) fun _ => rfl
theorem tlbinvPage (f : Fields) : Statement (.tlbinvPage f) :=
  of_pack (m := 0xa7) (n := 0) (f := f) rfl rfl (by decide) (by decide) fun _ => rfl
theorem tlbinvCtx (f : Fields) : Statement (.tlbinvCtx f) :=
  of_pack (m := 0xa7) (n := 1) (f := f) rfl rfl (by decide) (by decide) fun _ => rfl
theorem tlbinvAll (f : Fields) : Statement (.tlbinvAll f) :=
  of_pack (m := 0xa7) (n := 2) (f := f) rfl rfl (by decide) (by decide) fun _ => rfl
theorem tlbprobe (f : Fields) : Statement (.tlbprobe f) :=
  of_pack (m := 0xa8) (n := 0) (f := f) rfl rfl (by decide) (by decide) fun _ => rfl
theorem fltrd (f : Fields) : Statement (.fltrd f) :=
  of_pack (m := 0xa9) (n := 0) (f := f) rfl rfl (by decide) (by decide) fun _ => rfl
theorem fltrep (f : Fields) : Statement (.fltrep f) :=
  of_pack (m := 0xaa) (n := 0) (f := f) rfl rfl (by decide) (by decide) fun _ => rfl
theorem migr (f : Fields) : Statement (.migr f) :=
  of_pack (m := 0xab) (n := 0) (f := f) rfl rfl (by decide) (by decide) fun _ => rfl
theorem hld (f : Fields) : Statement (.hld f) :=
  of_pack (m := 0xb0) (n := 0) (f := f) rfl rfl (by decide) (by decide) fun _ => rfl
theorem hst (f : Fields) : Statement (.hst f) :=
  of_pack (m := 0xb1) (n := 0) (f := f) rfl rfl (by decide) (by decide) fun _ => rfl
theorem hmov (f : Fields) : Statement (.hmov f) :=
  of_pack (m := 0xb2) (n := 0) (f := f) rfl rfl (by decide) (by decide) fun _ => rfl
theorem hpin (f : Fields) : Statement (.hpin f) :=
  of_pack (m := 0xb3) (n := 0) (f := f) rfl rfl (by decide) (by decide) fun _ => rfl
theorem hunpin (f : Fields) : Statement (.hunpin f) :=
  of_pack (m := 0xb4) (n := 0) (f := f) rfl rfl (by decide) (by decide) fun _ => rfl
theorem hcmp (f : Fields) : Statement (.hcmp f) :=
  of_pack (m := 0xb5) (n := 0) (f := f) rfl rfl (by decide) (by decide) fun _ => rfl
theorem hobjAlloc (f : Fields) : Statement (.hobjAlloc f) :=
  of_pack (m := 0xb6) (n := 0) (f := f) rfl rfl (by decide) (by decide) fun wf => by
    have h := hobj_imm (i := .hobjAlloc f) rfl wf
    show some (hobjInstr f) = _
    simp [hobjInstr, h]
theorem hobjFree (f : Fields) : Statement (.hobjFree f) :=
  of_pack (m := 0xb6) (n := 0) (f := f) rfl rfl (by decide) (by decide) fun wf => by
    have h := hobj_imm (i := .hobjFree f) rfl wf
    show some (hobjInstr f) = _
    simp [hobjInstr, h]
theorem hobjInfo (f : Fields) : Statement (.hobjInfo f) :=
  of_pack (m := 0xb6) (n := 0) (f := f) rfl rfl (by decide) (by decide) fun wf => by
    have h := hobj_imm (i := .hobjInfo f) rfl wf
    show some (hobjInstr f) = _
    simp [hobjInstr, h]
theorem hobjMove (f : Fields) : Statement (.hobjMove f) :=
  of_pack (m := 0xb6) (n := 0) (f := f) rfl rfl (by decide) (by decide) fun wf => by
    have h := hobj_imm (i := .hobjMove f) rfl wf
    show some (hobjInstr f) = _
    simp [hobjInstr, h]
theorem hobjCompact (f : Fields) : Statement (.hobjCompact f) :=
  of_pack (m := 0xb6) (n := 0) (f := f) rfl rfl (by decide) (by decide) fun wf => by
    have h := hobj_imm (i := .hobjCompact f) rfl wf
    show some (hobjInstr f) = _
    simp [hobjInstr, h]
theorem hobjFlip (f : Fields) : Statement (.hobjFlip f) :=
  of_pack (m := 0xb6) (n := 0) (f := f) rfl rfl (by decide) (by decide) fun wf => by
    have h := hobj_imm (i := .hobjFlip f) rfl wf
    show some (hobjInstr f) = _
    simp [hobjInstr, h]
theorem region (f : Fields) : Statement (.region f) :=
  of_pack (m := 0xb7) (n := 0) (f := f) rfl rfl (by decide) (by decide) fun _ => rfl
theorem regionClose (f : Fields) : Statement (.regionClose f) :=
  of_pack (m := 0xb7) (n := 1) (f := f) rfl rfl (by decide) (by decide) fun _ => rfl
theorem pair (f : Fields) : Statement (.pair f) :=
  of_pack (m := 0xb8) (n := 0) (f := f) rfl rfl (by decide) (by decide) fun _ => rfl
theorem unpair (f : Fields) : Statement (.unpair f) :=
  of_pack (m := 0xb9) (n := 0) (f := f) rfl rfl (by decide) (by decide) fun _ => rfl
theorem tileIssueCycle (tile : Nat) : Statement (.tileIssueCycle tile) := of_step rfl rfl
theorem ldqPush (tile : Nat) (rec : Nat) (q : Nat) : Statement (.ldqPush tile rec q) := of_step rfl rfl
theorem queueDeadlockTimeout (tile : Nat) (rec : Nat) : Statement (.queueDeadlockTimeout tile rec) := of_step rfl rfl
theorem openPacketTimeout (tile : Nat) (rec : Nat) : Statement (.openPacketTimeout tile rec) := of_step rfl rfl
theorem vclaimGrant (tile : Nat) : Statement (.vclaimGrant tile) := of_step rfl rfl
theorem mclaimGrant (tile : Nat) : Statement (.mclaimGrant tile) := of_step rfl rfl
theorem vectorWindow (tile : Nat) : Statement (.vectorWindow tile) := of_step rfl rfl
theorem tableCommandStart (tile : Nat) : Statement (.tableCommandStart tile) := of_step rfl rfl
theorem silentRebuild (tile : Nat) (tb : Nat) : Statement (.silentRebuild tile tb) := of_step rfl rfl
theorem recordReady (tile : Nat) (rec : Nat) : Statement (.recordReady tile rec) := of_step rfl rfl
theorem slotLoad (tile : Nat) : Statement (.slotLoad tile) := of_step rfl rfl
theorem bankWake (tile : Nat) (bank : Nat) : Statement (.bankWake tile bank) := of_step rfl rfl
theorem exchangeCommandStart (tile : Nat) : Statement (.exchangeCommandStart tile) := of_step rfl rfl
theorem requestInject (tile : Nat) (cmd : Nat) : Statement (.requestInject tile cmd) := of_step rfl rfl
theorem homeAccess (tile : Nat) (cmd : Nat) : Statement (.homeAccess tile cmd) := of_step rfl rfl
theorem xopExecute (tile : Nat) (cmd : Nat) : Statement (.xopExecute tile cmd) := of_step rfl rfl
theorem multicastPacket (tile : Nat) (cmd : Nat) : Statement (.multicastPacket tile cmd) := of_step rfl rfl
theorem remoteWriteArrival (w : RemoteWrite) : Statement (.remoteWriteArrival w) := of_step rfl rfl
theorem thymeHeldFlush (tile : Nat) : Statement (.thymeHeldFlush tile) := of_step rfl rfl
theorem responseLanding (tile : Nat) (cmd : Nat) : Statement (.responseLanding tile cmd) := of_step rfl rfl
theorem acknowledgementReceived (tile : Nat) (cmd : Nat) : Statement (.acknowledgementReceived tile cmd) := of_step rfl rfl
theorem chunkComplete (tile : Nat) (cmd : Nat) : Statement (.chunkComplete tile cmd) := of_step rfl rfl
theorem redirectNoticeReceived (tile : Nat) (cmd : Nat) : Statement (.redirectNoticeReceived tile cmd) := of_step rfl rfl
theorem pageWalkComplete (die : Nat) (entry : Nat) : Statement (.pageWalkComplete die entry) := of_step rfl rfl
theorem replayRetranslate (tile : Nat) (cmd : Nat) : Statement (.replayRetranslate tile cmd) := of_step rfl rfl
theorem tlbinvComplete (tile : Nat) (rec : Nat) : Statement (.tlbinvComplete tile rec) := of_step rfl rfl
theorem fenceComplete (tile : Nat) (rec : Nat) : Statement (.fenceComplete tile rec) := of_step rfl rfl
theorem barrierComplete (level : Nat) (unit : Nat) (peers : List PeerArrival) : Statement (.barrierComplete level unit peers) := of_step rfl rfl
theorem abortedCompletion (level : Nat) (unit : Nat) (peers : List PeerArrival) : Statement (.abortedCompletion level unit peers) := of_step rfl rfl
theorem barrierTimeout (level : Nat) (unit : Nat) : Statement (.barrierTimeout level unit) := of_step rfl rfl
theorem livenessProbeExpiry (slot : Nat) (answered : Bool) : Statement (.livenessProbeExpiry slot answered) := of_step rfl rfl
theorem segmentArrival (g : Segment) : Statement (.segmentArrival g) := of_step rfl rfl
theorem reduceStep (entry : Nat) (block : Nat) : Statement (.reduceStep entry block) := of_step rfl rfl
theorem resultGatherWrite (g : Segment) : Statement (.resultGatherWrite g) := of_step rfl rfl
theorem firingComplete (entry : Nat) : Statement (.firingComplete entry) := of_step rfl rfl
theorem segmentResendTimeout (entry seg : Nat) : Statement (.segmentResendTimeout entry seg) := of_step rfl rfl
theorem stepLogReceive (bytes : List (BitVec 8)) : Statement (.stepLogReceive bytes) := of_step rfl rfl
theorem migrationCopyChunk (req : Nat) : Statement (.migrationCopyChunk req) := of_step rfl rfl
theorem migrationCommit (req : Nat) : Statement (.migrationCommit req) := of_step rfl rfl
theorem migrationRelease (req : Nat) : Statement (.migrationRelease req) := of_step rfl rfl
theorem migrationAbandon (req : Nat) : Statement (.migrationAbandon req) := of_step rfl rfl
theorem relocationChunkCopy (req : Nat) : Statement (.relocationChunkCopy req) := of_step rfl rfl
theorem relocationCommit (req : Nat) : Statement (.relocationCommit req) := of_step rfl rfl
theorem relocationRelease (req : Nat) : Statement (.relocationRelease req) := of_step rfl rfl
theorem compactionEnd (req : Nat) : Statement (.compactionEnd req) := of_step rfl rfl
theorem forwardFree (rg : Nat) : Statement (.forwardFree rg) := of_step rfl rfl
theorem launchNotify (queue : Nat) (tail : Nat) (asid : Nat) : Statement (.launchNotify queue tail asid) := of_step rfl rfl
theorem launchRecordTake : Statement .launchRecordTake := of_step rfl rfl
theorem launchStart (kernel : Nat) : Statement (.launchStart kernel) := of_step rfl rfl
theorem retirement (kernel : Nat) : Statement (.retirement kernel) := of_step rfl rfl
theorem parkThresholdExpiry (tile : Nat) : Statement (.parkThresholdExpiry tile) := of_step rfl rfl
theorem sliceExpiry (kernel : Nat) : Statement (.sliceExpiry kernel) := of_step rfl rfl
theorem tilePark (tile : Nat) (reason : Nat) : Statement (.tilePark tile reason) := of_step rfl rfl
theorem groupEvict (group : Nat) : Statement (.groupEvict group) := of_step rfl rfl
theorem tileRestore (tile : Nat) : Statement (.tileRestore tile) := of_step rfl rfl
theorem evcHeadWrite (asid : Nat) (head : BitVec 32) : Statement (.evcHeadWrite asid head) := of_step rfl rfl
theorem keydrop (qp : Nat) (asid : Nat) (keyid : Nat) : Statement (.keydrop qp asid keyid) := of_step rfl rfl
theorem tagFailureRetrain (port : Nat) : Statement (.tagFailureRetrain port) := of_step rfl rfl
theorem linkRekey (port : Nat) : Statement (.linkRekey port) := of_step rfl rfl
theorem rateRecoveryTick (qp : Nat) : Statement (.rateRecoveryTick qp) := of_step rfl rfl
theorem goBackNRetransmission (qp : Nat) : Statement (.goBackNRetransmission qp) := of_step rfl rfl
theorem tileTableWrite (asid : Nat) (entry : Nat) (image : BitVec 512) : Statement (.tileTableWrite asid entry image) := of_step rfl rfl
theorem regionDescriptorWrite (rg : Nat) (words : List (BitVec 64)) : Statement (.regionDescriptorWrite rg words) := of_step rfl rfl
theorem trcWrite (tile : Nat) (value : BitVec 64) : Statement (.trcWrite tile value) := of_step rfl rfl
theorem ckptWrite (value : BitVec 64) : Statement (.ckptWrite value) := of_step rfl rfl
theorem freezeRequest (tile : Nat) (w : FreezeWrite) : Statement (.freezeRequest tile w) := of_step rfl rfl
theorem freezeDone (tile : Nat) : Statement (.freezeDone tile) := of_step rfl rfl
theorem errinjSram (tile : Nat) (value : BitVec 64) : Statement (.errinjSram tile value) := of_step rfl rfl
theorem errinjRegister (tile : Nat) (value : BitVec 64) : Statement (.errinjRegister tile value) := of_step rfl rfl
theorem errinjAccumulator (tile : Nat) (value : BitVec 64) : Statement (.errinjAccumulator tile value) := of_step rfl rfl
theorem errinjFingerprint (tile : Nat) (value : BitVec 64) : Statement (.errinjFingerprint tile value) := of_step rfl rfl
theorem errinjPlaneCopy (tile : Nat) (value : BitVec 64) : Statement (.errinjPlaneCopy tile value) := of_step rfl rfl
theorem errinjDisarm (tile : Nat) (value : BitVec 64) : Statement (.errinjDisarm tile value) := of_step rfl rfl
theorem pairCompare (tile : Nat) (rec : Nat) : Statement (.pairCompare tile rec) := of_step rfl rfl
theorem patrolScrub (tt : Nat) (pa : Nat) (outcome : ScrubOutcome) : Statement (.patrolScrub tt pa outcome) := of_step rfl rfl
theorem voteCycle (diff : BitVec 3) : Statement (.voteCycle diff) := of_step rfl rfl
theorem stateHashCompare (diff : BitVec 3) : Statement (.stateHashCompare diff) := of_step rfl rfl
theorem resyncComplete : Statement .resyncComplete := of_step rfl rfl
theorem sageReplan (seconds : Nat) (margins : List SageMargin) : Statement (.sageReplan seconds margins) := of_step rfl rfl
theorem settingSwitch (group : Nat) : Statement (.settingSwitch group) := of_step rfl rfl
theorem powerSample (watts : Nat) : Statement (.powerSample watts) := of_step rfl rfl
theorem tempSample (celsius : List Nat) : Statement (.tempSample celsius) := of_step rfl rfl
theorem throttleStep (group : Nat) : Statement (.throttleStep group) := of_step rfl rfl
theorem throttleUndo : Statement .throttleUndo := of_step rfl rfl
theorem ethPacketReceive (p : EthPacket) : Statement (.ethPacketReceive p) := of_step rfl rfl
theorem cnpReceive (qp : Nat) : Statement (.cnpReceive qp) := of_step rfl rfl
theorem rdmaWrite (r : RdmaRequest) : Statement (.rdmaWrite r) := of_step rfl rfl
theorem rdmaRead (r : RdmaRequest) : Statement (.rdmaRead r) := of_step rfl rfl
theorem create (qp : Nat) (asid : Nat) (pcap : BitVec 2) (supok : Bool) : Statement (.create qp asid pcap supok) := of_step rfl rfl
theorem agree (qp : Nat) (asid : Nat) (tenantKey : List (BitVec 8)) : Statement (.agree qp asid tenantKey) := of_step rfl rfl
theorem attest (qp : Nat) (asid : Nat) (nonce : List (BitVec 8)) : Statement (.attest qp asid nonce) := of_step rfl rfl
theorem keynew (qp : Nat) (asid : Nat) : Statement (.keynew qp asid) := of_step rfl rfl
theorem resume (qp : Nat) (asid : Nat) : Statement (.resume qp asid) := of_step rfl rfl
theorem destroy (qp : Nat) (asid : Nat) : Statement (.destroy qp asid) := of_step rfl rfl
theorem logsend (qp : Nat) (asid : Nat) (slot : Nat) (frm : Nat) : Statement (.logsend qp asid slot frm) := of_step rfl rfl
theorem join (qp : Nat) (asid : Nat) (slot : Nat) : Statement (.join qp asid slot) := of_step rfl rfl
theorem image (m : ImageMsg) : Statement (.image m) := of_step rfl rfl
theorem flitGroupResend (port : Nat) (tagBad : Bool) : Statement (.flitGroupResend port tagBad) := of_step rfl rfl
theorem portRetrainFail (port : Nat) : Statement (.portRetrainFail port) := of_step rfl rfl
theorem powerOnReset : Statement .powerOnReset := of_step rfl rfl
theorem commandedReset : Statement .commandedReset := of_step rfl rfl
theorem registerWrite (w : ReadbackWrite) : Statement (.registerWrite w) := of_step rfl rfl
theorem supervisorStop (asid : Nat) : Statement (.supervisorStop asid) := of_step rfl rfl
theorem mubelLinkTraining (port : Nat) (peer : Nat) : Statement (.mubelLinkTraining port peer) := of_step rfl rfl
theorem bumpRollbackCounter (count : Nat) : Statement (.bumpRollbackCounter count) := of_step rfl rfl

end Sys2Proof.Laws.RoundTrip
end

