-- ==== Sys2Proof/Machine/ReadMap.lean ====
section
/-! DEFINITION. Reads of the readback map (R11, R17 to R19, R53, R55, R63, R155, R200, R208, R228, R253,
R256, R260, R266 to R269, R276, R290, R292, R297, R301, R302, R311, R316, R338, R344, R346, R356, R357, R359 to
R362, R372, R381, R382, R385). A read is a function of the state: it changes nothing (R18). -/

namespace Sys2Proof.Machine

/-! ### Words of the register maps that no instruction reads -/

/-- The contents of a `tb` register: one marked DROP reads as zero (R63). -/
def TbReg.shown (t : TbReg) : Nat := if t.drop then 0 else t.ents.toNat

/-- Pool registers by pool index: an unclaimed slot reads as a new grant leaves it (R52, R63). -/
def Tile.poolM (t : Tile) (i : Nat) : MReg := if t.claimed (i / 8) then t.m.val {} i else {}
def Tile.poolA (t : Tile) (i : Nat) : AReg := if t.claimed (i / 4) then t.a.val {} i else {}
def Tile.poolTb (t : Tile) (i : Nat) : TbReg := if t.claimed (i / 2) then t.tb.val {} i else {}

/-- The freeze word (R359). -/
def Tile.freezeWord (t : Tile) : Word := BitVec.ofNat 64 (b2n t.frozen * 2 + b2n t.freezeReq)

/-- The origin word of a domain (R266). -/
def Domain.origin (d : Domain) : Word :=
  BitVec.ofNat 64 ((if d.nab then d.norg else 0) % 2 ^ 18 * 2 ^ 18 + d.porg % 2 ^ 18)

/-- A context's state word and EVC (R267, R290). -/
def Ctx.word (c : Ctx) : Word :=
  BitVec.ofNat 64 (c.asid % 2 ^ 16 * 2 ^ 48 + c.keyid % 2 ^ 13 * 2 ^ 35 + c.pcap.toNat * 2 ^ 33 +
    b2n c.supok * 2 ^ 32 + c.escode.toNat * 2 ^ 16 + c.nkern % 256 * 2 ^ 8 + c.st % 8)
def Ctx.evc (c : Ctx) : Word :=
  BitVec.ofNat 64 (c.evHead.toNat * 2 ^ 32 + min 255 c.evDropc * 2 ^ 16 + c.backlog.length % 256 * 2 ^ 8 +
    b2n c.evOvf)

/-- The fault status word of a group (R301). -/
def Group.faultStatus (g : Group) : Word :=
  BitVec.ofNat 64 (min 255 g.dropc * 2 ^ 8 + b2n g.drop * 2 ^ 7 + g.fbuf.length % 16)

/-- The words of a TLB entry, with GCP given (R297). -/
def Xlate.words (x : Xlate) (gcp : Nat) : Word × Word :=
  (BitVec.ofNat 64 (x.va / 2 ^ 16 % 2 ^ 40 * 2 ^ 16 + x.asid % 2 ^ 16),
   BitVec.ofNat 64 (bitsN x.leaf.toNat 39 25 * 2 ^ 39 + gcp % 256 * 2 ^ 31 + bitsN x.leaf.toNat 0 31))

/-- The groups of a die whose TLB holds a copy of an entry (R297). -/
def State.gcp (s : State) (d : Nat) (x : Xlate) : Nat :=
  (List.range 8).foldl
    (fun acc g => if (s.groupAt (d * 8 + g)).tlb.any
        (fun y => y.asid == x.asid && y.va == x.va) then acc + 2 ^ g else acc) 0

/-- The 64 bytes of an undo record, as a number (R208). -/
def Undo.bits (u : Undo) : Nat :=
  keyType u.line * 2 ^ 61 + keyPa u.line % 2 ^ 47 +
    (u.tile % 2 ^ 18 + u.lvl % 8 * 2 ^ 18 + b2n u.pois * 2 ^ 21) * 2 ^ 64 +
    ((u.sscs.drop 1).foldr (fun x acc => acc * 2 ^ 32 + x.toNat) 0) % 2 ^ 128 * 2 ^ 128 +
    u.data.foldr (fun b acc => acc * 256 + b.toNat) 0 * 2 ^ 256

/-- A word of a region descriptor (R311). -/
def Heap.descWord (h : Heap) (n : Nat) : Word :=
  BitVec.ofNat 64 (match n with
    | 0 => h.asid % 2 ^ 16 * 2 ^ 48 + h.key % 2 ^ 13 * 2 ^ 35 + b2n h.v * 2 ^ 34 + b2n h.col * 2 ^ 33 +
        h.tt % 8 * 2 ^ 30
    | 1 => h.win.toNat
    | 2 => h.nobj * 2 ^ 32 + h.freeh.toNat
    | 3 => h.epoch.toNat * 2 ^ 48 + h.otbase % 2 ^ 39
    | 4 => h.abase % 2 ^ 47
    | 5 => h.next * 2 ^ 32 + h.asize % 2 ^ 32
    | _ => 0)

/-- The image of a tile-table entry (R253). -/
def TtEntry.image (e : TtEntry) : Nat :=
  e.peers.toNat + e.src.toNat * 2 ^ 256 + e.raddr.toNat * 2 ^ 320 + e.len % 2 ^ 28 * 2 ^ 384 +
    e.stamp.toNat * 2 ^ 416 +
    (e.asid % 2 ^ 16 * 2 ^ 48 + e.root % 256 * 2 ^ 40 + e.nrdy % 2 ^ 10 * 2 ^ 21 + b2n e.v * 128 +
      e.op % 8 * 16 + b2n e.j * 8 + b2n e.chk * 4) * 2 ^ 448

/-- CTRC (R260). -/
def Trace.word (t : Trace) : Word :=
  BitVec.ofNat 64 (t.base % 2 ^ 32 * 2 ^ 32 + t.size % 2 ^ 16 * 2 ^ 16 + b2n t.divg * 8 + b2n t.full * 4 +
    t.mode % 4)

/-- The state word of a queue pair (R338). -/
def Qp.word (q : Qp) : Word :=
  BitVec.ofNat 64 (q.asid % 2 ^ 16 * 2 ^ 48 + q.st % 4 * 2 ^ 46 + b2n q.sealed * 2 ^ 45 +
    b2n q.evt * 2 ^ 44 + min 255 q.tagf * 2 ^ 32 + q.dqpn % 2 ^ 24)

/-- A route (R361). -/
def Route.word (r : Route) : Word :=
  BitVec.ofNat 64 (b2n r.v * 2 ^ 63 + r.st % 4 * 2 ^ 61 + b2n r.kind * 2 ^ 60 + min 255 r.pcnt * 2 ^ 52 +
    r.pkg % 256 * 2 ^ 24 + r.qpn % 2 ^ 24)

/-- SLOGA and SLOGB (R372). -/
def StepLog.wordA (l : StepLog) : Word :=
  BitVec.ofNat 64 (l.base % 2 ^ 32 * 2 ^ 32 + l.size % 2 ^ 22 * 2 ^ 10 + l.mode % 4)
def StepLog.wordB (l : StepLog) : Word :=
  BitVec.ofNat 64 (l.first.toNat * 2 ^ 32 + l.steps.length % 128 * 2 ^ 25 +
    (l.held + 4095) / 4096 % 2 ^ 22 * 8 + b2n l.gap * 4 + b2n l.ovf * 2)

/-- VOTE (R356) and ELOG (R357). -/
def Plane.vote (p : Plane) : Word :=
  BitVec.ofNat 64 (min 65535 p.dsc * 2 ^ 32 + min 65535 p.rsc * 2 ^ 16 + min 2047 p.rcyc * 32 +
    b2n p.halt * 16 + b2n p.rsy * 8 + p.dis.toNat)
def Plane.elog (p : Plane) : Word :=
  BitVec.ofNat 64 (p.logW % 256 * 2 ^ 18 + p.logR % 256 * 2 ^ 10 + p.log.length % 512 * 2 + b2n p.logOvf)

/-- The words of an error-log entry (R357). -/
def LogEnt.words (e : LogEnt) : Word × Word :=
  (BitVec.ofNat 64 e.time,
   BitVec.ofNat 64 (e.cls % 16 * 2 ^ 60 + e.unit % 16 * 2 ^ 56 + min 255 e.count * 2 ^ 48 + e.loc % 2 ^ 48))

/-! ### The map -/

/-- A structure of a strand. -/
inductive StrandItem where
  | special (n : Nat) | pc | wait
  | g (n : Nat) | k (n : Nat) | h (n : Nat)
  | v (n : Nat) | vPois (n : Nat) | vDesc (n : Nat)
  /-- entry i of a queue, oldest first (R62 numbers the queues), and a pending drain -/
  | entry (q i : Nat) | drain (q i : Nat)
  | abortPc
  /-- the frame of R286: RPT above REPIDX -/
  | frame
  /-- an open region: entry PC, RNGS, packet count, consumption count (R351) -/
  | region (n : Nat)
  /-- its queues of vector, table and exchange commands (R145, R186): how many vector commands, and the others in
  the form of a restart record (R279) -/
  | vq | tq (i : Nat) | xq (i : Nat)
  /-- a word of the open packet; the levels it stands arrived at and has reached (R198); its credit and age in the
  vector unit (R187); its unliftable hold (R108) -/
  | packet (i : Nat) | arrived | credit | age | hold
  /-- a field of what it has brought to the barrier it waits for (R203): scope, operation, format, FP32, value, poison,
  contributes, code, result register; of the lane groups it asks for: least, most, D (R120); the D of its `mclaim`
  (R147) -/
  | arrival (n : Nat) | laneAsk (n : Nat) | claimAsk
  deriving DecidableEq, Repr

/-- A structure of a tile. -/
inductive TileItem where
  | m (i : Nat) | mPois (i : Nat) | mDesc (i : Nat)
  | a (i : Nat) | stage (i : Nat) | aPois (i : Nat) | aDesc (i : Nat)
  | tb (i : Nat) | tbPois (i : Nat) | tbDesc (i : Nat) | tbBuild (i : Nat) | tbBook (i : Nat)
  | pwl (i : Nat) | pwln
  | arec (level : Nat) | ring (i : Nat) | trc | park | freeze | rcol
  /-- a special register that is the tile's: SSC, PARKT, ERRINJ, IDLE (R59) -/
  | special (n : Nat)
  /-- the active table (R238, R249): a command in the form of a restart record, its counted bytes, the first byte
  not requested, how many requests it has in flight; the landing slots in use of a class -/
  | active (i : Nat) | activeCount (i : Nat) | activeNext (i : Nat) | activeReqs (i : Nat) | landing (cls : Nat)
  /-- a command kept for restart (R279); a line of the race filter (R226); a write held in replay (R229) -/
  | restart (i : Nat) | filter (i : Nat) | held (i : Nat)
  /-- a byte of such a write, its poison above the value -/
  | heldByte (i j : Nat)
  /-- banks powered and banks waking (R196); the dirty map (R278) -/
  | banks | waking | dirty
  /-- the issue pointer and bonus, the credit of a slot (R185); the records that are runnable, and those that wait
  for lane groups and for a claim slot, in order (R120, R147, R184) -/
  | issue | slotCredit (n : Nat) | ready (i : Nat) | laneWait (i : Nat) | claimWait (i : Nat)
  /-- eight bytes of the instruction store (R65) -/
  | code (off : Nat)
  /-- eight bytes of SRAM, with the poison of their granule above -/
  | sram (off : Nat)
  deriving DecidableEq, Repr

/-- A structure that the readback map shows. -/
inductive ReadItem where
  | strand (tile r : Nat) (x : StrandItem)
  /-- the park word of a kernel's share of a tile, evicted or not (R276) -/
  | kernelPark (tile kern : Nat)
  | tile (tile : Nat) (x : TileItem)
  | domain (level dom : Nat) | origin (level dom : Nat)
  | multicast (g i : Nat) | faultStatus (g : Nat) | fault (g i : Nat) (second : Bool)
  | groupTlb (g i : Nat) (second : Bool) | dieTlb (d i : Nat) (second : Bool)
  | sagep (g : Nat) | monitor (g i : Nat) | dieTemp (d : Nat) | undo (d i : Nat) | journalOverflow (d : Nat)
  | ctx (i : Nat) | ptroot (i : Nat) | evc (i : Nat) | cmr (i : Nat) | sessionKey (i : Nat)
  | ringBase (kq : Bool) (q : Nat) | ringSize (kq : Bool) (q : Nat)
  | ringHead (kq : Bool) (q : Nat) | ringTail (kq : Bool) (q : Nat)
  | ttImage (i : Nat) | ttState (i : Nat) | ttExcluded (i : Nat) | ctrc (stack : Nat)
  | heap (rg n : Nat) | cursor (slot : Nat)
  | qp (i : Nat) | qpKey (i : Nat) | portKey (i : Nat) (incoming : Bool) | memKey (kid : Nat) | identityKey
  /-- a byte of the device certificate, in clear for every session (R341) -/
  | certificate (i : Nat)
  | route (i : Nat) | mctl (kern : Nat) | mbva (kern : Nat) | mmask (kern : Nat)
  | sloga | slogb | ckpt
  | vote | elog | logEntry (i : Nat) (second : Bool) | pwrs | plan (i : Nat) | mr0 | mr1 | rollback
  /-- an entry of a die's miss table (R300) -/
  | miss (d i : Nat) (second : Bool)
  /-- a word of an object-table entry (R313) -/
  | object (rg n w : Nat)
  /-- eight bytes of group SRAM, die memory or HBM by target type and address, with their poison above -/
  | memory (tt pa : Nat)
  /-- a field of a request of Chervil, and an object that a compaction has still to move (R306, R330) -/
  | request (slot n : Nat) | requestTodo (slot i : Nat)
  /-- a firing's blocks still to be written, and the contributions folded into a block (R257, R258) -/
  | firingLeft (i : Nat) | folded (i block : Nat)
  /-- the counters of a queue pair, the counter of a Mubel port (R339, R340) -/
  | qpCounter (i : Nat) (rx : Bool) | portCounter (i : Nat) (incoming : Bool)
  /-- an event of a context's backlog (R290): sequence number, kind, status, words -/
  | backlog (i j n : Nat)
  /-- of a port: up, peer, tag failures in a row (R250, R340); of a queue pair: its rate, how many packets it has
  unacknowledged, the message that it receives by bytes (R337, R339) -/
  | portState (i n : Nat) | qpRate (i : Nat) | qpUnacked (i : Nat) | qpMessage (i j : Nat)
  /-- of a queue pair: sequence numbers expected and next, messages complete, packets that wait; a byte of the boot
  image received so far (R339, R386) -/
  | qpSequence (i n : Nat) | bootImage (j : Nat)
  /-- of a tile-table entry: its armed word; a segment that waits, of the scatter phase for its turn or of either phase
  for the next firing: source, firing, place, length (R255, R259) -/
  | ttArmed (i n : Nat) | ttWaiting (i list j n : Nat)
  /-- a device condition of a superstep: code and origin (R205) -/
  | condition (level dom i n : Nat)
  /-- a word of a kernel's header, its phase, its priority, its ticket, MEPOCH (R271, R274, R360) -/
  | kernel (k n : Nat)
  /-- a structure of a kernel's share of a tile that is evicted (R281) -/
  | evicted (kern : Nat) (x : ReadItem)
  deriving DecidableEq, Repr

/-- One of two words. -/
def pick (second : Bool) (w : Word × Word) : Nat := (if second then w.2 else w.1).toNat

/-- A value with one bit above its 64. -/
def withPoison (x : Word) (p : Bool) : Nat := x.toNat + b2n p * 2 ^ 64

/-- What a strand shows; none where it has nothing there. -/
def Strand.shows (st : Strand) (x : StrandItem) : Option Nat :=
  match x with
  | .special _ => none
  | .pc => some st.pc.toNat
  | .wait => some st.desc.toNat
  | .g n => if n < 32 then some (withPoison (st.rg n) (st.gp.getLsbD n)) else none
  | .k n => if n < 8 then some (st.rk n).toNat else none
  | .h n =>
    if n < 16 then some ((st.h.val {} n).val.toNat + (st.h.val {} n).word.toNat * 2 ^ 64) else none
  | .v n => if n < 32 then some (st.v.val {} n).lanes.toNat else none
  | .vPois n => if n < 32 then some (st.v.val {} n).pois.toNat else none
  | .vDesc n => if n < 32 then some (st.v.val {} n).desc.toNat else none
  | .entry q i =>
    if q < 4 then
      ((st.lqOf q).filter fun p => !p.inFlight)[i]?.bind fun p =>
        match p with
        | .held v p => some (withPoison v p)
        | _ => none
    else (st.sqOf (q - 4))[i]?.map fun p => withPoison p.1 p.2
  | .drain q i =>
    (st.drains.val [] q)[i]?.map fun d => d.ea % 2 ^ 20 + d.bytes % 16 * 2 ^ 20 + b2n d.ppass * 2 ^ 24
  | .abortPc => some st.abortPc.toNat
  | .frame => some (b2n st.frameRpt * 2 ^ 8 + st.frameIdx % 256)
  | .region n => st.region.map fun rg =>
      match n with
      | 0 => rg.entry.toNat
      | 1 => rg.rngs.toNat
      | 2 => rg.pkt
      | _ => rg.count
  | .vq => some st.vq
  | .tq i => st.tq[i]?.map fun c => bytesToNat (tableRecord 0 c)
  | .xq i => st.xq[i]?.map fun c => bytesToNat (restartBytes c.word c.ri false false c.ops 0)
  | .packet i => (st.pkt.bind fun c => c.words[i]?).map fun b => b.1.toNat + b2n b.2 * 2 ^ 8
  | .arrived => some (st.reached.toNat + st.synced.toNat * 2 ^ 6)
  | .credit => some (st.vc % 2 ^ 32).toNat
  | .age => some st.vage
  | .hold => some st.hold
  | .arrival n => st.arrival.bind fun a =>
      [a.scp, a.op.code.toNat, a.fmt.toNat, b2n a.f32, a.x.toNat, b2n a.px, b2n a.val, a.code.toNat, a.d.toNat][n]?
  | .laneAsk n => st.vreq.bind fun v => [v.1, v.2.1, v.2.2.toNat][n]?
  | .claimAsk => st.mreq.map (·.toNat)

/-- What a tile shows of its own. -/
def Tile.shows (t : Tile) (x : TileItem) : Option Nat :=
  match x with
  | .m i => some (t.poolM i).data.toNat
  | .mPois i => some (t.poolM i).pois.toNat
  | .mDesc i => some (t.poolM i).desc.toNat
  | .a i => some (t.poolA i).c.toNat
  | .stage i => some (t.poolA i).stage.toNat
  | .aPois i => some (t.poolA i).pois.toNat
  | .aDesc i => some (t.poolA i).desc.toNat
  | .tb i => some (t.poolTb i).shown
  | .tbPois i => some (t.poolTb i).pois.toNat
  | .tbDesc i => some (t.poolTb i).desc.toNat
  | .tbBuild i => some (t.poolTb i).build.toNat
  | .tbBook i => some ((t.poolTb i).book.foldr (fun b acc => acc * 256 + b.toNat) 0)
  | .pwl i => if i < 320 then some (t.pwl.val 0 i).toNat else none
  | .pwln => some t.pwln
  | .arec l => some (t.arec.val 0 l).toNat
  | .ring i => if i < 256 then some (t.ring.val 0 i).toNat else none
  | .trc => some t.trc.toNat
  | .park => some t.parkWord.toNat
  | .freeze => some t.freezeWord.toNat
  | .rcol => some t.rcol.toNat
  | .active i => t.xact[i]?.map fun a => bytesToNat
      (restartBytes a.cmd.word a.cmd.ri true a.held.isSome a.cmd.ops (a.counted / 2048))
  | .activeCount i => t.xact[i]?.map (·.counted)
  | .activeNext i => t.xact[i]?.map (·.nxt)
  | .activeReqs i => t.xact[i]?.map fun a => (a.reqs.filter fun r => !r.atRest).length
  | .landing c => if c < 4 then some (t.land.val 0 c) else none
  | .restart i => t.restart[i]?.map fun c => bytesToNat
      (restartBytes c.word c.ri true c.wasHeld c.ops (c.from0 / 2048))
  | .filter i => t.filter[i]?.map fun f => f.1 + f.2.1 * 2 ^ 15 + f.2.2.1 * 2 ^ 33 + b2n f.2.2.2 * 2 ^ 36
  | .held i => t.heldW[i]?.map fun h => h.w.addr + h.w.src * 2 ^ 20 + h.w.kind * 2 ^ 38 + h.w.data.length * 2 ^ 41
  | .heldByte i j => (t.heldW[i]?.bind fun h => h.w.data[j]?).map fun b => b.1.toNat + b2n b.2 * 2 ^ 8
  | .banks => some t.bankOn.toNat
  | .waking => some t.bankWaking.toNat
  | .dirty => some t.dirty.toNat
  | .issue => some (t.issT + b2n t.bonus * 2 ^ 3)
  | .slotCredit n => if n < 8 then some (t.cr.val 0 n) else none
  | .ready i => t.ready[i]?
  | .laneWait i => t.vwait[i]?
  | .claimWait i => t.mwait[i]?
  | .special _ | .sram _ | .code _ => none

/-- The tile whose park word a tile shows: an evicted share of a tile that no kernel holds (R276). -/
def State.parkOf (s : State) (t : Nat) : Tile :=
  match (s.tileAt t).kernel, s.saves.find? fun x => x.tile == t with
  | none, some x => x.img
  | _, _ => s.tileAt t

/-- A field of a request of Chervil (R306, R330): 0 tells its kind, the others its regions, objects, pages, copies,
size, cursor and whether it has committed, as the log lists them (log 46). -/
def Chervil.field (c : Chervil) (n : Nat) : Option Nat :=
  match c with
  | .migr m =>
    [0, m.asid, m.va, m.leafKey, m.old.toNat, m.new.toNat, m.cur, b2n m.committed, m.tile, m.kern,
     m.sw.getD (2 ^ 20)][n]?
  | .move r => [1, r.rg, r.obj, r.rg2, r.obj2, r.old, r.new, r.size, r.cur, b2n r.committed][n]?
  | .compact rg todo none => [2, rg, todo.length][n]?
  | .compact rg todo (some r) => [2, rg, todo.length, r.obj, r.old, r.new, r.size, r.cur, b2n r.committed][n]?

/-- Special registers that belong to the tile, not to a strand (R59). -/
def tileSpecial (n : Nat) : Bool :=
  (decide (0x10 ≤ n) && decide (n ≤ 0x15)) || n == 0x20 || n == 0x21 || (decide (0x30 ≤ n) && decide (n ≤ 0x3b))

/-- What the map shows at an item of a tile that stands in it. -/
def State.showsHere (s : State) (x : ReadItem) : Option Nat :=
  match x with
  | .evicted _ _ => none
  | .tile t (.special n) => if tileSpecial n then some ({ s with cur := t }.rdSpecial n).toNat else none
  | .tile t (.code off) => if off % 8 = 0 ∧ off < 2 ^ 17 then some (rdNat s.mem (codeKey t off) 8) else none
  | .rollback => some s.plane.rollback
  | .miss d i w => ((s.dieAt d).miss.val? i).map fun m =>
      match m.fault with
      | some r => pick w (r.words m.waits.length m.groups)
      | none => if w then m.waits.length * 2 ^ 24 + m.groups * 2 ^ 16 else m.va / 2 ^ 16 * 2 ^ 16 + m.asid
  | .object rg n w =>
    if rg < 64 ∧ n < (s.heapAt rg).nobj ∧ w < 4 then some (bytesToNat (((s.rdEnt rg n).bytes.drop (8 * w)).take 8))
    else none
  | .memory tt pa =>
    let a := memKey tt pa
    if pa % 8 = 0 ∧ pa < 2 ^ 47 ∧ (tt = 1 ∨ tt = 2 ∨ tt = 4) then
      some (s.rdNum (s.keyOf a) a 8 + b2n (isMarked s.marks a) * 2 ^ 64)
    else none
  | .request i n => (s.chervil.val? i).bind fun c => c.field n
  | .requestTodo i n => (s.chervil.val? i).bind fun c =>
      match c with
      | .compact _ todo _ => todo[n]?
      | _ => none
  | .firingLeft i => if i < 8192 then some (s.entryAt i).missing.length else none
  | .folded i b => ((s.entryAt i).folds.val? b).map fun f => f.order.length
  | .qpCounter i rx => some (if rx then (s.qps.val {} i).rxCtr else (s.qps.val {} i).txCtr)
  | .portCounter i inn => some (if inn then (s.ports.val {} i).ctrIn else (s.ports.val {} i).ctr)
  | .backlog i j n => (s.ctxs.val {} i).backlog[j]?.bind fun e =>
      [e.seq.toNat, e.kind, e.status, e.w1.toNat, e.w2.toNat, e.w3.toNat][n]?
  | .portState i n => [b2n (s.ports.val {} i).up, (s.ports.val {} i).peer, (s.ports.val {} i).tagFail][n]?
  | .qpSequence i n =>
    let q := s.qps.val {} i
    [q.epsn.getD (2 ^ 24), q.spsn, q.msn, q.waiting.length][n]?
  | .bootImage j => s.plane.img[j]?.map (·.toNat)
  | .qpRate i => some (s.qps.val {} i).rate
  | .qpUnacked i => some (s.qps.val {} i).unacked.length
  | .qpMessage i j => (s.qps.val {} i).msg[j]?.map (·.toNat)
  | .ttArmed i n => (s.entryAt i).armed.bind fun a => [a.1, a.2.1, a.2.2][n]?
  | .ttWaiting i l j n =>
    let e := s.entryAt i
    (([e.waitSegs, e.nextSegs, e.nextGath][l]?).bind fun xs => xs[j]?).bind fun g =>
      [g.src, g.fg.toNat, g.pos, g.data.length][n]?
  | .condition l d i n => (s.domAt l d).conds[i]?.bind fun c => [c.1.toNat, c.2][n]?
  | .kernel k n => (s.kernels.val? k).bind fun x =>
      if n < 32 then some (hdrWord x.hdr (8 * n))
      else [x.phase, x.prio, x.ticket, x.mepoch.toNat][n - 32]?
  | .strand t r (.special n) =>
    if s.hasStrand t r then some ({ s with cur := t, curRec := r }.rdSpecial n).toNat else none
  | .strand t r .wait =>
    if s.hasStrand t r then some (s.strandAt t r).desc.toNat else if r < 64 then some 0 else none
  | .strand t r x => if s.hasStrand t r then (s.strandAt t r).shows x else none
  | .tile t (.sram off) =>
    if off % 8 ≠ 0 ∨ 2 ^ 20 ≤ off then none
    else if (s.tileAt t).gated off then some 0
    else some (s.ldNum t off 8 + b2n (isMarked s.marks (sramKey t off)) * 2 ^ 64)
  | .tile t .park => some (s.parkOf t).parkWord.toNat
  | .tile t x => (s.tileAt t).shows x
  | .kernelPark t k =>
    if (s.tileAt t).kernel = some k then some (s.tileAt t).parkWord.toNat
    else (s.saves.find? fun x => x.tile == t && x.kernel == k).map fun x => x.img.parkWord.toNat
  | .domain l d => (s.doms.val? (domKey l d)).map fun _ => (s.domWord l d).toNat
  | .origin l d => (s.doms.val? (domKey l d)).map fun d => d.origin.toNat
  | .multicast g i => some ((s.groupAt g).mcast.val 0 i).toNat
  | .faultStatus g => some (s.groupAt g).faultStatus.toNat
  | .fault g i w => (s.groupAt g).fbuf[i]?.map fun r =>
      pick w (r.words (s.faultWaits g r).1 (s.faultWaits g r).2)
  | .groupTlb g i w => (s.groupAt g).tlb[i]?.map fun x => pick w (x.words 0)
  | .dieTlb d i w => (s.dieAt d).tlb[i]?.map fun x => pick w (x.words (s.gcp d x))
  | .sagep g => some (s.groupAt g).sagep.toNat
  | .monitor g i => if i < 16 then some ((s.groupAt g).monitor i) else none
  | .dieTemp d => s.plane.temps[d]?
  | .undo d i => (s.dieAt d).journal[i]?.map Undo.bits
  | .journalOverflow d => some (s.dieAt d).jover
  | .ctx i => some (s.ctxs.val {} i).word.toNat
  | .ptroot i => some (s.ctxs.val {} i).ptroot.toNat
  | .evc i => some (s.ctxs.val {} i).evc.toNat
  | .cmr i => some (s.ctxs.val {} i).cmr.toNat
  | .sessionKey i => (s.ctxs.val {} i).session.map fun k => (fingerprint 2 0 k.toNat).toNat
  | .ringBase kq q => some ((if kq then s.kq else s.lq).val {} q).base.toNat
  | .ringSize kq q => some ((if kq then s.kq else s.lq).val {} q).size.toNat
  | .ringHead kq q => some ((if kq then s.kq else s.lq).val {} q).head.toNat
  | .ringTail kq q => some ((if kq then s.kq else s.lq).val {} q).tail.toNat
  | .ttImage i => if i < 8192 then some (s.entryAt i).image else none
  | .ttState i => if i < 8192 then some (s.entryAt i).word.toNat else none
  | .ttExcluded i => if i < 8192 then some (s.entryAt i).exclm.toNat else none
  | .ctrc st => some (s.traces.val {} st).word.toNat
  | .heap rg n => if rg < 64 ∧ n < 6 then some ((s.heapAt rg).descWord n).toNat else none
  | .cursor i => (s.chervil.val? i).bind fun c =>
      match c with
      | .migr m => some m.cur
      | .move r => some r.cur
      | .compact _ _ cur => cur.map (·.cur)
  | .qp i => some (s.qps.val {} i).word.toNat
  | .qpKey i =>
    if (s.qps.val {} i).sealed then some (fingerprint 2 0 (s.qps.val {} i).key).toNat else none
  | .portKey i inn => some (fingerprint 3 0 (if inn then (s.ports.val {} i).keyIn else (s.ports.val {} i).key)).toNat
  | .certificate i => Config.deviceCertificate[i]?.map (·.toNat)
  | .memKey kid =>
    (if kid = 0 then (if s.plane.boot = 6 then some s.plane.key0 else none) else s.memKeys.val? kid).map fun k =>
      (fingerprint 1 kid k).toNat
  | .identityKey => some (fingerprint 4 0 Config.fusedIdentity).toNat
  | .route i => some (s.routes.val {} i).word.toNat
  | .mctl k => some (match s.kernels.val? k with
      | some x => setBits x.mctl 16 32 x.mepoch.toNat
      | none => s.mctl).toNat
  | .mbva k => some (match s.kernels.val? k with
      | some x => x.mbva
      | none => s.mbva).toNat
  | .mmask k => some (s.kernAt k).mmask.toNat
  | .sloga => some s.slog.wordA.toNat
  | .slogb => some s.slog.wordB.toNat
  | .ckpt => some s.slog.ckpt.toNat
  | .vote => some s.plane.vote.toNat
  | .elog => some s.plane.elog.toNat
  | .logEntry i w => s.plane.log[i]?.map fun e => pick w e.words
  | .pwrs => some s.pwrs.toNat
  | .plan i => s.plane.plans[i]?.map (·.toNat)
  | .mr0 => some s.plane.mr0.toNat
  | .mr1 => some s.plane.mr1.toNat

/-- What the map shows at an item, of an evicted tile too (R17, R281). -/
def State.shows (s : State) (x : ReadItem) : Option Nat :=
  match x with
  | .evicted k (.strand t r i) => (s.savedOf k t).bind fun y => (s.recalled y).showsHere (.strand t r i)
  | .evicted k (.tile t i) => (s.savedOf k t).bind fun y => (s.recalled y).showsHere (.tile t i)
  | x => s.showsHere x

/-- The context whose data a tile holds: that of its kernel, or of the last one that held it (R196). -/
def State.tileOwner (s : State) (t : Nat) : Option Nat :=
  if (s.tileAt t).kernel.isSome then some (s.asidOf t) else (s.tileAt t).lastAsid

/-- A number that no context has: what it owns goes to no session in clear. -/
def noAsid : Nat := 2 ^ 17

/-- The context that owns bytes of a level memory: by the KEYID of their line; of group SRAM, by the group's
tiles; of memory under no context's key, none has it but the supervisor (R19, R343). -/
def State.memoryOwner (s : State) (tt pa : Nat) : Option Nat :=
  if tt = 1 then s.tileOwner (pa / 2 ^ 23 * 32)
  else
    let kid := s.keyOf (memKey tt pa)
    match s.ctxs.find? fun c => c.2.keys.contains kid with
    | some c => some c.2.asid
    | none => if kid = 0 then none else some noAsid

/-- The context of an entry of the context table; a free entry is device-wide (R267). -/
def State.entryOwner (s : State) (i : Nat) : Option Nat :=
  if (s.ctxs.val {} i).st = 0 then none else some (s.ctxs.val {} i).asid

/-- The context that a table entry names, if it is resident. -/
def State.residentOwner (s : State) (asid : Nat) : Option Nat := if s.resident asid then some asid else none

/-- The context that owns what an item shows; none for device-wide state (R19). -/
def State.itemOwner (s : State) (x : ReadItem) : Option Nat :=
  match x with
  | .strand t _ _ => s.tileOwner t
  | .tile t _ => s.tileOwner t
  | .kernelPark _ k => (s.kernels.val? k).map (·.asid)
  | .domain _ d | .origin _ d => (s.kernels.val? (d / 2 ^ 18)).map (·.asid)
  | .fault g i _ => (s.groupAt g).fbuf[i]?.map (·.asid)
  | .groupTlb g i _ => (s.groupAt g).tlb[i]?.map (·.asid)
  | .dieTlb d i _ => (s.dieAt d).tlb[i]?.map (·.asid)
  | .undo d i => ((s.dieAt d).journal[i]?.bind fun u => u.kern).map fun k => (s.kernAt k).asid
  | .ctx i | .ptroot i | .evc i | .cmr i | .sessionKey i | .backlog i _ _ => s.entryOwner i
  | .ttImage i | .ttState i | .ttExcluded i => s.residentOwner (s.entryAt i).asid
  | .heap rg _ => s.residentOwner (s.heapAt rg).asid
  | .cursor i | .request i _ | .requestTodo i _ => (s.chervil.val? i).map fun c =>
      match c with
      | .migr m => m.asid
      | .move r => (s.heapAt r.rg).asid
      | .compact rg _ _ => (s.heapAt rg).asid
  | .qp i | .qpKey i => s.residentOwner (s.qps.val {} i).asid
  | .memKey kid => (s.ctxs.find? fun c => c.2.keys.contains kid).map (·.2.asid)
  | .condition _ d _ _ => (s.kernels.val? (d / 2 ^ 18)).map (·.asid)
  | .qpRate i | .qpUnacked i | .qpMessage i _ | .qpSequence i _ => s.residentOwner (s.qps.val {} i).asid
  | .ttArmed i _ | .ttWaiting i _ _ _ => s.residentOwner (s.entryAt i).asid
  | .mctl k | .mbva k | .mmask k | .kernel k _ => (s.kernels.val? k).map (·.asid)
  | .evicted k _ => (s.kernels.val? k).map (·.asid)
  | .miss d i _ => ((s.dieAt d).miss.val? i).map (·.asid)
  | .object rg _ _ => some (s.heapAt rg).asid
  | .memory tt pa => s.memoryOwner tt pa
  | .firingLeft i | .folded i _ => s.residentOwner (s.entryAt i).asid
  | .qpCounter i _ => s.residentOwner (s.qps.val {} i).asid
  | _ => none

/-- Whether an item is readable in clear by every session: the device certificate (R341). -/
def ReadItem.isPublic (x : ReadItem) : Bool :=
  match x with
  | .certificate _ => true
  | _ => false

/-- The answer to a read: the value or its ciphertext, whether it is sent in clear, and the status bit of a gated
bank (R18, R19). -/
structure ReadAnswer where
  value : Nat
  clear : Bool
  gated : Bool
  deriving DecidableEq, Repr

/-- The bank of an item is gated (R18, R196). -/
def State.itemGated (s : State) (x : ReadItem) : Bool :=
  match x with
  | .tile t (.sram off) => (s.tileAt t).gated off
  | _ => false

/-- The key of a context's answers to others: its session key; of one that has no session, a number that is no session's
key (log 46). -/
def State.sealKey (s : State) (a : Nat) : Nat := ((s.ctxOf a).session.map (·.toNat)).getD (2 ^ 128)

/-- A read by a session, the supervisor's or one keyed to a context (R19): state of a context is in clear
for that context's session alone, device-wide state for the supervisor's; what is not in clear goes under
the session key of the context that owns it, device-wide state to no other. -/
def State.readback (s : State) (supervisor : Bool) (asid : Nat) (x : ReadItem) : Option ReadAnswer :=
  (s.shows x).bind fun v =>
    match s.itemOwner x with
    | none => if supervisor || x.isPublic then some { value := v, clear := true, gated := s.itemGated x } else none
    | some a =>
      if !supervisor && a == asid then some { value := v, clear := true, gated := s.itemGated x }
      else some { value := Config.readSeal (s.sealKey a) v, clear := false, gated := s.itemGated x }

/-- A gated bank reads back as zero, marked gated (R18). -/
theorem readback_gated (s : State) (asid t off : Nat) (ha : off % 8 = 0) (hl : off < 2 ^ 20)
    (ho : s.tileOwner t = some asid) (h : (s.tileAt t).gated off = true) :
    s.readback false asid (.tile t (.sram off)) = some { value := 0, clear := true, gated := true } := by
  have : ¬ 1048576 ≤ off := by omega
  simp [State.readback, State.shows, State.showsHere, State.itemOwner, ho, State.itemGated, h, ha, this]

/-- No session but the owner's reads state of a context in clear (R19). -/
theorem readback_sealed (s : State) (sup : Bool) (asid a : Nat) (x : ReadItem) (ans : ReadAnswer)
    (ho : s.itemOwner x = some a) (hn : sup = true ∨ a ≠ asid) (h : s.readback sup asid x = some ans) :
    ans.clear = false := by
  have hc : (!sup && a == asid) = false := by rcases hn with h | h <;> simp [h]
  simp only [State.readback, ho, hc, Bool.false_eq_true, if_false, Option.bind_eq_some_iff, Option.some.injEq] at h
  obtain ⟨-, -, rfl⟩ := h
  rfl

end Sys2Proof.Machine
end

