-- ==== Sys2Proof/Tests/Slice0.lean ====
section
/-! SUPPORT. Tests: ill-formed terms that the checks refuse, words of the spec, single steps on small states, and
for each statement a state and operands that meet the hypotheses of each of its clauses (each such
theorem takes the statement and applies it). -/

set_option maxRecDepth 100000
set_option Elab.async false

open Sys2Proof Sys2Proof.Machine

namespace Sys2Proof.Tests

/-! ### Small states -/

/-- A strand in thread slot 0 with values in its registers and queues. -/
def st0 : Strand :=
  { slot := some 0, kind := 2, npc := 1, g := [(1, 0x7f), (2, 5), (3, 0x100), (4, 0xffffffffffffffff)],
    lq := [(0, [.held 9 false, .held 8 false])], sq := [(0, [(7, false)])] }

/-- A machine whose tile 0 runs a strand. -/
def run (st : Strand) : State := { tiles := [(0, { strands := [(0, st)], bankOn := BitVec.allOnes 64 })] }

/-- Zero, unpoisoned. -/
def z0 : Word × Bool := (0, false)

/-- The machine of the first strand. -/
def m0 : State := run st0

/-- What a strand needs to issue an instruction whole, as one check. -/
theorem iss {s : State} {i : Instr} (h : (s.running && wellFormed i && (!isPrivileged i || s.st.sup) &&
    (s.st.awaits i).isNone && s.st.partner.isNone) = true := by decide +kernel)
    (hi : s.injectReg i = s := by rfl) : s.issues i := by
  simp only [Bool.and_eq_true, Bool.or_eq_true, Bool.not_eq_true', Option.isNone_iff_eq_none] at h
  obtain ⟨⟨⟨⟨a, b⟩, c⟩, d⟩, e⟩ := h
  exact ⟨a, b, fun p => c.resolve_left (by simp [p]), d, e, hi⟩

/-- The same with the predicate on. -/
theorem rns {s : State} {i : Instr} {f : Fields} (h : (s.running && wellFormed i &&
    (!isPrivileged i || s.st.sup) && (s.st.awaits i).isNone && s.st.partner.isNone && predOn f s.st) = true := by decide +kernel)
    (hi : s.injectReg i = s := by rfl) : s.runs i f := by
  rw [Bool.and_eq_true] at h
  exact ⟨iss h.1 hi, h.2⟩

/-- The state that an instruction gives. -/
def nx (i : Instr) (s : State) : State := match exec i s with | .next t => t | _ => s

/-- An instruction that goes on. -/
theorem goesOn {i : Instr} {s : State}
    (h : (match exec i s with | .next _ => true | _ => false) = true := by decide +kernel) :
    exec i s = .next (nx i s) := by
  unfold nx
  split at h
  · rename_i t e
    rw [e]
  · cases h

/-- A range from a bound on. -/
theorem between {a b : Nat} {P : Nat → Prop} (h : ∀ j, j < b → a ≤ j → P j) :
    ∀ j, a ≤ j → j < b → P j := fun j x y => h j y x

/-- What an option holds. -/
theorem forSome {o : Option Nat} {v : Nat} {P : Nat → Prop} (h : o = some v) (p : P v) :
    ∀ k, o = some k → P k := fun k e => by
  have := h.symm.trans e
  cases this
  exact p

/-- A check that passes. -/
theorem okU {e : Body Unit} (h : e.toOption = some () := by decide +kernel) : e = .ok () := by
  cases e with
  | error => cases h
  | ok => rfl

/-! ### Checks of well-formedness (R59, R77, R80, R81) -/

/-- Numbers that R59 does not list are no instruction. -/
theorem test_undefined_number : wellFormed (.mfsr { d := 4, imm := 0x0a }) = false ∧
    decodeErr (.mfsr { d := 4, imm := 0x0a }) = some .undefined := by decide
theorem test_reserved_scp : wellFormed (.add { d := 4, scp := 1 }) = false := by decide
theorem test_reserved_prd : wellFormed (.azero { d := 0x80, prd := 1 }) = false := by decide
theorem test_reserved_neg : wellFormed (.azero { d := 0x80, neg := true }) = false := by decide
theorem test_reserved_rnd : wellFormed (.vand { d := 0x21, a := 0x22, b := 0x23, fmt := 1, rnd := 1 }) = false := by decide
theorem test_reserved_sat : wellFormed (.mulh { d := 4, sat := true }) = false := by decide
theorem test_reserved_fmt : wellFormed (.add { d := 4, fmt := 8 }) = false := by decide
theorem test_reserved_ef : wellFormed (.add { d := 4, ef := true }) = false := by decide
theorem test_reserved_imm : wellFormed (.brk { imm := 0x10000 }) = false := by decide
/-- A field that passes bit 63. -/
theorem test_reserved_bad : wellFormed (.bfx { d := 4, a := 5, imm := 0x3f01 }) = false := by decide
theorem test_operand_class : wellFormed (.add { d := 0x20, a := 2 }) = false ∧
    decodeErr (.add { d := 0x20, a := 2 }) = some .operandClass := by decide
/-- An odd D of a pair. -/
theorem test_operand_pair : wellFormed (.hpin { d := 7, a := 0xc2 }) = false := by decide
/-- Two `h` operands of one transfer. -/
theorem test_operand_bad : wellFormed (.xcpy { d := 6, a := 0xc1, b := 0xc2, c := 4, scp := 4 }) = false := by decide
theorem test_control_byte : wellFormed (.st { d := 4, a := 5, c := 0x40 }) = false ∧
    decodeErr (.st { d := 4, a := 5, c := 0x40 }) = some .reservedField := by decide
/-- A repeat with a reserved bit. -/
theorem test_reserved_rep : wellFormed (.rep { rsv := 1 }) = false := by decide

/-! ### Words that the spec writes out beside their assembly -/

/-- R101, R103, R111 (file 03, file 04). -/
theorem test_words_scalar :
    decode 0x2c0005020000000000000010 = .ok (.ld { d := 5, a := 2, imm := 0x10 }) ∧
    decode 0x390000000000000000000000 = .ok (.nop {}) ∧
    decode 0x2e0000020000000000000000 = .ok (.ldq { a := 2 }) ∧
    decode 0x1000e4e00000000000000003 = .ok (.add { d := 0xe4, a := 0xe0, imm := 3 }) := by
  refine ⟨?_, ?_, ?_, ?_⟩ <;> rfl
/-- R118, R146, file 12. -/
theorem test_words_table :
    decode 0x720062020006001000000000 = .ok (.mld { d := 0x62, a := 2, c := 6, fmt := 8 }) ∧
    decode 0x7500a160250000140000002f = .ok (.tbuildc { d := 0xa1, a := 0x60, b := 0x25, fmt := 10, imm := 0x2f }) ∧
    decode 0x7e0026a06117001000000000 = .ok (.mchk { d := 0x26, a := 0xa0, b := 0x61, c := 0x17, fmt := 8 }) ∧
    decode 0x7f0042802618000400000000 = .ok (.achk { d := 0x42, a := 0x80, b := 0x26, c := 0x18, fmt := 2 }) ∧
    decode 0x7d0080121300000400000000 = .ok (.aput { d := 0x80, a := 0x12, b := 0x13, fmt := 2 }) := by
  refine ⟨?_, ?_, ?_, ?_, ?_⟩ <;> rfl
/-- R178, R203 (files 12, 13). -/
theorem test_words_strands :
    decode 0x820001050600000000000000 = .ok (.wait { d := 1, a := 5, b := 6 }) ∧
    decode 0x850001000000800000000052 = .ok (.sync .add { d := 1, scp := 4, imm := 0x52 }) ∧
    decode 0x850001000000a000fffffffa = .ok (.sync .add { d := 1, scp := 5, imm := 0xfffffffa }) := by
  refine ⟨?_, ?_, ?_⟩ <;> rfl
/-- R235, R254 (files 10, 11, 12, 13). -/
theorem test_words_exchange :
    decode 0x940009020300a00800000000 = .ok (.xld { d := 9, a := 2, b := 3, scp := 5, fmt := 4 }) ∧
    decode 0x940000000300800100000001 = .ok (.xld { b := 3, scp := 4, ef := true, imm := 1 }) ∧
    decode 0x910006090a0ca08000000000 = .ok (.xput { d := 6, a := 9, b := 10, c := 12, scp := 5, rnd := 2 }) ∧
    decode 0x980007050001000000000000 = .ok (.swset { d := 7, a := 5, c := 1 }) ∧
    decode 0x9a0000050000000000000000 = .ok (.ctready { a := 5 }) ∧
    decode 0x9b0006050700000000000001 = .ok (.ctarm { d := 6, a := 5, b := 7, imm := 1 }) ∧
    decode 0x9c0008050000000000000000 = .ok (.ctstat { d := 8, a := 5 }) := by
  refine ⟨?_, ?_, ?_, ?_, ?_, ?_, ?_⟩ <;> rfl
/-- R287, R303 (files 14, 15). -/
theorem test_words_system :
    decode 0xa00000000000000000000000 = .ok (.svcReturn {}) ∧
    decode 0xa10000000000000000000000 = .ok (.tret {}) ∧
    decode 0xa30000190000000000000021 = .ok (.mtsr { a := 25, imm := 0x21 }) ∧
    decode 0xa40000000000000000000000 = .ok (.park {}) ∧
    decode 0xa70000040500800000000000 = .ok (.tlbinvPage { a := 4, b := 5, scp := 4 }) ∧
    decode 0xa70100000500a00000000000 = .ok (.tlbinvCtx { b := 5, scp := 5 }) ∧
    decode 0xa80006040000000000000000 = .ok (.tlbprobe { d := 6, a := 4 }) ∧
    decode 0xa90006040000000000000000 = .ok (.fltrd { d := 6, a := 4 }) ∧
    decode 0xaa0000040000000000000001 = .ok (.fltrep { a := 4, imm := 1 }) ∧
    decode 0xab0006040507000000000401 = .ok (.migr { d := 6, a := 4, b := 5, c := 7, imm := 0x401 }) := by
  refine ⟨?_, ?_, ?_, ?_, ?_, ?_, ?_, ?_, ?_, ?_⟩ <;> rfl
/-- R320, R351, R353 (files 16, 19). -/
theorem test_words_heap :
    decode 0xb000c2030000000000000040 = .ok (.hld { d := 0xc2, a := 3, imm := 0x40 }) ∧
    decode 0xb100c2030000000000000048 = .ok (.hst { d := 0xc2, a := 3, imm := 0x48 }) ∧
    decode 0xb200c1060000000000000000 = .ok (.hmov { d := 0xc1, a := 6 }) ∧
    decode 0xb30006c20000000000000000 = .ok (.hpin { d := 6, a := 0xc2 }) ∧
    decode 0xb40006c20000000000000000 = .ok (.hunpin { d := 6, a := 0xc2 }) ∧
    decode 0xb50007c1c200000000000000 = .ok (.hcmp { d := 7, a := 0xc1, b := 0xc2 }) ∧
    decode 0xb70000000000000000000000 = .ok (.region {}) ∧
    decode 0xb70100000000000000000000 = .ok (.regionClose {}) ∧
    decode 0xb80006000000000000000000 = .ok (.pair { d := 6 }) ∧
    decode 0xb90006000000000000000000 = .ok (.unpair { d := 6 }) := by
  refine ⟨?_, ?_, ?_, ?_, ?_, ?_, ?_, ?_, ?_, ?_⟩ <;> rfl

/-! ### Single steps with results of the spec -/

/-- g1 after an instruction on a machine whose g2 and g3 are given. -/
def g1Of (i : Instr) (a b : Word) : Word :=
  match exec i (run { st0 with g := [(2, a), (3, b)] }) with
  | .next t => t.st.rg 1
  | _ => 0xdead
/-- The results that R93 lists. -/
theorem test_add : g1Of (.add { d := 1, a := 2, imm := 100, fmt := 1 }) 80 0 = 0xffffffffffffffb4 ∧
    g1Of (.add { d := 1, a := 2, imm := 100, fmt := 2 }) 80 0 = 0xb4 := by decide +kernel
theorem test_add_sat : g1Of (.add { d := 1, a := 2, imm := 100, fmt := 1, sat := true }) 80 0 = 0x7f := by decide +kernel
theorem test_div : g1Of (.div { d := 1, a := 2, b := 3, fmt := 5 }) 0x80000000 0xffffffffffffffff = 0xffffffff80000000 ∧
    g1Of (.div { d := 1, a := 2, b := 3, fmt := 5, sat := true }) 0x80000000 0xffffffffffffffff = 0x7fffffff := by
  decide +kernel
theorem test_rem : g1Of (.rem { d := 1, a := 2, b := 3 }) 0xfffffffffffffff9 2 = 0xffffffffffffffff := by decide +kernel
theorem test_shl : g1Of (.shl { d := 1, a := 2, imm := 33, fmt := 5 }) 3 0 = 6 := by decide +kernel
/-- The object reference of file 16. -/
theorem test_reference : mkRef false 2 0x15 3 = 0x8080000005400003 := by decide
/-- The plan of file 21: 0.5 % a unit; and its entry in the log. -/
theorem test_plan : planOf [(0, -20, 9), (0, -15, 11), (0, -10, 13), (1, -20, 14)] = (0, -10, 13, false) ∧
    planEntry 3600 11 0 (-10) 13 = 0x00000e102cf60d00 := by decide
/-! ### Witnesses: scalar instructions -/

theorem wit_binary (h : Obligations.BinaryOperationsWriteTheirResult) :
    ∃ t, exec (.add { d := 5, a := 1, b := 2, fmt := 1, imm := 100 }) m0 = .next t :=
  ⟨_, h _ { d := 5, a := 1, b := 2, fmt := 1, imm := 100 } m0 _ _ (0x7f, false) (5, false) 232 rns rfl (by decide +kernel)
    rfl rfl⟩

theorem wit_copies (h : Obligations.CopiesSelectsAndMovesWriteTheirResult) :
    (∃ t, exec (.clz { d := 5, a := 1 }) m0 = .next t) ∧ (∃ t, exec (.ctz { d := 5, a := 3 }) m0 = .next t) ∧
    (∃ t, exec (.popc { d := 5, a := 1 }) m0 = .next t) ∧ (∃ t, exec (.mov { d := 5, a := 1 }) m0 = .next t) ∧
    (∃ t, exec (.sext { d := 5, a := 4, fmt := 1 }) m0 = .next t) ∧
    (∃ t, exec (.zext { d := 5, a := 4, fmt := 1 }) m0 = .next t) ∧
    (∃ t, exec (.bfx { d := 5, a := 1, imm := 0x200 }) m0 = .next t) ∧
    (∃ t, exec (.set .lt { d := 5, a := 1, b := 2 }) m0 = .next t) ∧
    (∃ t, exec (.lea { d := 5, a := 1, b := 2 }) m0 = .next t) ∧
    (∃ t, exec (.sel { d := 5, a := 1, b := 2, c := 3 }) m0 = .next t) ∧
    (∃ t, exec (.movi 5 0 77) m0 = .next t) ∧
    ∃ t, exec (.bfi { d := 1, a := 2, imm := 0x204 }) m0 = .next t :=
  have c := h.1
  have d := h.2
  ⟨⟨_, (c _ m0 _ _ (0x7f, false) 57 rfl rfl).1 rns
      ⟨57, by decide +kernel, rfl, between (by decide +kernel), fun _ => by decide +kernel⟩ rfl⟩,
    ⟨_, (c _ m0 _ _ (0x100, false) 8 rfl rfl).2.1 rns
      ⟨8, by decide +kernel, rfl, by decide +kernel, fun _ => by decide +kernel⟩ rfl⟩,
    ⟨_, (c _ m0 _ _ (0x7f, false) 7 rfl rfl).2.2.1 rns (by decide +kernel) rfl⟩,
    ⟨_, (c _ m0 _ _ (0x7f, false) 0x7f rfl rfl).2.2.2.1 rns rfl rfl⟩,
    ⟨_, (c _ m0 _ _ (0xffffffffffffffff, false) 0xffffffffffffffff rfl rfl).2.2.2.2.1
      rns (by decide +kernel) rfl⟩,
    ⟨_, (c _ m0 _ _ (0xffffffffffffffff, false) 0xff rfl rfl).2.2.2.2.2.1 rns
      (by decide +kernel) rfl⟩,
    ⟨_, (c _ m0 _ _ (0x7f, false) 0xffffffffffffffff rfl rfl).2.2.2.2.2.2 rns
      (by decide +kernel) rfl⟩,
    ⟨_, (d _ m0 _ _ (0x7f, false) (5, false) (0, false)).1 .lt rns rfl rfl rfl⟩,
    ⟨_, (d _ m0 _ _ (0x7f, false) (5, false) (0, false)).2.1 rns rfl rfl rfl⟩,
    ⟨_, (d _ m0 _ _ (0x7f, false) (5, false) (0x100, false)).2.2.1 rns rfl rfl
      rfl⟩,
    ⟨_, (d {} m0 m0 _ (0, false) (0, false) (0, false)).2.2.2.1 5 0 77 iss rfl
      rfl⟩,
    ⟨_, (d _ m0 _ _ (5, false) (0, false) (0, false)).2.2.2.2 rns rfl rfl rfl⟩⟩

/-! ### Witnesses: operands and local memory -/

/-- A strand with a poisoned address, one with its queues at their ends, and one that stores. -/
def stP : Strand := { st0 with gp := 2 }
def stD : Strand := { st0 with drains := [(0, [{ ea := 0x100, bytes := 8, ppass := false }])] }
def stQ : Strand := { st0 with lq := [(0, [])], sq := [(0, [(1, false), (2, true), (3, false), (4, false)])] }

theorem wit_operands (h : Obligations.OperandsReadAndWriteTheirFile) : True := by
  have r := h.1 m0
  have := (r 0).1 rfl rfl
  have := (r 31).2.1 rfl (by decide)
  have := (r 0xff).2.2.1 rfl
  have := (r 0xe0).2.2.2.1 9 false [.held 8 false] rfl rfl
  have := (r 0xe3).2.2.2.2 rfl (fun _ _ _ h => nomatch h)
  have w := h.2.1 m0
  have := (w 31 7 true).1 rfl (by decide)
  have := (w 0 7 true).2.1 rfl rfl
  have := (w 0xff 7 true).2.2.1 rfl
  have := (w 0xe4 7 true).2.2.2.1 rfl rfl (by decide)
  have := (h.2.1 (run stQ) 0xe4 7 true).2.2.2.2.1 rfl rfl (by decide)
  have := ((h.2.1 (run stD) 0xe4 7 true).2.2.2.2.2 _ _ rfl rfl rfl rfl).1 rfl rfl
  have := ((h.2.1 (run stD) 0xe4 7 false).2.2.2.2.2 _ _ rfl rfl rfl rfl).2 (.inl rfl)
  trivial

theorem wit_scalar_frame (h : Obligations.ScalarInstructionsChangeOnlyTheirDestination) :
    Rules.onlyStrand m0 (m0.wrG 5 0x84 false).retire :=
  have := (h (.add { d := 0xe4, a := 1 }) 0xe4 [1, 0] (run stD) (nx (.add { d := 0xe4, a := 1 }) (run stD)) rfl iss goesOn
    (by decide +kernel)).2 rfl
  have := this.2.2.2.2.2.2 _ _ rfl
  (h (.add { d := 5, a := 1, b := 2 }) 5 [1, 2] m0 (m0.wrG 5 0x84 false).retire rfl iss (by rfl) rfl).1 rfl |>.1

theorem wit_local_checks (h : Obligations.LocalAccessesTrapInOrder) : True := by
  have l := fun (c : Fields → Instr) f s s1 x p hm hr =>
    h (c f) f s s1 (x, p) (0, false) (fmtW f.fmt / 8) (.inl hm) hr
  have := (l .ld { d := 5, a := 1 } (run stP) _ 0x7f true (by decide) rns rfl).1 rfl
  have := (l .ld { d := 5, a := 4 } m0 _ 0xffffffffffffffff false (by decide) rns rfl).2.1 rfl (by decide)
  have := (l .ldq { a := 3, imm := 0xfef00 } m0 _ 0x100 false (by decide) rns rfl).2.2.1 rfl rfl (by decide)
  have := (l .ld { d := 5, a := 3 } { tiles := [(0, { strands := [(0, st0)] })] } _ 0x100 false (by decide) rns rfl).2.2.2.1
    rfl (by decide +kernel)
  have := (l .stq { a := 3, imm := 1, fmt := 3 } m0 _ 0x100 false (by decide) rns rfl).2.2.2.2.1 rfl (by decide)
    (.inr (by decide)) (by decide +kernel) (by decide)
  have := (l .ld { d := 5, a := 3, imm := 0xfeef8 } m0 _ 0x100 false (by decide) rns rfl).2.2.2.2.2 (by decide)
    (.inr (by decide)) (by decide +kernel) (by decide) rfl (by decide +kernel) (fun _ h => nomatch h) rfl rfl
  have := (l .st { d := 5, a := 4 } m0 _ 0xffffffffffffffff false (by decide) rns rfl).2.1 rfl (by decide)
  have := (h (.hst { d := 0xc1, a := 3, imm := 1 }) { d := 0xc1, a := 3, imm := 1 } m0 _ (0x100, false) (0, false) 8
    (.inl (by decide)) rns rfl).2.2.2.2.1 rfl (by decide) (.inr (by decide)) (by decide +kernel) (by decide)
  have := (h (.facc { d := 1, a := 3, imm := 4 }) { d := 1, a := 3, imm := 4 } m0 _ (0x100, false) (0, false) 32
    (.inr (.inl ⟨rfl, rfl, _, _, rfl⟩)) rns rfl).2.2.2.2.1 rfl (by decide) (.inr (by decide)) (by decide +kernel)
    (by decide)
  have := (h (.amo .swap { d := 5, a := 1, c := 2 }) { d := 5, a := 1, c := 2 } (run stP) _ (0x7f, true) (0, false) 8
    (.inr (.inr ⟨_, rfl, rfl, _, _, rfl⟩)) rns rfl).1 rfl
  trivial


theorem wit_loads (h : Obligations.LoadsAndQueuesReadLocalMemory) : True := by
  have l := fun f => h.1 f m0
  have := (l { d := 5, a := 3 } _ _ (0x100, false) (0, false) rfl (by rfl) rfl).1 rns rfl
  have := (l { c := 3, a := 3 } _ m0 (0x100, false) (0, false) rfl (by rfl) rfl).2 rns (by decide)
  have := (h.2 { imm := 0x303 } m0 _).1 rns (by decide) rfl
  have := (h.2 { imm := 0x304 } m0 _).2.1 rns (by decide) rfl
  have := (h.2 { imm := 0x005 } m0 _).2.2.1 rns (by decide) rfl
  have := (h.2 { imm := 0x100 } m0 _).2.2.2 rns (by decide)
    (fun j hj => match j, hj with
      | 0, _ => ⟨9, false, rfl⟩
      | 1, _ => ⟨8, false, rfl⟩) rfl
  trivial

theorem wit_stores (h : Obligations.StoresWriteLocalMemory) : True := by
  have := ((h { d := 1, a := 3 } (run stP) _ _ (0x100, false) (0, false) (0x7f, true) rfl).1 rns rfl (by rfl)).1
    rfl rfl
  have := ((h { d := 1, a := 3 } m0 _ _ (0x100, false) (0, false) (0x7f, false) rfl).1 rns rfl (by rfl)).2
    (.inl rfl) (by rfl)
  have := ((h { a := 3 } m0 _ m0 (0x100, false) (0, false) (7, false) rfl).2 rns (by rfl)).2.1 [] rfl (.inl rfl)
    (by rfl)
  have := ((h { a := 3 } (run { st0 with sq := [(0, [(7, true)])] }) _ m0 (0x100, false) (0, false) (7, true) rfl).2
    rns (by rfl)).1 [] rfl rfl rfl
  have := ((h { a := 3, c := 1 } m0 _ m0 (0x100, false) (0, false) (7, false) rfl).2 rns (by rfl)).2.2 rfl
    (by decide) (by rfl) { ea := 0x100, bytes := 8, ppass := false, pos := 0 } rfl rfl rfl rfl
  trivial


theorem wit_store_frame (h : Obligations.StoresChangeOnlyTheBytesAtEa) : True := by
  have := h.1 m0 (poolBase - 1) [7] false rfl (by decide) (by decide)
  have := (h.2 { d := 1, a := 3 } m0 _ (nx (.st { d := 1, a := 3 }) m0) (0x100, false) (0, false) rfl
    (by decide +kernel)).1 rns goesOn
  have := (h.2 { a := 3, c := 1 } m0 _ (nx (.stq { a := 3, c := 1 }) m0) (0x100, false) (0, false) rfl
    (by decide +kernel)).2 rns goesOn
  trivial


/-! ### Witnesses: control and traps -/

/-- Memory whose line 0 of tile 0 has every slot a target. -/
def tgtMem : Memory := wrBytes [] (codeKey 0 0) (natToBytes 4 (31 * 2 ^ 10))

/-- A strand with a link, a counter at 1, and the trap frame of a repeat. -/
def stC : Strand := { st0 with g := [(1, 1), (2, 3), (5, 4)], gp := 0x40 }
def mC : State := { run stC with mem := tgtMem }

/-- The same with a trap route. -/
def mT : State :=
  { tiles := [(0, { strands := [(0, { stC with sup := true })], kernel := some 3 })],
    kernels := [(3, { trt := true, thpc := 4, asid := 5 })], ctxs := [(0, { st := 2, asid := 5 })] }

theorem wit_retire (h : Obligations.RetiringMovesTheProgramCounter) : m0.retire.st.pc = 1 := (h m0 0 rfl rfl).1

theorem wit_control (h : Obligations.ControlInstructionsTransfer) : True := by
  have c := fun f => h f mC
  have := (c { a := 1, b := 2 } mC (1, false) (3, false) 0 (by decide) rfl).1 .gt rns rfl rfl rfl
  have := this.1 rfl
  have := (c { a := 1, b := 2, imm := 4 } mC (1, false) (3, false) 0 (by decide) rfl).1 .ltu rns rfl rfl rfl
  have := this.2 rfl (by decide +kernel)
  have := (c { imm := 1 } mC (0, false) (0, false) 0 (by decide) rfl).2.1 rns (by decide +kernel)
  have := (c { d := 7, imm := 1 } mC (0, false) (0, false) 0 (by decide) rfl).2.2.1 rns (by decide +kernel)
  have := (c { a := 5 } mC (0, false) (0, false) 0 (by decide) rfl).2.2.2.1 (.jmpr { a := 5 }) (by decide) rns rfl
    (by decide +kernel)
  have := (c { a := 5 } mC (0, false) (0, false) 0 (by decide) rfl).2.2.2.1 (.ret { a := 5 }) (by decide) rns rfl
    (by decide +kernel)
  have := ((c { d := 1 } mC (0, false) (0, false) 0 (by decide) rfl).2.2.2.2.1 rns rfl).1 rfl
  have := ((c { d := 8 } mC (0, false) (0, false) 0 (by decide) rfl).2.2.2.2.1 rns rfl).2 (by decide)
    (by decide +kernel)
  have := (c {} mC (0, false) (0, false) 0 (by decide) rfl).2.2.2.2.2 rns
  trivial

theorem wit_targets (h : Obligations.TransfersAndRepeatsCheckTheirTarget) : True := by
  have := h.1 { a := 3 } m0 (.jmpr { a := 3 }) (by decide) rns rfl (.inr (.inr (.inl (by decide +kernel))))
  have := h.1 { a := 4 } m0 (.ret { a := 4 }) (by decide) rns rfl (.inl (by decide))
  have := h.1 { a := 2 } m0 (.ret { a := 2 }) (by decide) rns rfl (.inr (.inl (by decide)))
  have := h.1 { a := 2 } { run stC with mem := wrBytes [] (codeKey 0 0) (natToBytes 4 (31 * 2 ^ 10 + 3 * 2 ^ 20)) }
    (.ret { a := 2 }) (by decide) rns rfl (.inr (.inr (.inr (by decide +kernel))))
  have := (h.2 { cnt := 3 } (run { st0 with upc := 4 }) iss).1 (.inl (by decide))
  have := (h.2 { cnt := 3 } { m0 with
    mem := wrBytes [] (codeKey 0 16) (natToBytes 12 0x390000000000000000000000) } iss).2 (by decide +kernel)
  trivial

theorem wit_off (h : Obligations.PredicateOffOnlyMovesThePc) : ∃ t, exec (.add { d := 5, neg := true }) m0 = .next t :=
  have := h (.mtsr { a := 5, imm := 0x21, neg := true }) { a := 5, imm := 0x21, neg := true } (run { st0 with sup := true })
    (.inr (.inr (.inr (.inr (.inr (.inr (.inl ⟨rfl, .inl rfl⟩))))))) iss rfl rfl
  have := h (.xsend { d := 2, a := 3, scp := 1, neg := true }) { d := 2, a := 3, scp := 1, neg := true } m0
    (.inr (.inr (.inr (.inr (.inr (.inr (.inr ⟨rfl, by decide⟩))))))) iss rfl rfl
  have := h (.amo .cas { d := 5, a := 2, neg := true }) { d := 5, a := 2, neg := true } m0
    (.inr (.inr (.inr (.inr (.inl ⟨_, rfl⟩))))) iss rfl rfl
  ⟨_, h (.add { d := 5, neg := true }) { d := 5, neg := true } m0 (.inl (by decide)) iss rfl rfl⟩

theorem wit_traps (h : Obligations.TrapsEnterTheHandlerOrStopTheContext) : True := by
  have := h.1 (.brk { imm := 0xffff }) { imm := 0xffff } mT 8 (by decide) rns rfl rfl
  have := h.1 (.trap { imm := 1 }) { imm := 1 } mT 9 (by decide) rns rfl rfl
  have := h.2 { mT with kernels := [(3, { asid := 5 })] } .target 0 0 (.inl rfl) rfl
  trivial

theorem wit_decode_traps (h : Obligations.ChecksAtDecodeTrapFirst) : True := by
  have := h.1 (.tret {}) {} m0 (by decide) rfl (by decide +kernel) rfl rfl
  have := h.2 (.add { d := 0x21 }) .operandClass m0 rfl rfl rfl (by decide +kernel)
  trivial

theorem wit_trap_return (h : Obligations.TrapReturnsRestoreTheFrame) : True := by
  have := (h (.svcReturn {}) {} (run { st0 with ecause := 9 }) (by decide) rns).2.2 (by decide) (.inl rfl)
  have := (h (.tret {}) {} { run { st0 with ecause := 9, sup := true, epcw := true, epc := 4 } with mem := tgtMem }
    (by decide) rns).2.2 (by decide) (.inr (by decide +kernel))
  have := (h (.tret {}) {} (run { st0 with ecause := 9, sup := true, epcw := true, epc := 5 }) (by decide) rns).2.1
    (by decide) rfl (by decide +kernel)
  have := (h (.svcReturn {}) {} m0 (by decide) rns).1 rfl
  trivial

/-! ### Witnesses: vector and mask instructions -/

/-- A strand with lanes: v1 and v2 of integers, v3 of FP32, v4 of LN6, v5 with its block field at the top. -/
def stV : Strand :=
  { st0 with
    vl := 8,
    v := [(1, { lanes := 0x0000000500000003, tag := 1 }), (2, { lanes := 7, tag := 1, pois := 1 }),
          (3, { lanes := 0x3f800000, tag := 2 }), (4, { tag := 7, blk := 0x7f }), (5, { tag := 7, blk := 0x7f })],
    k := [(1, 5), (2, 6)] }
def mV : State := run stV

theorem tag {f : Fields} {v : VSrc} (h : v.x.tag = f.fmt) : Rules.fmtOk f v := .inr (.inr (.inr h))

theorem wit_lanewise (h : Obligations.LaneWiseInstructionsWriteTheirElements) : True := by
  have := h.1 { d := 0x26, a := 0x21, b := 0x22, fmt := 1 } mV (.vadd { d := 0x26, a := 0x21, b := 0x22, fmt := 1 })
    _ _ _ _ (.head _) iss ⟨by decide, by decide⟩ (by
      intro v hv
      rcases List.mem_cons.1 hv with rfl | hv
      · exact tag rfl
      · rcases List.mem_cons.1 hv with rfl | hv
        · exact tag rfl
        · cases hv) (fun h => nomatch h)
  have := (h.2.1 { d := 0x26, a := 0x21, b := 0x22, fmt := 1 } m0
    (.vadd { d := 0x26, a := 0x21, b := 0x22, fmt := 1 }) _ _ _ _ (.head _) iss).1 rfl
  have := (h.2.1 { d := 0x26, a := 0x21, b := 0x23, fmt := 1 } mV
    (.vadd { d := 0x26, a := 0x21, b := 0x23, fmt := 1 }) _ _ _ _ (.head _) iss).2.1 (by decide)
      ⟨_, .tail _ (.head _), by
        rintro (h | h | h | h)
        · cases h
        · cases h
        · cases h
        · exact absurd h (by decide)⟩
  have := (h.2.1 { d := 0x26, a := 0x24, b := 0x25, fmt := 7 } mV
    (.vmul { d := 0x26, a := 0x24, b := 0x25, fmt := 7 }) _ _ _ _ (.tail _ (.tail _ (.head _))) iss).2.2 (by decide)
      (by
        intro v hv
        rcases List.mem_cons.1 hv with rfl | hv
        · exact tag rfl
        · rcases List.mem_cons.1 hv with rfl | hv
          · exact tag rfl
          · cases hv) (by decide +kernel)
  have := (h.2.2 mV 0x21 [1, 2] 0 1 1 0x80 0 (by decide)).1 (by decide)
  have := (h.2.2 mV 0x21 [1, 2] 0 1 1 0x80 63 (by decide)).2.1 (by decide)
  trivial

theorem wit_lane_moves (h : Obligations.LaneMovesWriteTheirResult) : True := by
  have l := fun f x y => h f mV mV x y ⟨by decide, by decide⟩
  have z : Word × Bool := (0, false)
  have := (l { d := 0x41, a := 0x21, b := 0x22, fmt := 1 } z z).1 .eq iss (tag rfl) (tag rfl)
  have := (l { d := 0x26, a := 0x21, b := 0x22, c := 0x41, fmt := 1 } z z).2.1 iss (tag rfl) (tag rfl)
    (.inr (.inr rfl))
  have := (l { d := 0x41, a := 0x22 } z z).2.2.1 iss (.inl rfl)
  have := (l { d := 0x41, a := 0x22, imm := 1 } z z).2.2.2.1 iss rfl rfl
  have := (l { d := 0x26, a := 0x21, b := 0x22, fmt := 1 } z z).2.2.2.2.1 iss (tag rfl) (.inr (.inr rfl))
  have := (l { d := 0x26, a := 1, fmt := 1 } (0x7f, false) z).2.2.2.2.2.1 iss rfl
  have := ((l { d := 5, a := 0x21, b := 2, fmt := 1 } z (5, false)).2.2.2.2.2.2.1 iss (tag rfl) rfl).2 rfl
  have := ((l { d := 5, a := 0x21, b := 1, fmt := 1 } z (0x7f, false)).2.2.2.2.2.2.1 iss (tag rfl) rfl).1 rfl
  have := (l { d := 0x21, a := 1, b := 2, fmt := 1 } (0x7f, false) (5, false)).2.2.2.2.2.2.2.1 iss (tag rfl) rfl
  have := (l { d := 5, a := 0x23, fmt := 2 } z z).2.2.2.2.2.2.2.2.1 iss (tag rfl)
  have := (l { d := 0x24, a := 0x24, b := 2, fmt := 7, imm := 1 } z (5, false)).2.2.2.2.2.2.2.2.2 iss (tag rfl) rfl
  trivial

theorem wit_conversions (h : Obligations.VectorConversionsWriteTheirResult) : True := by
  have l := fun f c => h f mV mV c ⟨by decide, by decide⟩
  have := (l { d := 0x26, a := 0x21, fmt := 2, imm := 0x10 } (0, false)).1 iss (.inr (.inr rfl)) (by decide)
    (by decide) (by decide)
  have := (l { d := 0x26, a := 0x23, c := 2, fmt := 7, imm := 0x20 } (5, false)).2.1 iss (.inr (.inr rfl)) (.inl rfl)
    rfl (by decide)
  have := (l { d := 5, a := 0x21, fmt := 1 } (0, false)).2.2.1 .and iss (tag rfl) (fun _ => rfl)
  have := (l { d := 0x26, a := 0x23, fmt := 2 } (0, false)).2.2.2.1 .max iss (tag rfl) (fun h => nomatch h)
  have := (l { d := 0x26, a := 0x23, b := 0x23, c := 2, fmt := 2 } (5, false)).2.2.2.2.1 iss (tag rfl) (tag rfl) rfl
  have := (l { d := 0x26, a := 0x23, b := 0x24, c := 2, fmt := 2 } (5, false)).2.2.2.2.2 iss (tag rfl)
    (.inr (.inr rfl)) rfl
  trivial

theorem wit_vector_memory (h : Obligations.VectorMemoryInstructionsComplete) : True := by
  have z : Word × Bool := (0, false)
  have := (h { d := 0x21, a := 3, fmt := 1 } mV _ (0x100, false) (0, false)).1 ⟨by decide, by decide⟩ iss
    (fun h => absurd rfl h) rfl (by rfl) (by rfl)
  have := (h { d := 0x21, a := 3, fmt := 1 } mV _ (0x100, false) (0, false)).2.1 ⟨by decide, by decide⟩ iss
    (fun h => absurd rfl h) (tag rfl) rfl (by rfl) (.inr (by decide +kernel)) (by rfl)
  have := (h { a := 3 } mV _ (0x100, false) z).2.2 rns rfl (by rfl) rfl (.inr (by decide))
    (by decide +kernel) (by decide +kernel)
  trivial

theorem wit_lane_claims (h : Obligations.LaneClaimsAndMasksTakeEffect) : True := by
  have := (h.1 {} mV).1 rns rfl
  have := (h.1 { d := 5, imm := 7 } (run { stV with vreq := some (0, 0, 5) })).2.1 5 rns rfl
  have := ((h.1 { d := 5, imm := 7 } mV).2.2 rns rfl rfl rfl).1 (by decide +kernel)
  have := ((h.1 { d := 5, imm := 0x77 } { tiles := [(0, { strands := [(0, stV), (1, { st0 with vl := 8 })] })] }).2.2 rns rfl rfl rfl).2
    (by decide +kernel)
  have l := fun f x => h.2 f mV mV x (.inr (by decide))
  have := (l { d := 0x43, a := 0x41, b := 0x42 } (0, false)).1 _ (.head _) iss
  have := (l { d := 5, a := 0x41 } (0, false)).2.1 iss
  have := (l { d := 5, a := 0x42 } (0, false)).2.2.1 1 iss (by decide) (by decide +kernel) (fun _ => by decide +kernel)
  have := (l { d := 0x43, a := 0x41 } (0, false)).2.2.2.1 iss rfl rfl
  have := (l { d := 5, a := 0x41 } (0, false)).2.2.2.2.1 iss rfl rfl
  have := (l { d := 0x43, a := 2 } (5, false)).2.2.2.2.2 iss rfl rfl
  trivial

/-! ### Witnesses: the table engine -/

/-- A strand with claim 0, and its tile: m0 of block integers, m1 of plane codes, m2 of book codes, tables built from
m0. -/
def stM : Strand := { stV with claim := some 0, v := (6, { tag := 3 }) :: stV.v }
def mM : State :=
  { tiles := [(0,
      { strands := [(0, stM)], bankOn := BitVec.allOnes 64,
        m := [(0, { tag := 10 }), (1, { tag := 8, blk := 3 }), (2, { tag := 9, blk := 0 }), (3, { tag := 3 })],
        tb := [(0, { drop := false, tag := 10, sfmt := 10, src := 0 }),
               (1, { drop := false, tag := 9, sfmt := 10, mode := true, blk := 0, src := 0 })] })] }

/-- The elements of a move that pass the checks. -/
theorem elemsOk {s1 : State} {p : MovePlan} {es : List (Nat × Nat)}
    (h : (es.all fun e => !s1.rangeBad (p.at_ e.1 e.2) p.es 1) = true) :
    ∀ e ∈ es, s1.rangeBad (p.at_ e.1 e.2) p.es 1 = false := fun e he => by
  simpa using List.all_eq_true.1 h e he

theorem wit_claims (h : Obligations.ClaimInstructionsAskAndRelease) : True := by
  have q : TCmd := { instr := .azero { d := 0x80 } }
  have := (h.1 { d := 5 } mM).1 iss rfl
  have := (h.1 { d := 5 } { tiles := [(0, { strands := [(0, st0)], mwait := [3] })] }).2.1 iss rfl rfl rfl (by decide)
  have := (h.1 { d := 5 } m0).2.2.1 0 iss rfl rfl rfl rfl (by decide +kernel)
  have := (h.1 {} m0).2.2.2.1 iss rfl
  have := (h.1 {} (run { st0 with mreq := some 5 })).2.2.2.2.1 5 iss rfl rfl
  have := (h.1 {} mM).2.2.2.2.2.1 0 iss rfl rfl rfl (by decide)
  have := (h.1 {} (run { stM with tq := [{ instr := .azero { d := 0x80 } }] })).2.2.2.2.2.2.1 _ iss rfl rfl rfl
  have := (h.1 {} (run { stM with tq := List.replicate 2 { instr := .azero { d := 0x80 } } })).2.2.2.2.2.2.2 iss rfl
    (by decide)
  have := h.2 { d := 0x80 } m0 (.azero { d := 0x80 }) (by decide) iss rfl
  trivial


theorem wit_moves (h : Obligations.MovesCarryTheActiveColumns) : True := by
  have b := h.1 { d := 0x63, a := 3, fmt := 3, prd := 1 } mM _ (0x100, false) (0, false) (0, false) 0 rfl (by decide)
    rfl rfl (elemsOk (by decide +kernel)) (by rfl) (by decide +kernel) (by decide +kernel)
  have a := h.1 { d := 0x80, a := 3, fmt := 2, prd := 1 } mM _ (0x100, false) (0, false) (0, false) 0 rfl (by decide)
    rfl rfl (elemsOk (by decide +kernel)) (by rfl) (by decide +kernel) (by decide +kernel)
  have := b.1 (.mld { d := 0x63, a := 3, fmt := 3, prd := 1 }) (by decide) iss (fun _ => by decide +kernel)
  have := a.1 (.ald { d := 0x80, a := 3, fmt := 2, prd := 1 }) (by decide) iss (fun h => nomatch h)
  have := b.2.1 iss (.inr rfl) (.inr (by decide +kernel))
  have := a.2.2 iss (.inr (by decide +kernel))
  have t := fun (i : Instr) f => h.2 f mM { instr := i, x := (0x100, false), mask := 5 } 0 rfl rfl
  have := (t (.mld { d := 0x63, a := 3, fmt := 3, prd := 1 }) _).1 rfl
  have := (t (.ald { d := 0x80, a := 3, fmt := 2, prd := 1 }) _).2.1 rfl rfl
  have := ((t (.mst { d := 0x63, a := 3, fmt := 3, prd := 1 }) _).2.2 _ (.inl ⟨rfl, rfl⟩)).1
  have := ((h.2 { d := 0x80, a := 3, b := 2, fmt := 2 } mM
    { instr := .ast { d := 0x80, a := 3, b := 2, fmt := 2 }, x := (0x100, false), y := (0x100, false) } 0 rfl rfl).2.2 _
    (.inr ⟨rfl, rfl, rfl⟩)).2 rfl (by decide) (by decide)
  trivial



theorem wit_tables (h : Obligations.TableBuildsFillTheirTable) : True := by
  have i := fun f s1 z => h.1 f mM s1 0 z rfl (by decide)
  have := (i { d := 0xa0, a := 0x60, fmt := 10 } _ z0).1 iss (.inr rfl) (by rfl)
  have := (i { d := 0xa1, a := 0x60, b := 0x24, fmt := 10 } _ z0).2.1 iss (.inr rfl) (.inr rfl) (by rfl) (by rfl)
  have := (i { d := 0xa0 } mM z0).2.2 (.tdrop { d := 0xa0 }) (by decide) iss
  have := (i { d := 0x80 } mM z0).2.2 (.azero { d := 0x80 }) (by decide) iss
  have := (h.2.1 { fmt := 11 } mM mM z0 z0).1 (.inr rfl)
  have := ((h.2.1 { c := 3, fmt := 3 } mM _ (0x100, false) z0).2 (by decide) (by decide) rfl).1 (by decide)
  have := ((h.2.1 { c := 5, fmt := 3 } (run { stM with g := [(5, 0x80)] }) _ (0x80, false) z0).2 (by decide)
    (by decide) rfl).2 (by decide)
  have t := fun (i : Instr) f v => h.2.2 f mM { instr := i, v1 := v } 0 rfl
  have := (t (.tbuild { d := 0xa0, a := 0x60, fmt := 10 }) _ {}).1 rfl
  have := (t (.tbuildc { d := 0xa1, a := 0x60, b := 0x24, fmt := 10 }) _ { tag := 7, blk := 0x7f }).2.1 _ rfl (by rfl)
  have := (t (.tdrop { d := 0xa0 }) _ {}).2.2.1 rfl
  have := (t (.azero { d := 0x80 }) _ {}).2.2.2 rfl
  trivial


theorem wit_lookups (h : Obligations.LookupsAddToTheStage) : True := by
  have z : Word × Bool := (0, false)
  have i := fun f s1 x y c => h.1 f mM s1 0 x y c rfl (by decide)
  have := (i { d := 0x80, a := 0xa0, b := 0x61, c := 2, fmt := 8 } _ z z (5, false)).1 iss rfl rfl rfl
    (by decide +kernel) (.inl rfl) (.inl rfl)
  have := (i { d := 0x80, a := 0xa1, b := 0x62, fmt := 9 } mM z z z).2.1 iss rfl rfl (by decide +kernel) (.inl rfl)
    (.inl rfl)
  have := (i { d := 0x80, a := 0x26, fmt := 3 } mM z z z).2.2.1 iss (.inr (.inr rfl))
  have := (i { d := 0x80, a := 3, b := 2, fmt := 2 } _ (0x100, false) (5, false) z).2.2.2.1 iss rfl rfl
  have := (i { d := 0x26, a := 0xa0, b := 0x61, c := 2, fmt := 8 } _ z z (5, false)).2.2.2.2.1 iss rfl rfl rfl rfl
    (by decide +kernel) (.inl rfl)
  have := (i { d := 0x42, a := 0x80, b := 0x26, c := 2, fmt := 2, ef := true } _ z z (5, false)).2.2.2.2.2 iss
    (.inl rfl) rfl
  have t := fun (i : Instr) f c v => h.2 f mM { instr := i, z := (c, false), v1 := v } 0 rfl
  have a := (t (.tlook { d := 0x80, a := 0xa0, b := 0x61, c := 2, fmt := 8 }) _ 5 {}).1 rfl
  have := a.2.2.1 0 0 (by decide) (by decide) (by decide) (by decide +kernel) (by decide +kernel)
  have := (t (.tlookc { d := 0x80, a := 0xa1, b := 0x62, fmt := 9 }) _ 0 {}).2.1 rfl
  have := (t (.aflush { d := 0x80, a := 0x26, fmt := 3 }) _ 0 { tag := 3 }).2.2.1 rfl (by decide +kernel)
  have := (t (.aput { d := 0x80, a := 3, b := 2, fmt := 2 }) _ 0 {}).2.2.2.1 rfl
  have := (t (.mchk { d := 0x26, a := 0xa0, b := 0x61, c := 2, fmt := 8 }) _ 5 { tag := 3 }).2.2.2.2.1 rfl
  have := this.2.2.2.2.1 0 (by decide) (by decide +kernel)
  have := (t (.achk { d := 0x42, a := 0x80, b := 0x26, c := 2, fmt := 2, ef := true }) _ 5 {}).2.2.2.2.2 rfl (by decide)
  have := this.2.2.2.2.2.1 rfl 0 (by decide) rfl (by decide +kernel)
  trivial


theorem wit_dot (h : Obligations.RoundingsAndPlaneLookupsFollowTheReals) : True := by
  have r := fun n md => ((h.1 e4m3 true n 1 md false 1 (by decide)).1 · Nat.one_pos)
  have := (r 447 .rne (by decide)).2.1 (by decide +kernel)
  have := ((r 464 .sr (by decide)).2.2 (by decide +kernel)).2.2 rfl (.inr rfl)
  have := this.1 (.inr (by decide +kernel))
  have := ((r 449 .rdn (by decide)).2.2 (by decide +kernel)).2.1 rfl (.inr ⟨rfl, rfl⟩)
  have := h.2.1 (.fin true 3 4) 1 true 3 8 1 rfl (by decide) (by decide)
  have := (h.2.2.1 3 2 (by decide)).2 (by decide +kernel)
  have := h.2.2.2 { tag := 1 } {} 1 0 { ents := entImage (planeEnt { tag := 1 } 1 0) } 8 255 15 63 (by decide) (by decide)
    (by decide) rfl (by decide +kernel)
  trivial

/-! ### Witnesses: strands, barriers and atomics -/

theorem stop0 {s : State} (h : (s.st.pkt.isNone && s.st.pendingRegs.isEmpty) = true := by decide +kernel) :
    Rules.mayStop s := by
  simp only [Bool.and_eq_true, Option.isNone_iff_eq_none, List.isEmpty_iff] at h
  exact ⟨h.1, by simp [h.2]⟩


theorem wit_strands (h : Obligations.StrandInstructionsEndOrSuspend) : True := by
  have z : Word × Bool := (0, false)
  have := (h.1 (run { stV with vq := 1 }) 5 0 0 0 0).1.2.2.2.2.2.2.2.1 (by decide)
  have := (h.1 m0 5 0 0 0 0).1.2.2.2.2.2.2.1 rfl
  have := (h.2 {} (run { st0 with tq := [{ instr := .azero { d := 0x80 } }] }) m0 z z).1 rns rfl rfl
    (.inr (.inr ⟨rfl, _, _, rfl, rfl⟩))
  have := (h.2 {} (run { st0 with xq := [{}] }) m0 z z).1 rns rfl rfl (.inl (by decide))
  have := (h.2 {} m0 m0 z z).2.1 rns rfl rfl (by decide +kernel)
  have := (h.2 { d := 5, a := 3 } m0 _ (0x100, false) (0, false)).2.2.1 rns rfl rfl rfl (by decide +kernel)
    (by decide) stop0 (by rfl)
  have := this.1 (by decide +kernel) rfl
  have := (h.2 { d := 5, a := 3, b := 2 } m0 _ (0x100, false) (5, false)).2.2.1 rns rfl rfl rfl (by decide +kernel)
    (by decide) stop0 (by rfl)
  have := this.2 (by decide +kernel)
  have := (h.2 { imm := 0xb } m0 m0 z z).2.2.2.1 rns stop0
  have := ((h.2 { d := 5, imm := 7 } m0 m0 z z).2.2.2.2 rns).1 rfl
  have := ((h.2 { d := 5, imm := 5 } m0 m0 z z).2.2.2.2 rns).2 5 (by decide) rfl
  trivial


theorem wit_spawn (h : Obligations.SpawnCreatesARunnableStrand) : True := by
  have := (h { d := 5, a := 9, b := 2, imm := 1 } mC _ (0, false) (3, false) 0 rns rfl rfl rfl (by decide) rfl
    (by decide +kernel) (by decide +kernel)).2 1 (by decide +kernel) (by decide)
  have := (h { d := 5, a := 9, b := 2, imm := 1 } { mC with
      tiles := [(0, { strands := (List.range 64).map fun i => (i, if i = 0 then stC else {}) })] }
    _ (0, false) (3, false) 0 rns rfl rfl rfl (by decide) rfl (by decide +kernel) (by decide +kernel)).1
    (by decide +kernel)
  trivial

/-- The machine of the first strand in a pair. -/
def mPair : State := { tiles := [(0, { strands :=
  [(0, { st0 with partner := some 65, crc := 7 }),
    (65, { st0 with slot := some 1, partner := some 0, folw := true, crc := 7 })] })] }

theorem wit_barriers (h : Obligations.BarriersRegionsAndPairsTakeEffect) : True := by
  have := (h.1 { d := 5, a := 1, scp := 1, c := 0x40 } m0 _ (0x7f, false) (0, false)).1 .add rns stop0 (.inl rfl) rfl
  have := (h.1 { d := 5, a := 1, scp := 5, imm := 1 } mC _ (1, false) (0, false)).1 .max rns stop0
    (.inr (by decide +kernel)) rfl
  have := (h.1 { d := 5, scp := 5, imm := 2 } m0 m0 (0, false) (0, false)).2 rns
  have := (h.2.1 {} m0).1 rns { entry := 1, rngs := 1, pkt := 0, count := 0, mism := false } rfl rfl rfl rfl rfl rfl
  have := (h.2.1 {} (run { st0 with region := some {} })).2.1 rns
  have := ((h.2.1 { d := 5 } { tiles := [(0, { strands := [(0, st0), (1, { st0 with slot := some 1 })] })] }).2.2.1
    rns).1 (by decide +kernel)
  have := ((h.2.1 { d := 5 } m0).2.2.1 rns).2 (by decide +kernel) (by decide)
  have := (h.2.1 { d := 5 } m0).2.2.2 rns
  have p := fun i hi ha hm hw => h.2.2 { d := 5 } mPair i 65 hm (by decide +kernel) hw ha hi (by decide +kernel)
    (by decide +kernel) (by rfl) (by decide) (by rfl) (by decide) (by decide) (by decide)
  have := (p (.pair { d := 5 }) (by rfl) (by rfl) (by decide) (by decide)).1 rfl
  have := (p (.unpair { d := 5 }) (by rfl) (by rfl) (by decide) (by decide)).2.2 rfl (by decide +kernel)
    (by decide +kernel)
  have := (h.2.2 { d := 5 } { tiles := [(0, { strands := [(0, { st0 with partner := some 65, crc := 7, retired := 1 }),
    (65, { st0 with slot := some 1, partner := some 0, folw := true })] })] } (.unpair { d := 5 }) 65 (by decide)
    (by decide +kernel) (by decide) (by rfl) (by rfl) (by decide +kernel) (by decide +kernel) (by rfl) (by decide)
    (by rfl) (by decide) (by decide) (by decide)).2.1 rfl (by decide +kernel)
  trivial

theorem wit_atomics (h : Obligations.AtomicsReadModifyWrite) : True := by
  have z : Word × Bool := (0, false)
  have := (h { d := 1, a := 3, c := 2, fmt := 6 } m0 _ m0 (0x100, false) (0, false) (5, false) z).1 .cas rns rfl rfl
    rfl rfl (by decide +kernel) (by decide) okU rfl (by decide +kernel) (fun _ _ => rfl)
  have := (h { d := 2, a := 3 } m0 _ _ (0x100, false) (0, false) z (5, false)).2.1 rns rfl rfl rfl rfl rfl
    (by decide +kernel) (by decide) okU rfl (by decide +kernel)
  have := ((h { d := 2, a := 3 } m0 _ m0 (0x100, false) (0, false) z z).2.2 rns rfl okU rfl).1 rfl
  have := ((h { d := 2, a := 3, c := 1 } m0 _ m0 (0x100, false) (0, false) z z).2.2 rns rfl okU rfl).2 rfl
  trivial

/-! ### Witnesses: exchange commands -/

/-- A strand whose g3, g6 and g7 are a sync word, a local address and a length. -/
def stX : Strand := { st0 with g := [(1, 5), (2, 0x1000), (3, 0x100), (6, 0x2000), (7, 8), (8, 0x81)], lq := [] }
def mX' (st : Strand) : State := { run st with
  tt := [(5, { v := true, asid := 7 })], kernels := [(0, { asid := 7, mmask := 1 })],
  tiles := [(0, { strands := [(0, st)], bankOn := BitVec.allOnes 64, kernel := some 0 })] }
def mX : State := mX' stX

theorem wit_exchange (h : Obligations.ExchangeCommandsAreCapturedOrTrap) : True := by
  have := (h.1 { d := 3, a := 6, b := 2, c := 7, scp := 4 } mX _ _ _ (0x2000, false) (0x1000, false) (8, false) rfl
    rfl rfl rfl rfl rfl rfl rfl (fun h => nomatch h) (fun h => nomatch h) (by decide)
    (fun x hx => by
      have e : some 0x100 = some x := hx
      cases e
      exact ⟨by decide +kernel, by decide⟩)).1 _ _ (.head _) rns rfl (by decide +kernel) (by decide)
  have := ((h.1 { a := 6, b := 2, scp := 4, fmt := 4 } mX _ _ _ (0x2000, false) (0x1000, false) (0, false) rfl rfl rfl rfl
    rfl rfl rfl rfl (fun h => nomatch h) (fun h => nomatch h) (by decide) (fun x hx => by simp at hx)).2 rns rfl
    (by decide)).1 rfl (by decide +kernel) (by decide)
  have := ((h.1 { b := 2, scp := 4, ef := true, imm := 3 } mX _ _ _ (0, false) (0x1000, false) (0, false) rfl rfl rfl rfl
    rfl rfl rfl rfl (fun h => nomatch h) (fun h => nomatch h) (by decide) (fun x hx => by simp at hx)).2 rns rfl
    (by decide)).2 rfl (by decide)
  have t := fun (st : Strand) a b c (f : Fields) s1 s2 s3 i p hs ha hb hc hm =>
    h.2 f (mX' st) s1 s2 s3 a b c i p ha hb hc hm hs
  have := (t { stX with pkt := some {} } (0x2000, false) (0x1000, false) (8, false)
    { a := 6, b := 2, c := 7, scp := 4 } _ _ _ _ _ rns rfl rfl rfl (.head _)).1 rfl
  have := (t { stX with gp := 64 } (0x2000, true) (0x1000, false) (8, false)
    { a := 6, b := 2, c := 7, scp := 4 } _ _ _ _ _ rns rfl rfl rfl (.head _)).2.1 rfl rfl
  have := (t stX (0x2000, false) (0, false) (0x1000, false) { a := 6, b := 0xc0, c := 2, scp := 4 } _ _ _ _ _ rns
    rfl rfl rfl (.head _)).2.2.1 rfl rfl rfl
  have := (t { stX with g := (6, 0xfffff) :: stX.g } (0xfffff, false) (0x1000, false) (8, false)
    { a := 6, b := 2, c := 7, scp := 4 } _ _ _ _ _ rns rfl rfl rfl (.head _)).2.2.2.1 rfl rfl rfl
    ⟨_, .head _, by decide +kernel⟩
  have := (t stX (0x2000, false) (0x1000, false) (8, false) { d := 8, a := 6, b := 2, c := 7, scp := 4 } _ _ _ _ _
    rns rfl rfl rfl (.head _)).2.2.2.2.1 rfl rfl rfl (by decide +kernel) ⟨_, .head _, by decide⟩
  have := (t { stX with xq := [{}, {}] } (0x2000, false) (0x1000, false) (8, false)
    { a := 6, b := 2, c := 7, scp := 4 } _ _ _ _ _ rns rfl rfl rfl (.head _)).2.2.2.2.2 rfl rfl rfl
    (by decide +kernel) (by decide) (by decide) rfl
  trivial

theorem wit_packets (h : Obligations.PacketsAndSyncWordCommandsEnterTheQueue) : True := by
  have z : Word × Bool := (0, false)
  have := (h.1 { d := 3, a := 6, b := 2, scp := 5 } mX _ _ (0x2000, false) (0x1000, false) {} rns).1 rfl (by decide)
    (by decide) rfl rfl rfl rfl (fun _ => ⟨by decide +kernel, by decide⟩) (by decide) (.inl rfl)
  have := this.1 rfl
  have := ((h.1 { d := 3, a := 6, b := 2, scp := 5, sat := true } mX _ _ (0x2000, false) (0x1000, false) {} rns).1 rfl
    (by decide) (by decide) rfl rfl rfl rfl (fun _ => ⟨by decide +kernel, by decide⟩) (by decide) (.inl rfl)).2 rfl
    (by decide)
  have p := fun (q : XCmd) s2 (f : Fields) hr => h.1 f (mX' { stX with pkt := some q }) (mX' stX) s2
    (0, false) (0x1000, false) q hr
  have := ((p { words := List.replicate 128 (0, false) } _ { b := 2 } rns).2 rfl rfl rfl rfl rfl rfl rfl).1 (by decide)
  have := (((p {} _ { b := 2 } rns).2 rfl rfl rfl rfl rfl rfl rfl).2 (by decide) (.inl rfl)).1 rfl
  have := (((p {} _ { b := 2, sat := true } rns).2 rfl rfl rfl rfl rfl rfl rfl).2 (by decide) (.inl rfl)).2 rfl
    (by decide)
  have s := fun (f : Fields) s1 x => (h.2 f mX s1 (x, false) (0, false)).1
  have := (s { d := 1, a := 3 } _ 0x100 rfl rfl rfl (by decide)).1 rns rfl (by decide +kernel) (by decide)
  have := (s { d := 1, a := 3, c := 1 } _ 0x100 rfl rfl rfl (by decide)).2 rns (by decide +kernel) (by decide)
  have c := fun (f : Fields) s1 y => (h.2 f mX s1 (5, false) (y, false)).2
  have := ((c { a := 1 } _ 0).1 rfl rfl rfl (by decide) rfl rfl (by decide)).1 rns rfl (fun h => nomatch h)
  have := ((c { d := 9, a := 1 } _ 0).1 rfl rfl rfl (by decide) rfl rfl (by decide)).2 rns
  have := (c { d := 3, a := 1, b := 7, imm := 1 } _ 8).2 rfl rns rfl rfl rfl rfl (by decide) rfl rfl
    (fun _ => by decide) (fun _ => ⟨by decide +kernel, by decide⟩) (by decide)
  trivial

/-! ### Witnesses: system, translation and heap instructions -/

/-- A supervisor strand of a running kernel. -/
def stS : Strand := { st0 with sup := true, g := (6, 0x40) :: (8, 0x81) :: st0.g }
/-- A leaf of 1 GiB of HBM. -/
def leafG : BitVec 64 := 2 ^ 63 + 3 * 2 ^ 60 + 4 * 2 ^ 44 + 2 ^ 43 + 2 ^ 42 + 2 ^ 14
/-- Page tables whose first addresses have the leaf; the next 1 GiB is locked, then come one of heap storage, one of
another package, none, and one whose frame does not fit. -/
def walkMem : Memory :=
  let e := fun (m : Memory) (a x : Nat) => wrBytes m (hbmKey 0 a) (natToBytes 8 x)
  e (e (e (e (e (e [] (2 ^ 20) (2 ^ 63 + 4096)) 4096 leafG.toNat) 4104 (leafG.toNat + 2 ^ 40)) 4112
    (leafG.toNat + 2 ^ 39)) 4120 (leafG.toNat + 2 ^ 60)) 4136 (leafG.toNat + 1)
def mS' (st : Strand) : State :=
  { tiles := [(0, { strands := [(0, st)], bankOn := BitVec.allOnes 64, kernel := some 0 })],
    kernels := [(0, { asid := 7, heaps := 2 })], ctxs := [(3, { st := 2, asid := 7, evNext := 9, ptroot := 2 ^ 20 })] }
def mS : State := mS' stS

theorem wit_specials (h : Obligations.SpecialRegistersReadAndWrite) : True := by
  have := (h.1 { d := 5, imm := 0 } mS rns).1 rfl
  have := (h.1 { d := 5, imm := 1 } mS rns).2.1 rfl
  have := (h.1 { d := 5, imm := 2 } mS rns).2.2.1 rfl
  have := (h.1 { d := 5, imm := 3 } mS rns).2.2.2.1 rfl
  have := (h.1 { d := 5, imm := 4 } mS rns).2.2.2.2.1 rfl
  have := (h.1 { d := 5, imm := 5 } mS rns).2.2.2.2.2.1 rfl
  have := (h.1 { d := 5, imm := 6 } mS rns).2.2.2.2.2.2.1 rfl
  have := (h.1 { d := 5, imm := 7 } mS rns).2.2.2.2.2.2.2.1 rfl
  have := (h.1 { d := 5, imm := 8 } mS rns).2.2.2.2.2.2.2.2.1 rfl
  have := (h.1 { d := 5, imm := 9 } mS rns).2.2.2.2.2.2.2.2.2.1 rfl
  have := (h.1 { d := 5, imm := 0x15 } mS rns).2.2.2.2.2.2.2.2.2.2.1 5 (by decide) rfl
  have := (h.1 { d := 5, imm := 0x20 } mS rns).2.2.2.2.2.2.2.2.2.2.2.1 rfl
  have := (h.1 { d := 5, imm := 0x21 } mS rns).2.2.2.2.2.2.2.2.2.2.2.2.1 rfl
  have := (h.1 { d := 5, imm := 0x22 } mS rns).2.2.2.2.2.2.2.2.2.2.2.2.2.1 rfl
  have := (h.1 { d := 5, imm := 0x3b } mS rns).2.2.2.2.2.2.2.2.2.2.2.2.2.2 11 (by decide) rfl
  have := (h.2 { a := 6, imm := 1 } m0 m0 (0, false) iss).1 rfl (by decide) (by decide) (by decide)
  have w := fun (f : Fields) (s1 : State) (v : Word) i => h.2 f mS s1 (v, false) i
  have := ((h.2 { a := 2, imm := 0 } (mS' { stS with gp := 4 }) _ (5, true) iss).2 (.inl rfl) rfl rfl).1 rfl
  have := ((h.2 { a := 4, imm := 4 } m0 _ (0xffffffffffffffff, false) iss).2 (.inr (by decide)) rfl rfl).2.1 rfl
    (by decide)
  have := (((w { a := 0xff, imm := 0 } _ 0 iss).2 (.inl rfl) rfl rfl).2.2 rfl (by decide)).1 rfl
  have := (((w { a := 2, imm := 4 } _ 5 iss).2 (.inl rfl) rfl rfl).2.2 rfl (by decide)).2.1 rfl
  have := (((w { a := 2, imm := 8 } _ 5 iss).2 (.inl rfl) rfl rfl).2.2 rfl (by decide)).2.2.1 rfl
  have := (((w { a := 1, imm := 8 } _ 0x7f iss).2 (.inl rfl) rfl rfl).2.2 rfl (by decide)).2.2.1 rfl
  have := (((w { a := 3, imm := 8 } _ 0x100 iss).2 (.inl rfl) rfl rfl).2.2 rfl (by decide)).2.2.1 rfl (by decide)
  have := (((w { a := 6, imm := 9 } _ 0x40 iss).2 (.inl rfl) rfl rfl).2.2 rfl (by decide)).2.2.2.1 rfl
  have := (((w { a := 3, imm := 0x20 } _ 0x100 iss).2 (.inl rfl) rfl rfl).2.2 rfl (by decide)).2.2.2.2.1 rfl
  have := (((w { a := 0xff, imm := 0x21 } _ 0 iss).2 (.inl rfl) rfl rfl).2.2 rfl (by decide)).2.2.2.2.2.1 rfl
    (by decide)
  have := (((w { a := 4, imm := 0x3b } _ 0xffffffffffffffff iss).2 (.inl rfl) rfl rfl).2.2 rfl
    (by decide)).2.2.2.2.2.2.1 11 (by decide) rfl
  have := (((w { a := 0xff, imm := 7 } _ 0 iss).2 (.inl rfl) rfl rfl).2.2 rfl (by decide)).2.2.2.2.2.2.2
    (.inr (.inr (.inr (.inr (.inr (.inl rfl))))))
  trivial

theorem wit_service (h : Obligations.ServiceParkHaltAndLaunchTakeEffect) : True := by
  have := (h.1 { d := 5, a := 2, imm := 1 } mS _ (5, false)).1 rns rfl rfl
  have := (h.1 { d := 5, a := 2, imm := 0xffff } (mS' { stS with gp := 4 }) _ (5, true)).2.1 rns rfl rfl
  have := (h.1 {} mS mS (0, false)).2.2.1 rns stop0 rfl
  have := (h.1 { imm := 0xffff } mS mS (0, false)).2.2.2 3 rns (by decide +kernel)
  have := (h.2 { d := 5, a := 3, b := 1 } { mS with kq := [(3, { size := 1 })] } _ (0x100, false) (0x7f, false) rns
    rfl rfl rfl okU (by decide +kernel) rfl).1 (by decide +kernel)
  have := (h.2 { d := 5, a := 3 } { mS with kq := [(0, { size := 2 })] } _ (0x100, false) (0, false) rns
    rfl rfl rfl okU (by decide +kernel) rfl).2 (by decide +kernel)
  trivial

/-- A machine with a command that uses a translation. -/
def mU' (st : Strand) : State := { mS with
  tiles := [(0, { strands := [(0, st)], kernel := some 0, xact := [{ cmd := { no := 4 }, pages := [{}] }] })] }
def mU : State := mU' stS

/-- A walker's machine. -/
def mW : State := { mS with mem := walkMem }

theorem wit_translation (h : Obligations.TranslationInstructionsTakeEffect) : True := by
  have := (h.1 { scp := 5 } mS mS z0 z0 z0).1 rns
  have := this.1 (by decide +kernel)
  have := (h.1 { scp := 5 } (mS' { stS with vq := 1 }) mS z0 z0 z0).1 rns
  have := this.2.1 (by decide +kernel) rfl (by decide)
  have := (h.1 { scp := 5 } (mS' { stS with vq := 1, fence := some 5 }) mS z0 z0 z0).1 rns
  have := this.2.2 (by decide +kernel) rfl
  have := ((h.1 { a := 3, b := 2, scp := 2 } mS _ (0x100, false) (5, false) z0).2.1 _ _ (.inl ⟨rfl, rfl, rfl, rfl, rfl⟩)
    rns rfl).1 (by decide +kernel)
  have := ((h.1 { b := 2, scp := 3 } mS _ z0 (5, false) z0).2.1 _ _ (.inr (.inl ⟨rfl, rfl, rfl, rfl⟩))
    rns rfl).1 (by decide +kernel)
  have := ((h.1 { scp := 5 } mU _ z0 z0 z0).2.1 _ _ (.inr (.inr ⟨rfl, rfl, rfl⟩))
    rns rfl).2 (by decide +kernel) (by decide)
  have w := fun (s : State) hr => (h.1 { scp := 5 } s s z0 z0 z0).2.2.1 (.tlbinvAll { scp := 5 }) [(0, 4)] (by decide) hr
  have := (w (mS' { stS with tlbinv := some [(0, 4)] }) rns rfl).1 (by decide +kernel)
  have := (w (mU' { stS with tlbinv := some [(0, 4)] }) rns rfl).2 (by decide +kernel)
  have := (h.1 { d := 5, a := 3 } mW _ (0x100, false) z0 z0).2.2.2.1 rns (.inl rfl) rfl rfl rfl
  have := this.2 (by decide +kernel)
  have := this.1 leafG 3 (hbmKey 0 4096) (by decide +kernel)
  have := (h.1 { d := 5, a := 3, b := 2 } mW _ (0x100, false) (5, false) z0).2.2.2.1 rns (.inr rfl) rfl rfl rfl
  have := (this.2 (by decide +kernel)).2 1 0 4 (by decide +kernel)
  have := ((h.1 { d := 6, a := 2 } mS _ (5, false) z0 z0).2.2.2.2.1 rns rfl rfl).1 rfl
  have := ((h.1 { d := 6, a := 2 } { mS with groups := [(5, { fbuf := [{ asid := 7 }] })] } _ (5, false) z0
    z0).2.2.2.2.1 rns rfl rfl).2 _ _ rfl
  have := (h.1 { a := 2, imm := 1 } mS _ (5, false) z0 z0).2.2.2.2.2.1 rns rfl rfl
  have := (h.1 { d := 5, a := 3, b := 4, c := 8, imm := 0x11 } mW _ (0x100, false) (0xffffffffffffffff, false)
    (0x81, false)).2.2.2.2.2.2 rns rfl rfl rfl rfl (fun w e => by cases e; decide +kernel)
  have := (h.2 mW 7 (4 * 2 ^ 30) 0 none).1 1 0 3 (by decide +kernel)
  have l := fun va e key hw => (h.2 mW 7 va leafG none).2 e 3 key hw
  have := (l (2 ^ 30) (leafG + 2 ^ 40) (hbmKey 0 4104) (by decide +kernel)).2.1 (by decide +kernel) (.inl (by decide))
  have := (l (2 ^ 31) (leafG + 2 ^ 39) (hbmKey 0 4112) (by decide +kernel)).2.2.1 (by decide +kernel)
    (by decide +kernel) (by decide)
  have := (l (3 * 2 ^ 30) (leafG + 2 ^ 60) (hbmKey 0 4120) (by decide +kernel)).2.2.2.1 (by decide +kernel)
    (by decide +kernel) (by decide) (by decide +kernel)
  have := (l (5 * 2 ^ 30) (leafG + 1) (hbmKey 0 4136) (by decide +kernel)).1 (by decide +kernel)
  have := ((h.2 { mW with chervil := (List.range 32).map fun i => (i, .compact 0 [] none) } 7 0 leafG none).2 leafG 3
    (hbmKey 0 4096) (by decide +kernel)).2.2.2.2.1 (by decide +kernel) (by decide +kernel) (by decide)
    (by decide +kernel) (by decide +kernel)
  have := (l 0 leafG (hbmKey 0 4096) (by decide +kernel)).2.2.2.2.2 0 (by decide +kernel) (by decide +kernel)
    (by decide) (by decide +kernel) (by decide +kernel)
  trivial

/-! A heap region with a free entry, live ones, one fully pinned, one pinned once and one dead. -/

/-- References to objects of the region, and values that name none. -/
def stH : Strand := { stS with
  h := [(0, { val := mkRef false 1 1 5 }), (1, { val := mkRef false 1 2 5 }), (2, { val := mkRef false 1 3 5 }),
        (3, { val := 5 }), (4, { val := mkRef false 1 1 5 ||| 2 ^ 60 }), (5, { val := mkRef false 2 1 5 })] }
/-- The entries. -/
def heapMem : Memory :=
  let e := fun (m : Memory) (n : Nat) (x : HEnt) => wrBytes m (hbmKey 0 (2 ^ 16 + 32 * n)) x.bytes
  let p : Word := 3 * 2 ^ 61 + 2 ^ 30
  e (e (e (e [] 0 { gen := 1, w1 := 0xffffffff }) 1 { st := 1, gen := 5, w1 := p, size := 64 }) 2
    { st := 1, pin := 4095, gen := 5, w1 := p + 4096, size := 64 }) 3 { st := 1, pin := 1, gen := 5, w1 := p + 8192 }
def mH' (st : Strand) : State := { mS' st with
  mem := heapMem, heaps := [(1, { asid := 7, v := true, tt := 3, nobj := 4, otbase := 2 ^ 16, abase := 2 ^ 30,
                                  next := 3, asize := 4 })] }
def mH : State := mH' stH
/-- The same with a register that holds the region's number, and one request slot free. -/
def mH9 : State := { mH' { stH with g := (9, 1) :: stH.g } with
  chervil := (List.range 31).map fun i => (i, .move {}) }

theorem wit_references (h : Obligations.ReferenceInstructionsTakeEffect) : True := by
  have := ((h { d := 0xc6, a := 3 } mH _ (0x100, false) (0, false)).1 rfl okU rfl).1 rns
  have := ((h { d := 0xc6, a := 3, b := 0xff, imm := 8 } mH _ (0x100, false) (0, false)).1 rfl okU rfl).1 rns
  have := ((h { d := 0xc0, a := 3 } mH _ (0x100, false) (0, false)).1 rfl okU rfl).2 rns (.inl rfl)
  have := (h { d := 0xcf, a := 0xc0 } mH mH z0 z0).2.1 rns
  have := this.1 rfl rfl
  have := (h { d := 5, a := 0xc0 } mH mH z0 z0).2.1 rns
  have := this.2.1 rfl rfl
  have := ((h { d := 0xcf, a := 4 } mH _ (0xffffffffffffffff, false) z0).2.1 rns).2.2 rfl rfl
  have := ((h { d := 5, a := 0xc0, b := 0xc4 } mH mH z0 z0).2.2.1 rns rfl rfl).1 (by decide +kernel)
  have := ((h { d := 5, a := 0xc0, b := 0xc3 } mH mH z0 z0).2.2.1 rns rfl rfl).2.1 (by decide +kernel)
    (.inr (by decide))
  have := ((h { d := 5, a := 0xc0, b := 0xc1 } mH mH z0 z0).2.2.1 rns rfl rfl).2.2.1 (mkRef false 1 1 5)
    { st := 1, gen := 5, w1 := 3 * 2 ^ 61 + 2 ^ 30, size := 64 } (mkRef false 1 2 5)
    { st := 1, pin := 4095, gen := 5, w1 := 3 * 2 ^ 61 + 2 ^ 30 + 4096, size := 64 } (by decide +kernel)
    (by decide +kernel) (by decide +kernel) (by decide +kernel) (by decide +kernel)
  have := ((h { d := 5, a := 0xc0, b := 0xc5 } mH mH z0 z0).2.2.1 rns rfl rfl).2.2.2 (by decide +kernel)
    (by decide +kernel) (by decide +kernel) ⟨_, _, .inr rfl⟩
  have s := ((h { d := 6, a := 0xc5 } mH mH z0 z0).2.2.2 rfl).1 1 (by decide +kernel)
  have := s.1 rns
  have := ((h { d := 6, a := 0xc3 } mH mH z0 z0).2.2.2 rfl).1 7 (by decide +kernel)
  have := this.2 rns
  have a := ((h { d := 6, a := 0xc0 } mH mH z0 z0).2.2.2 rfl).2 (mkRef false 1 1 5)
    { st := 1, gen := 5, w1 := 3 * 2 ^ 61 + 2 ^ 30, size := 64 } (by decide +kernel)
  have := a.2.1 rns rfl (by decide) rfl (by decide +kernel)
  have := a.2.2.1 rns rfl
  have b := ((h { d := 6, a := 0xc1 } mH mH z0 z0).2.2.2 rfl).2 (mkRef false 1 2 5)
    { st := 1, pin := 4095, gen := 5, w1 := 3 * 2 ^ 61 + 2 ^ 30 + 4096, size := 64 } (by decide +kernel)
  have := b.1 rns rfl rfl
  have := b.2.2.2 rns (by decide)
  trivial

theorem wit_objects (h : Obligations.ObjectInstructionsTakeEffect) : True := by
  have al := fun (f : Fields) (s s1 : State) x y hr h2 => (h f s s1 (x, false) (y, false)).1 hr h2 rfl rfl
  have := (al { d := 0xc6, a := 3, b := 2 } mH _ 0x100 5 rns rfl).1 (by decide +kernel)
  have := (al { d := 0xc6, b := 1 } { mH with
    heaps := [(63, { v := true, nobj := 1, asize := 1, otbase := 2 ^ 16 })] } _ 0 0x7f rns rfl).2.1 (by decide +kernel) (by decide)
  have := (al { d := 0xc6, a := 4, b := 1 } { mH with
    heaps := [(63, { v := true, nobj := 1, asize := 1, otbase := 2 ^ 16 })] } _ 0xffffffffffffffff 0x7f rns
    rfl).2.2.1 (by decide +kernel) (by decide) (by decide +kernel)
  have := (al { d := 0xc6, a := 3, b := 1 } { mH with
    heaps := [(63, { v := true, tt := 3, nobj := 1, asize := 1, otbase := 2 ^ 16 })] } _ 0x100 0x7f rns
    rfl).2.2.2 0 _ (by decide +kernel) (by decide) rfl
  have := (((h { d := 6, a := 0xc5, imm := 1 } mH mH z0 z0).2.1 rfl).1 1 (by decide +kernel)).1 rns
  have := (((h { d := 6, a := 0xc5, imm := 2 } mH mH z0 z0).2.1 rfl).1 1 (by decide +kernel)).2 rns
  have := (((h { d := 6, a := 0xc0, imm := 2 } mH mH z0 z0).2.1 rfl).2.1 (mkRef false 1 1 5)
    { st := 1, gen := 5, w1 := 3 * 2 ^ 61 + 2 ^ 30, size := 64 } (by decide +kernel)).1 rns
  have := (((h { d := 6, a := 0xc0, imm := 1 } mH mH z0 z0).2.1 rfl).2.1 (mkRef false 1 1 5)
    { st := 1, gen := 5, w1 := 3 * 2 ^ 61 + 2 ^ 30, size := 64 } (by decide +kernel)).2.2.2.2 rns (by decide) rfl
    (.inl rfl)
  have := (((h { d := 6, a := 0xc4, imm := 1 } mH mH z0 z0).2.1 rfl).2.1 (mkRef false 1 1 5 ||| 2 ^ 60)
    { st := 1, gen := 5, w1 := 3 * 2 ^ 61 + 2 ^ 30, size := 64 } (by decide +kernel)).2.1 rns (by decide)
  have := (((h { d := 6, a := 0xc2, imm := 1 } mH mH z0 z0).2.1 rfl).2.1 (mkRef false 1 3 5)
    { st := 1, pin := 1, gen := 5, w1 := 3 * 2 ^ 61 + 2 ^ 30 + 8192 } (by decide +kernel)).2.2.1 rns (by decide)
    (by decide)
  have mv := fun (a : BitVec 8) y hr h2 hn =>
    ((h { d := 0xc6, a := a, b := 9, imm := 3 } mH9 mH9 z0 (y, false)).2.1 h2).2.2 hn hr rfl
  have := (mv 0xc0 1 rfl rfl rns).1 (mkRef false 1 1 5) { st := 1, gen := 5, w1 := 3 * 2 ^ 61 + 2 ^ 30, size := 64 }
    (by decide +kernel)
  have := ((mv 0xc3 1 rfl rfl rns).2 7 (by decide +kernel)).2 (by decide)
  have c := fun (n : BitVec 32) (b : BitVec 8) (s : State) (y : Word) hr =>
    (h { d := 5, b := b, imm := n } s s z0 (y, false)).2.2 hr rfl
  have := ((c 4 2 mH 5 rfl).1 rns).1 (by decide +kernel)
  have := ((c 4 9 mH9 1 rfl).1 rns).2.2.2 31 (by decide +kernel) (by decide +kernel) rfl (by decide +kernel)
  have := ((c 4 9 { mH9 with chervil := [(31, .compact 1 [] none)] } 1 rfl).1 rns).2.1 (by decide +kernel)
    (.inl (by decide +kernel))
  have := ((c 5 2 mH 5 rfl).2 rns).1 (by decide +kernel)
  have := ((c 5 9 mH9 1 rfl).2 rns).2 (by decide +kernel) rfl
  trivial
/-! ### Witnesses: steps of a tile -/

/-- A machine with one tile of given strands. -/
def tl (ss : SMap Strand) (t : Tile := {}) : State := { tiles := [(0, { t with strands := ss })] }

theorem wit_issue_cycle (h : Obligations.IssueCyclesChooseTheNextReadySlot) : True := by
  have := (h (tl [(0, { st0 with pri := 6 })] { cr := [(0, 1)] }) 0).1 0 rfl (by decide) (by decide +kernel)
    (fun j hj => absurd hj (by omega))
  have := (h (tl [(9, { st0 with slot := some 6 })]) 0).1 6 rfl (by decide) (by decide +kernel) (by decide +kernel)
  have := (h (tl [(0, st0)] { bonus := true, issT := 0 }) 0).2.1 rfl (by decide +kernel)
  have := (h (tl [(0, { st0 with stall := some {} })]) 0).2.2 (by decide +kernel) (by decide)
  trivial

theorem wit_grants (h : Obligations.GrantsAndWindowsServeTheirClaimants) : True := by
  have := (h (tl []) 0).1 (by decide +kernel)
  have := (h (tl [(0, { st0 with vreq := some (8, 8, 5) })] { vwait := [0] }) 0).2.1 0 8 8 5 [] rfl rfl
    (by decide +kernel)
  have := (h (tl []) 0).2.2.1 (by decide +kernel)
  have := (h (tl [(0, { st0 with mreq := some 5 }), (1, { claim := some 0 })] { mwait := [0] }) 0).2.2.2.1 0 1 5 [] rfl
    (by decide +kernel) rfl
  have := ((h (tl []) 0).2.2.2.2.1).1 rfl
  have v := fun ss t => ((h (tl ss t) 0).2.2.2.2.1).2
  have := ((v [(0, { st0 with vl := 8, vq := 5, vage := 35 }),
      (1, { st0 with slot := some 1, vl := 8, vq := 1, vage := 36 })] {}).1 (by decide +kernel)).2 (by decide +kernel)
    (by decide +kernel)
  have := ((v [(0, { st0 with vl := 8, vq := 5, vage := 35, vc := 1 }),
      (1, { st0 with slot := some 1, vl := 8, vq := 1, vage := 35 })] {}).1 (by decide +kernel)).2 (by decide +kernel)
    (by decide +kernel)
  have := ((v [(0, { st0 with vl := 8, vq := 5 })] { vwin := some (0, 3) }).1 (by decide +kernel)).1 0 3
    { st0 with vl := 8, vq := 5 } rfl (by decide +kernel)
  have := (v [(0, { st0 with vl := 8, vq := 1, leaving := true })] {}).2 0 _ rfl rfl rfl rfl (by decide +kernel)
  have := ((h (tl []) 0).2.2.2.2.2).1 rfl
  have := ((h (tl [(0, { st0 with claim := some 0, tq := List.replicate 2 { instr := .azero { d := 0x80 } } }),
      (1, { st0 with slot := some 1, claim := some 1, tq := [{ instr := .azero { d := 0x80 } }] })] { tlast := [0] })
    0).2.2.2.2.2).2 (by decide +kernel) (by decide +kernel) (by decide +kernel)
  trivial

theorem wit_queues (h : Obligations.QueuesRecordsAndWaitsGoOn) : True := by
  have w := fun (st : Strand) (t : Tile) => h (tl [(0, st)] t) 0 0
  have := (w { st0 with lq := [(7, [.held 1 false, .load 5 true, .load 6 false])] } {}).1 7 5 true [.held 1 false]
    [.load 6 false] rfl (by simp) (by decide +kernel)
  have := (w { st0 with hold := 4095 } {}).2.1 (by decide +kernel) (by decide +kernel)
  have := (w { st0 with hold := 4096 } {}).2.2.1 (by decide +kernel) (by decide +kernel) (.inl (by decide +kernel))
    (by decide +kernel)
  have := (w st0 {}).2.2.2.1 rfl
  have := (w { st0 with pkt := some {}, pktStop := some 4096 } {}).2.2.2.2.1 (by decide +kernel) (by decide +kernel)
    (by decide +kernel)
  have := (w { kind := 3, gen := 0x80000001, swa := 5, resume := [(5, 0, false)] } {}).2.2.2.2.2.1 _ rfl rfl
    (by decide +kernel)
  have := (w { kind := 3, gen := 0x80000000, swa := 5 } {}).2.2.2.2.2.2.1 rfl (by decide +kernel)
  have := (w { kind := 5, scp := 2, xq := [{}] } {}).2.2.2.2.2.2.2.1 rfl (by decide +kernel)
  have := (w { kind := 1 } { ready := [0] }).2.2.2.2.2.2.2.2.1 0 0 [] rfl (by simp) rfl (by decide +kernel) rfl
    (by decide +kernel) rfl (by decide +kernel) rfl rfl
  have := (w { kind := 1, back := some 3 } { ready := [0] }).2.2.2.2.2.2.2.2.1 3 0 [] rfl (by simp) rfl
    (by decide +kernel) (by decide +kernel) (by decide +kernel) rfl (by decide +kernel) rfl rfl
  have := (w st0 {}).2.2.2.2.2.2.2.2.2.1 (.inl (fun _ h => nomatch h))
  have := (w st0 { bankWaking := BitVec.allOnes 64 }).2.2.2.2.2.2.2.2.2.2.1 63 (by decide) (by decide +kernel)
  have := (w { st0 with tlbinv := some [(0, 4)] } {}).2.2.2.2.2.2.2.2.2.2.2.1 [(0, 4)] rfl (by decide +kernel)
  have := (w { st0 with tlbinv := some [(0, 4)] } { xact := [{ cmd := { no := 4 }, pages := [{}] }] }
    ).2.2.2.2.2.2.2.2.2.2.2.2.1 [(0, 4)] rfl (by decide +kernel)
  have := (w { st0 with fence := some 5 } {}).2.2.2.2.2.2.2.2.2.2.2.2.2.1 5 rfl (by decide +kernel)
  have := (w { st0 with fence := some 1, vq := 1 } {}).2.2.2.2.2.2.2.2.2.2.2.2.2.2.1 1 rfl (by decide +kernel)
  have := (w st0 {}).2.2.2.2.2.2.2.2.2.2.2.2.2.2.2.1 3 (by decide +kernel) (fun q _ e => by
    have n : ((tl [(0, st0)]).tileAt 0).rebuildDue = none := by decide +kernel
    exact nomatch n ▸ e)
  have := (w { st0 with claim := some 1, tq := [{ instr := .tlook { a := 0xa1 } }] } {}).2.2.2.2.2.2.2.2.2.2.2.2.2.2.2.2
    3 (by decide +kernel)
  trivial

theorem wit_parks (h : Obligations.ParksFreezesAndInjectionsTakeEffect) : True := by
  have := (h (tl [(0, { st0 with partner := some 65, retired := 1024, crc := 5 }),
    (65, { st0 with partner := some 0, folw := true, retired := 1024, crc := 5 })]) 0 0 0).1 65 (by decide)
    (by decide +kernel) rfl (by decide +kernel) (by decide +kernel) (by decide +kernel)
  have := (h (tl [(0, { st0 with retired := 1023 })]) 0 0 0).2.1 (by decide +kernel)
  have := (h (tl [(0, { kind := 3 })] { parkt := 0x100000005, parkCnt := 5 }) 0 0 0).2.2.1 (by decide +kernel)
    (by decide +kernel) (by decide +kernel) rfl rfl
  have := (h m0 0 0 0).2.2.2.1 rfl
  have := ((h m0 0 0 0).2.2.2.2.1 ⟨true, 0, 5⟩).1 (.inl (by decide))
  have := ((h m0 0 0 0).2.2.2.2.1 ⟨false, 7, 1⟩).1 (.inr ⟨rfl, by decide +kernel⟩)
  have := ((h m0 0 0 0).2.2.2.2.1 ⟨true, 0, 1⟩).2 (by decide) (.inl rfl) (.inl rfl)
  have := (h (tl [(0, { st0 with vq := 2 })] { freezeReq := true }) 0 0 0).2.2.2.2.2.1 rfl rfl (by decide +kernel)
  have := (h m0 0 0 0).2.2.2.2.2.2.1 (.inl rfl)
  have e := fun x => (h m0 0 0 x).2.2.2.2.2.2.2.1
  have := ((e 0x1000000000000001) _ _ (.head _)).2.1 (by decide) (by decide) (by decide)
  have := ((e 0x2000000000000001) _ _ (.tail _ (.head _))).2.1 (by decide) (by decide) (by decide)
  have := ((e 0x3000000000000001) _ _ (.tail _ (.tail _ (.head _)))).2.1 (by decide) (by decide) (by decide)
  have := ((e 0x4000000000000001) _ _ (.tail _ (.tail _ (.tail _ (.head _))))).2.1 (by decide) (by decide)
    (by decide)
  have := ((e 0x5000000000000001) _ _ (.tail _ (.tail _ (.tail _ (.tail _ (.head _)))))).2.1 (by decide) (by decide)
    (by decide)
  have := ((e 0x1000000000000005) _ _ (.head _)).1 (by decide) (by decide) (by decide)
  have := ((e 5) _ _ (.head _)).2.2 (.inl (by decide))
  have d := fun x => (h m0 0 0 x).2.2.2.2.2.2.2.2
  have := (d 4).1 rfl (by decide)
  have := (d 2).2.1 rfl (by decide)
  have := (d 1).2.2 rfl
  trivial
/-! ### Witnesses: collectives, the step log and the port -/

/-- Leaves of 64 KiB of die 0's memory and of HBM, the first locked; one of another package's HBM. -/
def lfO : BitVec 64 := 2 ^ 63 + 3 * 2 ^ 60 + 2 ^ 44 + 2 ^ 43 + 2 ^ 42 + 2 ^ 40
def lfN : BitVec 64 := lfO + 5
def lfP : BitVec 64 := 2 ^ 63 + 4 * 2 ^ 60 + 2 ^ 44 + 2 ^ 43 + 2 ^ 42 + 2 ^ 23
def mgO : Migr := { asid := 7, va := 2 ^ 16, leafKey := hbmKey 0 (2 ^ 24), old := lfO, new := lfN, cur := 15 }

/-- A machine with entry 8191 of the tile table. -/
def mE (e : TtEntry) : State := { tt := [(8191, e)] }
/-- A running firing of two members, the own one slot 0. -/
def eR : TtEntry := { running := true, peers := 3, eff := 3, len := 32, missing := [0, 1], rdyc := 0, nrdy := 1 }
def gB : Segment :=
  { entry := 8191, epoch := 0, fg := 0, src := 1, pos := 0, data := List.replicate 64 (0, false), stamp := none }

theorem wit_firings (h : Obligations.FiringsCollectReduceAndComplete) : True := by
  have := (h (mE eR) { gB with src := 2 } 0 0 0).1 (by decide +kernel)
  have a := fun e (g : Segment) hi => (h (mE e) g 0 0 0).2.1 hi
  have := (a { eR with eff := BitVec.allOnes 256, waitSegs := (List.range 64).map fun i => { gB with src := i + 2 } } gB
    (by decide +kernel)).1 (by decide +kernel)
  have := (a eR gB (by decide +kernel)).2.1 (by decide +kernel) (by decide +kernel) (by decide +kernel)
  have := (a { eR with waitSegs := [gB] } gB (by decide +kernel)).2.2.1 (by decide +kernel) (by decide +kernel)
  have := (a eR { gB with fg := 1 } (by decide +kernel)).2.2.2.1 (by decide +kernel) (by decide +kernel)
  have := (a { eR with dupc := 255 } { gB with fg := 2 } (by decide +kernel)).2.2.2.2.1 (by decide +kernel)
    (by decide +kernel)
  have := (a eR { gB with pos := 128 } (by decide +kernel)).2.2.2.2.2.1 (by decide +kernel) (by decide +kernel)
  have := ((a eR { gB with pos := 64 } (by decide +kernel)).2.2.2.2.2.2 (by decide +kernel) (by decide +kernel) rfl
    (by decide +kernel)).2 (by decide +kernel)
  have := ((h { mE { eR with raddr := 2 ^ 16, dstX := some [mkXlate 7 (2 ^ 16) lfO] } with chervil := [(31, .migr mgO)] }
    { gB with pos := 64 } 0 0 0).2.1 (by decide +kernel)).2.2.2.2.2.2 (by decide +kernel) (by decide +kernel) rfl
    (by decide +kernel)
  have := this.1 (by decide +kernel)
  have := (h (mE eR) gB 8191 1 0).2.2.1 (by decide +kernel)
  have := (h (mE { eR with waitSegs := [gB] }) gB 8191 0 0).2.2.2.1 (by decide +kernel)
  have := (h (mE eR) gB 0 0 0).2.2.2.2.1 (.inl rfl)
  have := (h { mE { eR with missing := [] } with
    tiles := [(3, { xact := [{ cmd := { kind := .ctready, arg := 8191, no := 6 }, counted := 1 }] })] } gB 8191 0
    0).2.2.2.2.2.1 rfl rfl (by decide)
  have := (h (mE eR) gB 0 0 0).2.2.2.2.2.2.1 (by decide +kernel)
  have := (h { mE { eR with resends := [(segKey 255 gB, 3)] } with segsOut := [(255, false, gB)] } gB 8191 0 255
   ).2.2.2.2.2.2.2.1 gB (by decide +kernel) (by decide +kernel)
  have := (h { mE { eR with fg := 1, running := false, resends := [(segKey 511 gB, 4)] } with
    segsOut := [(255, true, gB)] } gB 8191 0 511).2.2.2.2.2.2.2.2 gB (by decide +kernel) (by decide +kernel)
  trivial


/-- A write of another tile of the package; an entry of the ring for its line from tile 6. -/
def wR : RemoteWrite := { tile := 0, addr := 0x100, src := 5, kind := 1, data := [(7, false), (8, true)] }
def ringW : BitVec 128 := thymeEntry 0 6 8 0 false

theorem wit_outside (h : Obligations.WritesFromOutsideReachTheirTile) : True := by
  have := ((h m0 (2 ^ 16) 8192 0 0 0 [] wR).1).1
    (fun x => absurd x.2.2.1 (by decide))
  have := ((h m0 (2 ^ 16) 8191 0 0 0 [] wR).1).2
    ⟨rfl, .inl (by decide), by decide, rfl, by decide +kernel⟩
  have := ((h m0 7 8191 0 (7 <<< 496) 0 [] wR).1).2
    ⟨rfl, .inr (by decide +kernel), by decide, rfl, by decide +kernel⟩
  have r := fun (s : State) (x : Word) (bs : List Byte) (w : RemoteWrite) => h s 0 0 0 0 x bs w
  have := (r m0 0x100000000 [] wR).2.1 (by decide)
  have := (r m0 0xffffffff [] wR).2.2.1 (by decide)
  have := (r m0 0 [] wR).2.2.2.1 (.inr (by decide))
  have := ((r { slog := { mode := 2, size := 1, wr := 4064 } } 0 (List.replicate 32 1) wR).2.2.2.2.1 rfl (by decide)
    rfl).2 (by decide) (by decide)
  have := ((r { slog := { mode := 2, lostAt := some 0 } } 0 (List.replicate 32 0) wR).2.2.2.2.1 rfl (by decide)
    rfl).1 (by decide)
  have := (r { m0 with plane := { halt := true } } 0 [] wR).2.2.2.2.2.1.1 (.inl rfl)
  have b := fun (s : State) (x : FarHome) => (r s 0 [] { wR with home := some x }).2.2.2.2.2.1.2.1 x rfl
  have := (b m0 { kern := 0, ssc5 := 3, kid := 0, key := hbmKey 0 0x1000 } rfl (by decide +kernel)).2 rfl rfl rfl
    (by decide) (by decide +kernel)
  have := (b { m0 with chervil := [(0, .migr mgO)] } { kern := 0, ssc5 := 3, kid := 0, key := (m0.frameOf lfO).1 } rfl
    (by decide +kernel)).1 (by decide +kernel)
  have a := fun s x hn hh hf hd => (r s 0 [] x).2.2.2.2.2.1.2.2 hn hh hf hd
  have := (a (tl [] { frozen := true, bankOn := BitVec.allOnes 64 }) wR rfl rfl (by decide +kernel)
    (by decide +kernel)).1 (by decide +kernel)
  have := (a m0 wR rfl rfl (by decide +kernel) (by decide +kernel)).2.1 (by decide +kernel) rfl rfl rfl
  have := (a (tl [] { trcMode := 2, trcCnt := 1, ring := [(0, ringW)], bankOn := BitVec.allOnes 64 })
    { wR with kind := 0 } rfl rfl (by decide +kernel) (by decide +kernel)).2.2.1 (by decide +kernel) (by decide)
    (by decide +kernel)
  have := (a (tl [] { heldW := List.replicate 16 { w := { wR with kind := 0 } }, bankOn := BitVec.allOnes 64 })
    { wR with kind := 0 } rfl rfl (by decide +kernel) (by decide +kernel)).2.2.2 (by decide +kernel) (by decide +kernel)
    (by decide)
  have := (r m0 3 [] wR).2.2.2.2.2.2.1 (.inl (by decide))
  have := (r m0 0x200000000 [] wR).2.2.2.2.2.2.2 (by decide)
  trivial
/-! ### Witnesses: commands, requests and walks -/

/-- A tile's engine with one active command, no. 4 of strand 0, over a page. -/
def mA' (leaf : BitVec 64) (c : XCmd) (rs : List XReq) (a : XAct) (st : Strand) : State := { mX' st with
  tiles := [(0, { strands := [(0, st)], bankOn := BitVec.allOnes 64, kernel := some 0,
                  xact := [{ a with cmd := { c with no := 4 }, reqs := rs, prep := true,
                                    pages := [{ asid := 7, leaf := leaf }] }] })] }
/-- One over 1 GiB of HBM, and one over tile SRAM. -/
def mA (c : XCmd) (rs : List XReq := []) (a : XAct := {}) (st : Strand := stX) : State := mA' leafG c rs a st
def mAs (c : XCmd) (rs : List XReq) : State := mA' (2 ^ 63 + 2 ^ 44 + 2 ^ 43 + 2 ^ 42) c rs {} stX
/-- A machine whose strand has one queued command. -/
def mQ (c : XCmd) : State := mX' { stX with xq := [c] }
theorem fQ (c : XCmd) (h : (mQ c).headReady 0 { stX with xq := [c] } = true := by decide +kernel) :
    (((mQ c).tileAt 0).strands.filter fun p => (mQ c).headReady 0 p.2) = [(0, { stX with xq := [c] })] := by
  have e : ((mQ c).tileAt 0).strands = [(0, { stX with xq := [c] })] := rfl
  simp [e, h]
def cC : XCmd := { kind := .cpy, src := .virt 0, dst := .virt 4096, len := 1 }
def cS : XCmd := { kind := .swset true, sw := some 0x100, arg := 0xffffffffffffffff }
def cT : XCmd := { kind := .ctstat, d := some 31, arg := 8191 }
def cR : XCmd := { kind := .ctarm false, sw := some 0x100, arg := 8191 }

theorem wit_engines (h : Obligations.EnginesStartAndSendCommands) : True := by
  have := (h { m0 with plane := { halt := true } } 0 4).1 (by decide +kernel)
  have := (h (tl [] { xact := List.replicate 16 {} }) 0 4).2.1 (by decide +kernel)
  have := (h (mQ cC) 0 4).2.2.1 0 _ cC [] (by decide +kernel) (by decide +kernel) (fQ cC) rfl rfl rfl
  obtain ⟨_, -, -, -, k, -⟩ := this
  obtain ⟨_, -⟩ := k (by decide) (by decide)
  have := (h (mQ cS) 0 4).2.2.1 0 _ cS [] (by decide +kernel) (by decide +kernel) (fQ cS) rfl rfl rfl
  obtain ⟨_, -, -, -, -, k, -⟩ := this
  obtain ⟨_, -⟩ := k true 0x100 rfl rfl rfl
  have := (h (mQ cT) 0 4).2.2.1 0 _ cT [] (by decide +kernel) (by decide +kernel) (fQ cT) rfl rfl rfl
  obtain ⟨_, -, -, -, -, -, k, -⟩ := this
  replace k := k 31 rfl rfl rfl rfl (by decide)
  have := (h (mQ cR) 0 4).2.2.1 0 _ cR [] (by decide +kernel) (by decide +kernel) (fQ cR) rfl rfl rfl
  obtain ⟨_, -, -, -, -, -, -, k⟩ := this
  replace k := k false rfl
  have := (h (mA { kind := .get, src := .virt 1, dst := .loc 0, len := 4096 } [] { nxt := 2047 }) 0 4).2.2.2.1 _
    rfl (by decide +kernel) rfl rfl rfl rfl rfl rfl rfl (by decide +kernel) (by decide) (by decide +kernel)
    (by decide +kernel) (by decide +kernel) rfl
    (forSome (v := 2) (by decide +kernel) (by decide +kernel))
  have := (h (mA {} [] { redir := true, srcO := some {} }) 0 4).2.2.2.2.1 _ rfl rfl
  have := (h (mA {}) 0 4).2.2.2.2.2.1 _ rfl rfl
  have := (h (mA {} [{ phase := .done }] { replay := true, counted := 2048, held := some {} }) 0 4).2.2.2.2.2.2.1 _ rfl
    rfl (by decide +kernel)
  have := (h (mA {}) 0 4).2.2.2.2.2.2.2 _ rfl rfl
  trivial

theorem wit_homes (h : Obligations.HomesPerformRequests) : True := by
  have := (h (mA { kind := .get, src := .virt 0, dst := .loc 0, len := 8 } [{ len := 8 }]) 0 4 _ _ 0
    (hbmKey 0 (2 ^ 30)) ⟨rfl, rfl, rfl, by decide, by decide +kernel, by decide +kernel⟩).1 (by decide) (by decide)
  have := (h (mA { kind := .put, src := .loc 0, dst := .virt 31, len := 2 }
    [{ len := 2, data := [(1, false), (2, true)] }]) 0 4 _ _ 0
    (hbmKey 0 (2 ^ 30 + 31)) ⟨rfl, rfl, rfl, by decide, by decide +kernel, by decide +kernel⟩).2.2.1 (by decide) (by decide) (by decide)
    (by decide +kernel) rfl
  have := (h (mAs { kind := .send, dst := .virt 31, len := 2 } [{ len := 2, data := [(1, false), (2, true)] }]) 0 4 _ _
    0 31 ⟨rfl, rfl, rfl, by decide, by decide +kernel, by decide +kernel⟩).2.2.2.1 (by decide) (by decide) ⟨rfl, rfl, rfl⟩
    (by decide +kernel) (by decide +kernel) rfl
  have := (h (mA { kind := .xop 0, src := .loc 0, dst := .virt 8, len := 8 } [{ len := 8 }]
    { block := List.replicate 16 (1, false) }) 0 4 _ _ 0 (hbmKey 0 (2 ^ 30 + 8))
    ⟨rfl, rfl, rfl, by decide, by decide +kernel, by decide +kernel⟩).2.2.2.2.1 0 rfl (by decide)
  have := (h (mA { kind := .xop 0, src := .loc 0, dst := .virt 8, len := 8 } [{ len := 8 }]
    { block := List.replicate 16 (0, false) }) 0 4 _ _ 0 (hbmKey 0 (2 ^ 30 + 8))
    ⟨rfl, rfl, rfl, by decide, by decide +kernel, by decide +kernel⟩).2.2.2.2.2.1 rfl rfl (by decide) (by decide +kernel)
    (by decide +kernel)
  have o := fun n loc blk => (h (mA { kind := .xop 0, src := .loc 0, dst := .virt 8, len := 8 } [{ len := 8 }]
    { block := List.replicate 16 (0, false) }) 0 4 _ _ 0 (hbmKey 0 (2 ^ 30 + 8))
    ⟨rfl, rfl, rfl, by decide, by decide +kernel, by decide +kernel⟩).2.2.2.2.2.2.1 n 8 loc blk
  have := (o 0 (fun _ => none) (List.replicate 72 (1, false))).1 (by decide) (by decide +kernel)
  have c := fun n loc hp => (o n loc (List.replicate 72 (0, false))).2.1 (by decide +kernel) hp
  have := (c 0 (fun _ => none) (by decide +kernel)).1 rfl
  have := (c 1 (fun _ => none) (by decide +kernel)).2.1 rfl
  have := ((c 3 (fun _ => none) (by decide +kernel)).2.2.1 16 (by decide)).2.1 (by decide +kernel)
  have := ((c 5 (fun _ => none) (by decide +kernel)).2.2.2 rfl).2.1 (.inr (.inl rfl))
  have := ((c 5 some (by decide +kernel)).2.2.2 rfl).2.2.1 _ rfl rfl (.inl (by decide +kernel)) (by decide +kernel)
  have p := (o 6 some (List.replicate 72 (0, false))).2.2 rfl
  have := p.2.2 (fun _ => 8) 0 (by decide +kernel) rfl (Nat.zero_le _) (fun i hi => absurd hi (Nat.not_lt_zero i))
  have := (this.2 8 8 0 0 rfl rfl (by decide +kernel) (by decide +kernel)).1 (by decide +kernel)
  have := (h { mA { kind := .mc, src := .virt 0, dst := .loc 0x100, len := 8, arg := 63 } [{ len := 8 }]
      with groups := [(0, { mcast := [(63, 2 ^ 63 + 1)] })] } 0 4 _ _ 0
    (hbmKey 0 (2 ^ 30)) ⟨rfl, rfl, rfl, by decide, by decide +kernel, by decide +kernel⟩).2.2.2.2.2.2.2 0x100 0 rfl rfl (by decide)
    (by decide +kernel) (by decide +kernel) (by decide +kernel) ⟨rfl, rfl, rfl⟩ (by decide +kernel)
  trivial

/-- A request whose response has arrived. -/
def rP (off : Nat) : XReq := { off := off, len := 2, phase := .performed, data := [(1, false), (2, true)] }

/-- A tile whose `xput` waits for a page whose key its context does not hold. -/
def mWp : State := { mW with
  ctxs := [(3, { st := 2, asid := 7, ptroot := 2 ^ 20, keys := [5] })], kernels := [(0, { asid := 7, phase := 1 })],
  tiles := [(0, { kernel := some 0, xact := [{ walking := true, cmd :=
    { no := 4, kind := .put, dst := .virt 0, src := .loc 0x100, len := 8 } }] })] }

theorem wit_responses (h : Obligations.ResponsesLandAndCount) : True := by
  have := (h (mA { kind := .get, dst := .loc 0x100, len := 10 } [rP 8] { wnxt := 8 }) 0 4).1 _ _ 0x100 rfl rfl rfl rfl
    (.inr ⟨rfl, rfl, rfl, by decide, .inl rfl⟩) rfl (by decide +kernel) ⟨rfl, rfl, rfl⟩
  have := (h (mA { kind := .ld, dst := .loc 0x100 } [{ len := 8, phase := .performed, data := word8 5 false }]) 0 4).1 _ _
    0x100 rfl rfl rfl rfl (.inl rfl) rfl (by decide +kernel) ⟨rfl, rfl, rfl⟩
  have := (h (mA { kind := .ldlq } [{ len := 8, phase := .performed, data := word8 5 false }] {}
    { stX with lq := [(0, [.held 1 false, .land 4, .land 5])] }) 0 4).2.1 _ _ 0 [.held 1 false] [.land 5] rfl rfl rfl rfl
    rfl (by decide +kernel) (by decide) (by decide)
  have := (h (mA {}) 0 4).2.2.1 _ rfl (by decide +kernel)
  have := (h (mA {} [{ phase := .written }]) 0 4).2.2.2.1 _ _ rfl rfl rfl
  have := (h (mA {}) 0 4).2.2.2.2.1 _ rfl (by decide +kernel)
  have := (h (mA { kind := .get, len := 2048, sw := some 0x100 } [{ phase := .done, cnt := 2048 }] { nxt := 2048 }) 0
    4).2.2.2.2.2.1 _ rfl (by decide) (by decide) rfl rfl rfl rfl rfl (by decide +kernel) (by decide +kernel)
    (fun h => nomatch h) (by decide +kernel) (forSome (v := 0x100) rfl (by decide +kernel)) rfl (by decide +kernel)
    (by decide +kernel)
  have := (h (mA { kind := .cpy, len := 2049 } [{ phase := .done, cnt := 2048 }] { nxt := 2049, wnxt := 2048 }) 0
    4).2.2.2.2.2.1 _ rfl (by decide) (by decide) rfl rfl rfl rfl rfl (by decide +kernel) (by decide +kernel)
    (fun _ => by decide +kernel) (by decide +kernel) (fun w hw => nomatch hw) rfl (by decide +kernel) (by decide +kernel)
  have := (h (mA { len := 8 } [] { counted := 8 }) 0 4).2.2.2.2.2.2.1 _ rfl (by decide) rfl
  have := ((h { mW with dies := [(0, { miss := [(63, { asid := 7, va := 5, waits := [(0, 4)] })] })] } 0
    0).2.2.2.2.2.2.2.1 0 63 _ rfl rfl rfl).1 leafG 3 (hbmKey 0 4096) (by decide +kernel) (by decide +kernel)
    (by decide +kernel)
  have := ((h { mWp with dies := [(0, { miss := [(63, { asid := 7, va := 0, waits := [(0, 4)] })] })] } 0
    0).2.2.2.2.2.2.2.1 0 63 _ rfl rfl rfl).2.1 leafG 3 (hbmKey 0 4096) (0, 4) 2 _ (by decide +kernel) (by decide +kernel) rfl
    (by decide) (by decide +kernel) rfl rfl (by decide) rfl (fun r => rfl)
  have := ((h { mW with dies := [(0, { miss := [(63, { asid := 7, va := 2 ^ 32, waits := [(0, 4)] })] })] } 0
    0).2.2.2.2.2.2.2.1 0 63 _ rfl rfl rfl).2.2 1 0 3 (0, 4) (by decide +kernel) rfl (fun b hb => nomatch hb)
    (fun r => rfl)
  have := (h m0 0 0).2.2.2.2.2.2.2.2 0 0 (.inl (by decide +kernel))
  have := (h { m0 with plane := { halt := true } } 0 0).2.2.2.2.2.2.2.2 0 0 (.inr rfl)
  trivial
/-! ### Witnesses: barriers -/

/-- A strand that stands at a barrier of a level with a share of a sum. -/
def stB (l : Nat) (x : Word) (c : BitVec 8) : Strand :=
  { st0 with slot := none, kind := 3, reached := 1#6 <<< l, synced := 1#6 <<< l, abortPc := 0x70, arrival := some { scp := l, x := x, d := 3, code := c } }
/-- Two tiles of a group whose strands stand at a barrier. -/
def mB (l : Nat) (c : BitVec 8) : State :=
  { tiles := [(0, { kernel := some 0, strands := [(0, stB l 5 0), (7, stB l 6 c)] }),
              (31, { kernel := some 0, strands := [(1, stB l 7 0), (2, { stB l 0 0 with folw := true })],
                     ssc := [(1, 9), (l, 4)] })] }
/-- The same where one strand is still in its slot and the timer has stopped it. -/
def mBx : State := { mB 2 0 with
  tiles := [(0, { kernel := some 0, strands := [(0, { st0 with abortPc := 0x70 }), (7, stB 2 6 0)] })],
  doms := [(2, { expired := true, conds := [(0x44, 0)] })] }

/-- One whose drain an expired timer ends: a command is held. -/
def mBh : State := { mBx with
  tiles := [(0, { kernel := some 0, strands := [(7, stB 2 6 0)], xact := [{ held := some {}, cmd := { len := 8 } }] })] }

/-- What `listed` says, as a check. -/
theorem lst {s : State} {l d : Nat} (h : (decide s.tiles.keys.Nodup &&
    (s.domStrands l d).all fun x => decide (s.strandAt x.1 x.2.1 = x.2.2)) = true := by decide +kernel) :
    Rules.listed s l d := by
  simpa [Rules.listed] using h
/-- A line a superstep wrote, and the barriers over it. -/
def uB : Undo := { line := hbmKey 0 64, kern := some 0, lvl := 2, sscs := [0, 0, 0, 0, 0], data := List.replicate 32 9 }
def mBu : State := { mB 2 7 with dies := [(0, { journal := [uB] })] }
/-- A group whose timer runs and whose strand has not arrived; another package's slot that is probed. -/
def mT2 : State := { tiles := [(0, { kernel := some 0, strands := [(0, st0)] })], doms := [(2, { trun := true, tmo := 1 })] }
def mP : State := { m0 with kernels := [(0, { mmask := 2 })], doms := [(5, { expired := true })] }

theorem wit_completions (h : Obligations.BarriersCompleteOrAbort) : True := by
  have := (h.1 m0 2 0).1 (by decide +kernel)
  have := (h.1 (mB 2 0) 2 0).2 (by decide +kernel) lst (by decide)
  have := (h.1 (mB 1 0) 1 31).2 (by decide +kernel) lst (by decide)
  have := (h.1 (mB 5 0) 5 0).2 (by decide +kernel) lst (by decide)
  have a := fun s l => h.2 s l 0
  have := (a (mB 2 0) 2).1 (by decide +kernel)
  have := (a mBh 2).2.1 (by decide +kernel) (by decide +kernel)
  have := (a (mB 2 7) 2).2.2.1 (by decide +kernel) (by decide +kernel) (by decide) (by decide +kernel) lst
  have := (a (mB 4 0x7f) 4).2.2.1 (by decide +kernel) (by decide +kernel) (by decide) (by decide +kernel) lst
  have := (a mBx 2).2.2.1 (by decide +kernel) (by decide +kernel) (by decide) (by decide +kernel) lst
  have := (a mBu 2).2.2.2 uB (by decide +kernel) (by decide +kernel) (by decide +kernel) (by decide) (by decide +kernel)
  trivial

/-- A tile that holds an exchange write. -/
def hW : HeldWrite := { w := { tile := 31, src := 0, addr := 0x100, kind := 0, data := [(1, false), (2, true)] } }
def mF : State := { tiles := [(31, { parkWhy := 1, heldW := [hW] })] }

theorem wit_timers (h : Obligations.TimersProbesAndFlushesTakeEffect) : True := by
  have := (h m0 2 0 1 0 true).1 (by decide +kernel)
  have := (h mT2 2 0 1 0 true).2.1 (by decide +kernel) (by decide +kernel)
    (by decide +kernel) (by decide +kernel) (by decide +kernel)
  have := (h m0 2 0 7 0 true).2.2.1 (by decide) (by decide +kernel)
  have := (h mP 2 0 1 0 true).2.2.2.1
    (by decide) (by decide +kernel) (by decide +kernel)
  have := (h m0 2 0 0 0 true).2.2.2.2.1 (by decide +kernel)
  have := (h m0 2 0 7 0 true).2.2.2.2.2.1 rfl
  have := (h mF 2 0 7 31 true).2.2.2.2.2.2 _ rfl rfl rfl rfl (Or.inl (by decide +kernel)) (by decide +kernel)
  trivial
/-! ### Witnesses: migrations and relocations -/

/-- A migration under way, a command and translations of the page. -/
def mG (m : Migr) (a : XAct) : State :=
  { mem := wrBytes [] (hbmKey 0 (15 * 4096 + 8)) [1, 2, 3], marks := [hbmKey 0 (15 * 4096 + 32)], chervil := [(31, .migr m)],
    tiles := [(5, { xact := [a] })],
    dies := [(3, { tlb := [mkXlate 7 (2 ^ 16) lfO, mkXlate 7 0 lfO, mkXlate 7 (2 ^ 16) lfN] })] }

/-- A region with moves: object 1 of region 1 to object 0 of region 2. -/
def mvO : Reloc := { rg := 1, obj := 1, rg2 := 2, obj2 := 0, old := hbmKey 0 (2 ^ 30), new := hbmKey 0 (2 ^ 31), size := 64 }
def mV' (c : Chervil) (a : XAct) : State :=
  { mem := wrByte heapMem (hbmKey 0 (2 ^ 30 + 4095)) 7, chervil := [(0, c)], tiles := [(5, { xact := [a] })],
    heaps := [(1, { asid := 7, v := true, tt := 3, nobj := 4, otbase := 2 ^ 16, abase := 2 ^ 30, next := 9, asize := 16 }),
              (2, { asid := 7, v := true, tt := 3, nobj := 1, otbase := 2 ^ 20, abase := 2 ^ 31, asize := 16 })] }
/-- Region 1 with a flip under way at its epoch. -/
def mFl (e : BitVec 16) : State := { mV' (.move {}) {} with
  heaps := [(1, { v := true, tt := 3, nobj := 4, otbase := 2 ^ 16, abase := 2 ^ 30, epoch := e, flipping := true })],
  mem := wrBytes heapMem (hbmKey 0 (2 ^ 16 + 32 * 3)) ({ st := 3, gen := 5, fep := 65535 } : HEnt).bytes }
/-- Six words of a descriptor. -/
def dW : List (BitVec 64) := [BitVec.ofNat 64 (7 * 2 ^ 48 + 5 * 2 ^ 35 + 2 ^ 34 + 3 * 2 ^ 30), 2 ^ 40, 2 ^ 33, 2 ^ 20, 2 ^ 30, 16]

theorem wit_chervil (h : Obligations.MigrationsAndRelocationsGoOn) : True := by
  have := h.1 { mG mgO {} with plane := { halt := true } } 31 1 [] rfl
  have g := fun (s : State) (i : Nat) (m : Migr) (z : s.plane.halt = false) x y => (h.2.1 s i z).1 m x y
  have := (g (mG mgO {}) 31 mgO rfl rfl rfl).1 (by decide +kernel) (by decide +kernel)
  have := (g (mG mgO {}) 31 mgO rfl rfl rfl).2.2.1 (by decide +kernel)
  have := (g (mG mgO {}) 31 mgO rfl rfl rfl).2.2.2.1 (by decide +kernel)
  have := (g (mG mgO {}) 31 mgO rfl rfl rfl).2.2.2.2.2
  have := (g (mG { mgO with cur := 16 } {}) 31 { mgO with cur := 16 } rfl rfl rfl).2.1 (by decide +kernel) (by decide +kernel) rfl
  obtain ⟨-, _, -, -, -, k⟩ := this
  have := k 3 (mkXlate 7 (2 ^ 16) lfO) (by decide +kernel) (by decide +kernel) (by decide +kernel) (by decide +kernel)
  have := (g (mG { mgO with new := lfP } {}) 31 { mgO with new := lfP } rfl rfl rfl).2.2.2.2.1 (by decide +kernel) rfl
  have := ((h.2.1 (mG { mgO with committed := true } { redir := true }) 31 rfl).2 _ rfl rfl).1 (by decide +kernel)
  have := ((h.2.1 (mG { mgO with committed := true } {}) 31 rfl).2 _ rfl rfl).2 (by decide +kernel)
  trivial

theorem wit_relocations (h : Obligations.MigrationsAndRelocationsGoOn) : True := by
  have := ((h.2.2 (mV' (.move mvO) {}) 0 1 [] rfl).1 _ rfl rfl).2.1 (by decide) (by decide)
  have := ((h.2.2 (mV' (.move { mvO with new := hbmKey 1 0 }) {}) 0 1 [] rfl).1 _ rfl rfl).1 (by decide)
  have := ((h.2.2 (mV' (.move mvO) {}) 0 1 [] rfl).1 _ rfl rfl).2.2.1 (by decide)
  have := ((h.2.2 (mV' (.move { mvO with cur := 1 }) {}) 0 1 [] rfl).1 _ rfl rfl).2.2.2.1 (by decide) (by decide)
  have := ((h.2.2 (mV' (.move mvO) {}) 0 1 [] rfl).1 _ rfl rfl).2.2.2.2
  have := ((h.2.2 (mV' (.move { mvO with committed := true }) { redir := true }) 0 1 [] rfl).2.1 _ rfl rfl).1 (by decide +kernel)
  have := ((h.2.2 (mV' (.move { mvO with committed := true }) {}) 0 1 [] rfl).2.1 _ rfl rfl).2 (by decide +kernel)
  have := (h.2.2 (mV' (.compact 1 [] none) {}) 0 1 [] rfl).2.2.1 rfl
  have := (h.2.2 (mV' (.compact 1 [3, 1] none) {}) 0 1 [] rfl).2.2.2.1 _ _ rfl
  have := ((h.2.2 (mV' (.compact 1 [3, 1] none) {}) 0 1 [] rfl).2.2.2.1 _ _ rfl).2 (by decide +kernel)
  have := (h.2.2 (mV' (.compact 1 [3, 1] none) {}) 0 1 [] rfl).2.2.2.2.1 rfl
  have := (h.2.2 (mFl 1) 0 1 [] rfl).2.2.2.2.2.1 3 rfl (by decide +kernel)
  have := (h.2.2 (mFl 0) 0 1 [] rfl).2.2.2.2.2.2.1 rfl (by decide +kernel)
  have := (h.2.2 (mFl 0) 0 64 dW rfl).2.2.2.2.2.2.2.1 (by decide)
  have := (h.2.2 (mFl 0) 0 63 [] rfl).2.2.2.2.2.2.2.1 (by decide)
  have := (h.2.2 (mFl 0) 0 63 dW rfl).2.2.2.2.2.2.2.2 (by decide) (by decide +kernel) (by decide +kernel)
  trivial
/-! ### Witnesses: launches, parks and restores -/

/-- A header: words from their offsets. Code at address 64 of the space, event queue at 4096, one group. -/
def hdrB (ws : List (Nat × Nat)) : List Byte := natToBytes 256 (ws.foldl (fun x w => x + w.2 * 2 ^ (8 * w.1)) 0)
def hdrOk : List (Nat × Nat) :=
  [(0, 1 + 2 * 2 ^ 33 + 7 * 2 ^ 48), (8, 64), (16, 4 * 2 ^ 28 + 3 * 2 ^ 14), (24, 5 * 2 ^ 7), (40, 4), (80, 2 ^ 63 + 1),
   (112, 2 ^ 32 + 5), (160, 4096), (168, 4), (176, 2 ^ 22), (192, 0xffffffffffffffff), (224, 9)]
/-- Code whose line lets transfers in at its slots 3 and 4, a record at 2^20, and the queue that holds it. -/
def codeMem (h : List (Nat × Nat)) : Memory :=
  wrBytes (wrBytes walkMem (hbmKey 0 (2 ^ 30 + 64)) (natToBytes 4 (2 ^ 13 + 2 ^ 14))) (hbmKey 0 (2 ^ 30 + 2 ^ 20)) (hdrB h)
def mL' (h : List (Nat × Nat)) (tail : Nat) (recs : List (Nat × Nat)) : State :=
  { mem := codeMem h, lq := [(2, { base := 2 ^ 20, size := 8, tail := BitVec.ofNat 16 tail, recs := recs })],
    ctxs := [(3, { st := 1, asid := 7, ptroot := 2 ^ 20, keys := [0], pcap := 2 })], tickets := [(2, 0xffffffff)] }
def mL : State := mL' hdrOk 1 [(5, 7)]
/-- The same in the kernel queue, which is the older. -/
def mLk : State := { mL' hdrOk 0 [] with kq := [(2, { base := 2 ^ 30 + 2 ^ 20, size := 8, tail := 1, recs := [(5, 7)] })] }
/-- One whose kernel waits: the own package's group 2. -/
def mLw : State := { mL' [] 0 [] with
  kernels := [(31, kernelOf (hdrB hdrOk) 5)], ctxs := [(3, { st := 2, asid := 7, ptroot := 2 ^ 20, keys := [0], pcap := 2 })] }

theorem wit_launches (h : Obligations.LaunchesEnterAndStart) : True := by
  have := (h { mL with plane := { halt := true } } 2 4 7 0).1.1 rfl
  have := (h mL 4 0 7 0).1.2.1 rfl (.inl (by decide))
  have := (h mL 2 65536 7 0).1.2.1 rfl (.inr (by decide))
  have := (h mL 2 8 7 0).1.2.2.1 rfl (by decide) (by decide) (.inr (.inr (by decide)))
  have := (h mL 2 7 7 0).1.2.2.2 rfl (by decide) (by decide) (by decide) (by decide)
  have := (h mL 2 4 7 0).1.2.2.2 rfl (by decide) (by decide) (by decide) (by decide)
  have := (h m0 2 4 7 0).2.1 (.inr (by decide +kernel))
  have := ((h mL 2 4 7 0).2.2.1 false 5 7 rfl (by decide +kernel) (by decide +kernel)).1 (by decide +kernel)
  have := ((h mLk 2 4 7 0).2.2.1 true 5 7 rfl (by decide +kernel) (by decide +kernel)).1 (by decide +kernel)
  have := ((h (mL' ((248, 1) :: hdrOk) 1 [(5, 7)]) 2 4 7 0).2.2.1 false 5 7 rfl (by decide +kernel) (by decide +kernel)).2.1
    (by decide +kernel) (by decide +kernel)
  have := ((h (mL' [(0, 2)] 1 [(5, 7)]) 2 4 7 0).2.2.1 false 5 7 rfl (by decide +kernel) (by decide +kernel)).2.2
    (by decide +kernel) (by decide +kernel)
  have := (h mL 2 4 7 31).2.2.2.1 (by decide +kernel)
  have := (h mLw 2 4 7 31).2.2.2.2 (by decide +kernel)
  trivial

/-- A kernel with one tile, which parks; a kernel of higher priority that waits. -/
def mPk (t : Tile) (k : Kernel) : State :=
  { tiles := [(31, { t with kernel := some 5 })],
    groups := [(0, { holder := some 5, parking := 2 })],
    kernels := [(5, { k with asid := 7, gmask := 1 }), (6, { gmask := 1, prio := k.prio, waitNo := 1 })],
    ctxs := [(3, { asid := 7, st := 2, nkern := 1 })], nextWait := 4 }
/-- The same with no kernel that waits. -/
def mPk1 (k : Kernel) : State := { mPk {} k with kernels := [(5, { k with asid := 7, gmask := 1 })] }
def tP : Tile := { parkWhy := 2, strands := [(0, st0), (63, { stB 2 0 0 with vq := 2 })], xact := [{ cmd := cC, counted := 1 }] }
/-- An evicted tile whose kernel may have its group again. -/
def mEv : State :=
  { saves := [{ kernel := 5, tile := 31, img := { tP with kernel := some 5, parkSt := 2 } }],
    kernels := [(5, { asid := 7, gmask := 1, phase := 1, banks := 1 })], ctxs := [(3, { asid := 7, st := 2 })] }

theorem wit_evictions (h : Obligations.ParksEvictionsAndRestoresGoOn) : True := by
  have := (h m0 0 0 0 0).1 (.inl (by decide +kernel))
  have := (h (mPk {} { phase := 1 }) 5 0 0 0).2.1 3 rfl (by decide +kernel) rfl (by decide +kernel)
  have := (h (mPk {} { phase := 1 }) 5 0 0 0).2.2.1 (by decide +kernel)
  have e := fun s tile g asid => h s 5 tile g asid
  have := (e (mPk1 { phase := 1, slice := 1 }) 0 0 0).2.2.2.1 rfl rfl (by decide) rfl (by decide +kernel)
  have := (e (mPk tP { phase := 1, slice := 1 }) 0 0 0).2.2.2.2.1 (by decide +kernel)
  have := (e (mPk tP { phase := 2 }) 31 0 0).2.2.2.2.2.1 3 (by decide +kernel)
  have := (e (mPk tP { phase := 2 }) 31 0 0).2.2.2.2.2.2.1 2 (by decide +kernel) (by decide)
  have := (e (mPk tP { phase := 2 }) 31 0 0).2.2.2.2.2.2.2.1 (by decide +kernel)
  have := (e (mPk { tP with parkSt := 1 } { phase := 2, waitNo := 2 }) 31 0 0).2.2.2.2.2.2.2.2.1 5 (by decide +kernel)
    (by decide +kernel)
  have := (e m0 31 0 0).2.2.2.2.2.2.2.2.2.1 (by decide +kernel)
  have := (e (mPk { tP with parkSt := 1, parkWhy := 1, ready := [63], restart := [cC] } { phase := 1 }) 31 0
    0).2.2.2.2.2.2.2.2.2.2.1 rfl rfl rfl (by decide +kernel) rfl (by decide +kernel) (by decide +kernel)
  have := (e mEv 31 0 0).2.2.2.2.2.2.2.2.2.2.2.1 _ rfl rfl rfl (by decide +kernel) (by decide +kernel)
    (by decide +kernel)
  have := (e mEv 31 0 8).2.2.2.2.2.2.2.2.2.2.2.2.1 (.inl (by decide +kernel))
  have := (e (mPk tP { phase := 1 }) 31 0 7).2.2.2.2.2.2.2.2.2.2.2.2.2.1 3 (by decide +kernel) rfl (by decide +kernel)
  have := (e { m0 with plane := { halt := true } } 31 0 7).2.2.2.2.2.2.2.2.2.2.2.2.2.2.1 5 rfl
  have := (e mEv 31 0 7).2.2.2.2.2.2.2.2.2.2.2.2.2.2.2 0 3 rfl (by decide +kernel) (by decide +kernel)
  trivial
/-! ### Witnesses: the plane, the links, ageing and power -/

def pl (p : Plane) : State := { mB 2 0 with plane := p, doms := [(2, { conds := [(7, 1)] }), (13, {})] }
def mPo (q : Port) : State := { m0 with ports := [(15, q)], pod := 3 }

theorem wit_votes (h : Obligations.VotesScrubsAndLinksTakeEffect) : True := by
  have := (h.1 (pl { halt := true, rsy := true }) 7).1 rfl
  have := (h.1 (pl { dis := 4 }) 4).2.1 rfl (by decide)
  have := ((h.1 (pl { time := 2 ^ 64 - 1, dsc := 65535 }) 4).2.2.1 2 rfl rfl).1 (by decide)
  have := ((h.1 (pl { upset := 2 }) 0).2.2.1 1 rfl rfl).2 (by decide)
  have := (h.1 (pl {}) 7).2.2.2.1 0 [1, 2] rfl (by decide) (.inr (by decide)) (by decide)
  have := (h.1 (pl { rsy := true, dis := 1 }) 3).2.2.2.1 1 [] rfl (by decide) (.inl rfl) (by decide)
  have := (h.1 (pl { halt := true, rsy := true }) 7).2.2.2.2.1 rfl
  have := (h.1 (pl {}) 7).2.2.2.2.2.1 rfl
  have := (h.1 (pl { rsy := true, dis := 4 }) 7).2.2.2.2.2.2.1 rfl rfl
  have := (h.1 (pl {}) 7).2.2.2.2.2.2.2.1 9 (2 ^ 47)
  have := (h.1 (pl {}) 7).2.2.2.2.2.2.2.2 2 (2 ^ 40 - 1) (.inl (by decide))
  have := (h.1 (pl {}) 7).2.2.2.2.2.2.2.2 4 (2 ^ 47 - 1) (.inr (by decide))
  have := (h.2 (mPo {}) 15 1 true).1 (.inl (by decide +kernel))
  have := (h.2 (mPo { up := true, tagFail := 15 }) 15 1 true).2.1 (by decide +kernel) rfl
  have := (h.2 (mPo { up := true, tagFail := 15 }) 15 1 false).2.1 (by decide +kernel) rfl
  have := (h.2 (mPo { up := true, tagFail := 15 }) 15 1 true).2.2.1 (by decide +kernel)
  have := (h.2 (mPo { up := true, ctr := 2 ^ 32 - 1 }) 15 1 true).2.2.2.1 (by decide +kernel) (by decide +kernel)
  have := (h.2 (mPo { up := true, tagFail := 16 }) 15 1 true).2.2.2.2.1 (by decide +kernel) rfl (by decide +kernel)
  have := (h.2 (mPo { up := true, ctrIn := 2 ^ 32 }) 15 1 true).2.2.2.2.2.1 (by decide +kernel) rfl (.inr (by decide +kernel))
  have := (h.2 (mPo {}) 16 1 true).2.2.2.2.2.2.1 (.inl (by decide))
  have := (h.2 (mPo {}) 15 2 true).2.2.2.2.2.2.1 (.inr (.inr (.inl (by decide))))
  have := (h.2 (mPo {}) 15 1 true).2.2.2.2.2.2.2.1 (by decide) (by decide) (by decide) rfl rfl
  have := (h.2 (mPo {}) 15 1 true).2.2.2.2.2.2.2.2.1 rfl
  have := (h.2 (mPo { up := true }) 15 1 true).2.2.2.2.2.2.2.2.2 rfl
  trivial

/-- A package with a group whose setting is given. -/
def mSg (g : Group) (p : Plane) : State :=
  { mB 2 0 with groups := [(0, g)], plane := p,
                tiles := [(31, { frozen := true, strands := [(0, { st0 with slot := none, vq := 3 })] })] }
/-- Margins, the first under 6 % and two that have it. -/
def mrg : SageMargin := { group := 0, cands := [(0, 0, List.replicate 16 11), (1, 10, List.replicate 16 12), (1, 0, List.replicate 16 12)] }

theorem wit_power (h : Obligations.AgeingPowerAndTemperatureTakeEffect) : True := by
  have := (h (mSg {} {}) 0).1 [(0, 0, 11), (3, 30, 5)] (by decide)
  have := (h (mSg {} {}) 0).1 [] (by decide)
  have := (h (mSg {} {}) 0).2.1 (worstMargins (reportsOf [mrg] 0)) (by decide +kernel)
  have := (h (mSg {} {}) 0).2.2.1 3599 [mrg] (.inr (.inl (by decide)))
  have := (h (mSg { sagep := 8 } {}) 0).2.2.2.1 7200 [mrg] 0 (by decide) (by decide) rfl (by decide) (by decide)
  have := (h (mSg { sagep := 8, holder := some 5 } {}) 0).2.2.2.1 3600 [] 0 (by decide) (by decide) rfl (by decide) (by decide)
  have := (h (mSg {} {}) 0).2.2.2.2.1 (by decide +kernel)
  have := (h (mSg { pending := true, sagep := 0x84, holder := some 5 } {}) 0).2.2.2.2.2.1 (by decide +kernel) (by decide +kernel)
  have := (h (mSg {} { watts := List.replicate 100 9 }) 0).2.2.2.2.2.2.1 5
  have := (h (mSg {} {}) 0).2.2.2.2.2.2.2.1 [0, 104] (by decide)
  have := (h (mSg {} {}) 0).2.2.2.2.2.2.2.2.1 [0, 0, 0, 105] (by decide)
  have := (h (mSg {} { halt := true }) 0).2.2.2.2.2.2.2.2.1 [999] (by decide)
  have := (h (mSg {} { temps := [95] }) 0).2.2.2.2.2.2.2.2.2.1 (.inl (by decide +kernel))
  have := ((h (mSg {} { temps := [96] }) 31).2.2.2.2.2.2.2.2.2.2.1 (by decide +kernel) rfl).1 rfl
  have := ((h (mSg {} { temps := [96], step := 1, raised := List.range 31 }) 31).2.2.2.2.2.2.2.2.2.2.1 (by decide +kernel)
    rfl).2 (by decide) (by decide) (by decide) (by decide)
  have := (h (mSg {} { step := 1, watts := List.replicate 10 3201 }) 0).2.2.2.2.2.2.2.2.2.2.2.1 (.inr (.inl (by decide +kernel)))
  have := ((h (mSg {} { step := 1, watts := List.replicate 10 2800 }) 0).2.2.2.2.2.2.2.2.2.2.2.2 (by decide) (by decide)
    (by decide +kernel) rfl).1 rfl
  have := ((h (mSg { sagep := 5 } { step := 2, raised := [0, 5] }) 0).2.2.2.2.2.2.2.2.2.2.2.2 (by decide) (by decide)
    (by decide +kernel) rfl).2 _ _ rfl
  trivial
/-! ### Witnesses: sessions, the host link, boot and readback -/

/-- Queue pairs 5, the supervisor's, 6, bound to context 7, and 9, in error; context 7 is in entry 3. -/
def sO (c : Ctx) : State := { mS with
  mem := walkMem, plane := { boot := 6 }, ctxs := [(3, { c with asid := 7, ptroot := 2 ^ 20 })],
  qps := [(5, { st := 1, sealed := true, asid := 2 ^ 16 }), (6, { st := 1, sealed := true, asid := 7 }), (9, { st := 2 })],
  groups := [(0, { tlb := [{ asid := 7 }, { asid := 8 }] })], routes := [(255, { v := true }), (0, { st := 1 }), (4, { st := 3 })] }

theorem wit_sessions (h : Obligations.SessionCommandsReplyAndAct) : True := by
  have := (h m0 6 7 0).1 (by decide +kernel)
  have := this.1 0 true
  have g := fun (c : Ctx) (qp asid slot : Nat) => (h (sO c) qp asid slot).2 rfl
  have := (g { st := 2 } 6 65535 0).1 0 true (by decide) (by decide +kernel)
  have := (g { st := 2 } 5 65535 0).2.1 3 true 0 (by decide) (by decide +kernel) (by decide +kernel) (by decide +kernel)
  have := (g { st := 1 } 9 7 0).2.2.1 (List.replicate 65 4) 3 1 (by decide) (by decide +kernel) (by decide) (by decide +kernel)
    (by decide +kernel) (by decide +kernel)
  have := (g { st := 1, session := some 5 } 6 7 0).2.2.2.1 (List.replicate 32 4) (by decide) (by decide +kernel) (by decide +kernel)
  have := (g { st := 1, keys := [1, 2] } 6 7 0).2.2.2.2.1 3 3 (by decide +kernel) (by decide +kernel) (by decide +kernel)
    (by decide +kernel)
  have := (g { st := 1, keys := [1, 8191] } 6 7 0).2.2.2.2.2.1 3 8191 (by decide +kernel) (by decide +kernel) (by decide +kernel)
    (by decide +kernel)
  have := (g { st := 3, nkern := 0, stop := 3 } 6 7 0).2.2.2.2.2.2.1 3 (by decide +kernel) (by decide +kernel)
    (by decide +kernel) (by decide +kernel)
  have := (g { st := 3, nkern := 1, keys := [5] } 5 7 0).2.2.2.2.2.2.2.1 3 (.inr (by decide +kernel)) (by decide +kernel) (by decide +kernel)
  have := (g { st := 2, nkern := 1, keys := [5] } 6 7 0).2.2.2.2.2.2.2.1 3 (.inl (by decide +kernel)) (by decide +kernel) (by decide +kernel)
  have := (g { st := 1 } 5 0 4).2.2.2.2.2.2.2.2.1 9 (by decide) (by decide +kernel) (by decide +kernel) (by decide +kernel) rfl rfl
  have := (g { st := 1 } 5 0 255).2.2.2.2.2.2.2.2.2.1 (by decide) (by decide +kernel) (by decide +kernel) (by decide +kernel) (by decide +kernel)
  have := (g { st := 1 } 5 0 0).2.2.2.2.2.2.2.2.2.2 (by decide) (by decide +kernel) (by decide +kernel)
  trivial

/-- A packet, and an access of queue pair 6 with its own R_Key. -/
def pK (p : EthPacket) : EthPacket := { p with qp := 6, rc := true }
def eP : EthPacket := { qp := 6, opcode := 0, rc := false, ce := false, counter := 0, header := [], payload := [] }
def rQ (va : BitVec 64) (d : List Byte) (len : Nat) : RdmaRequest :=
  { qp := 6, rkey := Qp.rkey { st := 1, sealed := true, asid := 7 } 6, va := va, len := len, data := d, imm := none }
def sP (u : List EthPacket) (k : List Nat) : State := { sO { st := 1, keys := k } with
  qps := [(6, { st := 1, sealed := true, asid := 7, rate := 3, unacked := u, rxCtr := 4 })] }

/-- The same while a migration locks the page that queue pair 6 writes. -/
def sL : State := { sO { st := 1, keys := [0] } with chervil := [(0, .migr { old := leafG })] }

theorem allowed (c : Ctx) (va : BitVec 64) (d : List Byte) (len : Nat) (h : (sO c).resident 7 = true := by decide +kernel) :
    (sO c).rdmaAllowed 6 (rQ va d len).rkey = true := by
  show ((sO c).resident 7 && (Qp.rkey { st := 1, sealed := true, asid := 7 } 6 == Qp.rkey { st := 1, sealed := true, asid := 7 } 6)) = true
  simp [h]

/-- Queue pair 6 with an unsealed body, expecting a sequence number. -/
def sN (e : Nat) : State := { sP [] [] with qps := [(6, { st := 1, asid := 7, epsn := some e })] }

theorem wit_host (h : Obligations.HostPacketsActOnTheirQueuePair) : True := by
  have := (h { m0 with plane := { halt := true } } 5 (rQ 0 [] 0) eP).1 rfl
  have := (h (sP [] []) 4095 (rQ 0 [] 0) eP).2 rfl
  have := this.1 (by decide)
  have := (h (sP [] []) 6 (rQ 0 [] 0) eP).2 rfl
  have := this.2.1 rfl
  have := (h (sP [eP] []) 6 (rQ 0 [] 0) eP).2 rfl
  have := this.2.2.1 eP rfl rfl
  have := ((h m0 6 (rQ 0 [] 0) eP).2 rfl).2.2.2.1 rfl
  have := this.1 (by rfl)
  have := (((h (sO { st := 1, keys := [0] }) 6 (rQ (2 ^ 63) [1] 1) eP).2 rfl).2.2.2.1 (by decide +kernel)).2 (allowed _ _ _ _)
  have := this.1 (by decide +kernel)
  have := (((h (sO { st := 1, keys := [0] }) 6 (rQ 63 [1, 2] 64) eP).2 rfl).2.2.2.1 (by decide +kernel)).2 (allowed _ _ _ _)
  have := this.2.1 [(1, 0, hbmKey 0 (2 ^ 30 + 63)), (1, 0, hbmKey 0 (2 ^ 30 + 64))] (by decide +kernel)
  have := this.2 (by decide +kernel) rfl
  have := (((h sL 6 (rQ 64 [1, 2] 64) eP).2 rfl).2.2.2.1 (by decide +kernel)).2 (allowed { st := 1, keys := [0] } _ _ _)
  have := (this.2.1 [(2, 0, hbmKey 0 (2 ^ 30 + 64))] (by decide +kernel)).1 (by decide +kernel)
  have := (((h (sO { st := 1, keys := [0] }) 6 (rQ 64 [1, 2] 64) eP).2 rfl).2.2.2.1 (by decide +kernel)).2 (allowed _ _ _ _)
  have := this.2.2 64 0 (hbmKey 0 (2 ^ 30 + 64)) (by decide +kernel) (by decide) (by decide +kernel) (by decide)
  have := ((h (sP [] []) 6 (rQ 0 [] 0) { eP with port := 4792 }).2 rfl).2.2.2.2.1 (.inl rfl)
  have := ((h { sP [] [] with routes := [(5, { v := true, kind := true, st := 2, qpn := 6 })] } 6 (rQ 0 [] 0) eP).2
    rfl).2.2.2.2.1 (.inr rfl)
  have f := fun s p (e : s.plane.halt = false) => ((h s 6 (rQ 0 [] 0) p).2 e).2.2.2.2.2
  have := (f (sP [eP] []) eP rfl (by decide) rfl rfl rfl).1 (.inl rfl)
  have := (f (sP [eP] []) (pK { eP with opcode := 3 }) rfl (by decide) rfl rfl rfl).1 (.inr rfl)
  have := (f (sP [eP] []) (pK { eP with opcode := 0x11, header := [0x1f, 0, 0, 0] }) rfl (by decide) rfl rfl rfl).2.1 rfl rfl
    (by decide +kernel)
  have := (f (sP [eP] []) (pK { eP with opcode := 0x0a, counter := 4, payload := [7] }) rfl (by decide) rfl rfl
    rfl).2.2.1 rfl rfl rfl rfl rfl (by decide) (by decide) rfl
  have := ((f (sN 5) (pK { eP with opcode := 0x0b, psn := 5 }) rfl (by decide) rfl rfl rfl).2.2.2 [] _ rfl rfl rfl rfl
    (by decide) (by decide)).1 rfl rfl rfl
  have := ((f { sN 5 with plane := { boot := 6 } } (pK { eP with opcode := 4, psn := 5, payload := natToBytes 8 (7 * 2 ^ 48 + 4) })
    rfl (by decide) rfl rfl rfl).2.2.2 (natToBytes 8 (7 * 2 ^ 48 + 4)) _ rfl rfl rfl rfl (by decide) (by decide)).2.1 7 rfl rfl
    rfl (by decide) rfl
  have := (((f (sN 5) (pK { eP with opcode := 0x0a, psn := 6 }) rfl (by decide) rfl rfl rfl).2.2.2 [] _ rfl rfl rfl rfl
    (by decide) (by decide)).2.2 5 rfl (.inl rfl)).1 (by decide) (by decide)
  have := (((f (sN 0) (pK { eP with opcode := 4, psn := 2 ^ 24 - 1 }) rfl (by decide) rfl rfl rfl).2.2.2 [] _ rfl rfl rfl rfl
    (by decide) (by decide)).2.2 0 rfl (.inr rfl)).2 (by decide)
  trivial

/-- A write of a register by the supervisor's session, or by that of context 7. -/
def rW (r : RbReg) (v : BitVec 128) : ReadbackWrite := { reg := r, value := v, supervisor := true, asid := 0 }

/-- Whether an image passes is a free value: for either, one clause has its premises met. -/
theorem wit_boot (h : Obligations.BootResetsAndReadbackWrite) : True := by
  have := (h m0 { data := [], sig := [] } 5 (rW .mctl 0)).1
  have := (h (sO {}) { data := [], sig := [] } 5 (rW .mctl 0)).1 (.inl (by decide))
  have z := fun (b : Nat) w => (h { m0 with plane := { boot := b, rollback := 9 } } { data := [], sig := [] } 5 (rW .mctl 0)).2.1 w
  cases e : ({ m0 with plane := { boot := 2, rollback := 9 } } : State).imagePasses { data := [], sig := [] }
  · have := (z 2 (.inl rfl) rfl).1 e
    trivial
  · have := (z 2 (.inl rfl) rfl).2.1 e rfl
    have := (z 3 (.inr rfl) rfl).2.2 e rfl
    trivial

theorem wit_readback (h : Obligations.BootResetsAndReadbackWrite) : True := by
  have := (h (pl { rollback := 9, halt := true, log := [{}] }) { data := [], sig := [] } 5 (rW .mctl 0)).2.2.1
  have := (h (pl { rollback := 9, halt := true, log := [{}] }) { data := [], sig := [] } 5 (rW .mctl 0)).2.2.2.1
  have := (h m0 { data := [], sig := [] } 5 (rW .mctl 0)).2.2.2.2.1 (by decide +kernel)
  have g := fun (n : Nat) (w : ReadbackWrite) => (h (sO { st := 1 }) { data := [], sig := [] } n w).2.2.2.2.2 (by decide +kernel)
  have := (g 999 (rW .mctl 0)).1
  have := (g 9 { rW .mctl 0 with supervisor := false }).2.1 (by decide +kernel)
  have := ((g 9 (rW (.lqSize 3) 65535)).2.2 (by decide +kernel)).1 3 rfl (by decide) (by decide)
  have := ((g 9 (rW (.lqSize 3) 65536)).2.2 (by decide +kernel)).2.1 3 rfl (by decide)
  have := ((g 9 { rW (.strandG 0 0 31) (2 ^ 64 + 5) with supervisor := false, asid := 7 }).2.2 (by decide +kernel)).2.2.1 0 0 31 rfl
    (by decide) (by decide) (by decide) (by decide +kernel)
  have := ((g 9 (rW .mctl (5 * 2 ^ 56 + 7 * 2 ^ 48))).2.2 (by decide +kernel)).2.2.2 rfl (by decide) (by decide)
  trivial
/-! ### Witnesses: the machine as a whole -/

/-- A line with a template and the words of its slots; the machine that is about to issue a slot of its line 2,047. -/
def lineB (tpl : Nat) (ws : List Nat) : List Byte :=
  let x := ws.foldr (fun w x => x * 2 ^ 96 + w) 0
  natToBytes 4 (parOf x * 2 ^ 24 + tpl * 2 ^ 20) ++ natToBytes 60 x
def mI (tpl : Nat) (ws : List Nat) (pc : Word) (st : Strand) : State :=
  { run { st with pc := pc } with mem := wrBytes [] (codeKey 0 (64 * 2047)) (lineB tpl ws), issuing := true }
/-- The words of `add`, of a branch, of `exit`, of `rep` over four `add`, and one of no instruction. -/
def wA : Nat := 0x100004020000000000000008
def wB : Nat := 0x320100050000000000000000
def wRep : Nat := 0x380001000000000300000008
def wX : Nat := 0x000003010200000000000000
def pcL : Word := 8 * 2047
def iA : Fields := { d := 4, a := 2, imm := 8 }
def wV : Nat := 0x400021222300000400000000
def vA : Fields := { d := 0x21, a := 0x22, b := 0x23, fmt := 2 }
def stW : Strand := { st0 with vl := 8, v := [(2, { tag := 2 }), (3, { tag := 2 })] }
def nxt (o : Host.Outcome State Fault Refusal) : State := match o with
  | .next t => t
  | _ => {}
theorem fch {s : State} (h : (s.issuing && s.running && !s.st.restarts && pcForm s.st.pc && !s.parityBad s.cur (pcLine s.st.pc) &&
    decide (lwTpl (s.lineWord s.cur (pcLine s.st.pc)) < 8) && (s.lineWord s.cur (pcLine s.st.pc)).toNat % 1024 == 0 &&
    !lwBkp (s.lineWord s.cur (pcLine s.st.pc)) (pcSlot s.st.pc) &&
    !lwBkp (s.lineWord s.cur (pcLine s.st.pc)) (pcSlot s.st.pc + 1)) = true := by decide +kernel) : Rules.fetches s := by
  simp only [Bool.and_eq_true, Bool.not_eq_true', decide_eq_true_eq, beq_iff_eq] at h
  obtain ⟨⟨⟨⟨⟨⟨⟨⟨a, b⟩, k⟩, c⟩, d⟩, e⟩, f⟩, g⟩, i⟩ := h
  exact ⟨a, b, k, c, d, e, f, g, i⟩
/-- A branch that waits for its operand, in the head of a load queue that is empty. -/
def wQ : Nat := 0x320100e00000000000000000

theorem wit_words (h : Obligations.WordsAndInstructionsCorrespond) : True := by
  have := h.1 (.add iA) (by decide) (by decide)
  have := h.2 (BitVec.ofNat 96 wB) (.br .ne { a := 5 }) (by rfl)
  trivial

theorem wit_steps (h : Obligations.AStepRunsTheDecodedInstruction) : True := by
  have := (((h (mI 0 [wB, wB, wB, wB, wA] (pcL + 4) st0)).1 fch).1 rfl (by decide +kernel)).1 (.add iA) (by rfl) (fun r => nofun)
  have := this.1 (nxt (exec (.add iA) (Rules.atIssue (mI 0 [wB, wB, wB, wB, wA] (pcL + 4) st0) 1))) (by rfl) (by decide +kernel)
    (by decide +kernel)
  have := (((h (mI 0 [wQ] pcL { st0 with lq := [] })).1 fch).1 rfl (by decide +kernel)).1 (.br .ne { a := 0xe0 }) (by rfl) (fun r => nofun)
  have := this.2 (nxt (exec (.br .ne { a := 0xe0 }) (Rules.atIssue (mI 0 [wQ] pcL { st0 with lq := [] }) 1))) (by rfl) (by decide +kernel)
  have := (((h (mI 0 [wRep, wA] pcL st0)).1 fch).1 rfl (by decide +kernel)).2.1 { sd := 1, cnt := 3, si := 8 }
    (nxt (exec (.rep { sd := 1, cnt := 3, si := 8 }) (Rules.atIssue (mI 0 [wRep, wA] pcL st0) 2))) (by rfl) (by rfl) (by decide +kernel)
    (by decide +kernel)
  have := (((h (mI 0 [wX] pcL st0)).1 fch).1 rfl (by decide +kernel)).2.2 (by rfl) rfl
  have := ((h (mI 1 [wA, wV] pcL stW)).1 fch).2.1 (.add iA) (.vadd vA) (nxt (exec (.add iA) (Rules.atIssue (mI 1 [wA, wV] pcL stW) 2)))
    (nxt (exec (.vadd vA) (nxt (exec (.add iA) (Rules.atIssue (mI 1 [wA, wV] pcL stW) 2))))) rfl (by decide +kernel)
    (by rfl) (by rfl) (by rfl) (by rfl) (by decide +kernel) (by decide +kernel) (by rfl) (by decide +kernel) (by rfl)
    (by decide +kernel)
  have := this.2.1 (by decide +kernel) (by decide +kernel)
  have := ((h (mI 1 [wV, wA] pcL stW)).1 fch).2.1 (.vadd vA) (.add iA) (nxt (exec (.vadd vA) (Rules.atIssue (mI 1 [wV, wA] pcL stW) 2)))
    (nxt (exec (.add iA) (nxt (exec (.vadd vA) (Rules.atIssue (mI 1 [wV, wA] pcL stW) 2))))) rfl (by decide +kernel)
    (by rfl) (by rfl) (by rfl) (by rfl) (by decide +kernel) (by decide +kernel) (by rfl) (by decide +kernel) (by rfl)
    (by decide +kernel)
  have := this.1 (by decide +kernel) (by decide +kernel)
  have := ((h (mI 4 [wA, wA, wA, wA, wV] (pcL + 3) stW)).1 fch).2.1 (.add iA) (.vadd vA)
    (nxt (exec (.add iA) (Rules.atIssue (mI 4 [wA, wA, wA, wA, wV] (pcL + 3) stW) 2)))
    (nxt (exec (.vadd vA) (nxt (exec (.add iA) (Rules.atIssue (mI 4 [wA, wA, wA, wA, wV] (pcL + 3) stW) 2))))) rfl (by decide +kernel)
    (by rfl) (by rfl) (by rfl) (by rfl) (by decide +kernel) (by decide +kernel) (by rfl) (by decide +kernel) (by rfl)
    (by decide +kernel)
  have := this.2.2 rfl (by decide +kernel)
  have := ((h (mI 0 [wRep, wA] pcL { st0 with rpt := true, repidx := 2 })).1 fch).2.2.2 { sd := 1, cnt := 3, si := 8 }
    0x100006020000000000000018 (.add { d := 6, a := 2, imm := 24 }) (nxt (exec (.add { d := 6, a := 2, imm := 24 })
      ((Rules.atIssue (mI 0 [wRep, wA] pcL { st0 with rpt := true, repidx := 2 }) 2).modSt
        fun st => { st with target := some st.upc }))) rfl (by rfl) (by decide) (by decide +kernel) (by decide +kernel)
    (by decide +kernel) (by rfl) (by decide +kernel)
  have := this.1 (by decide +kernel) (by rfl)
  have := ((h (mI 0 [wRep, wA] pcL { st0 with rpt := true, repidx := 3 })).1 fch).2.2.2 { sd := 1, cnt := 3, si := 8 }
    0x100007020000000000000020 (.add { d := 7, a := 2, imm := 32 }) (nxt (exec (.add { d := 7, a := 2, imm := 32 })
      (Rules.atIssue (mI 0 [wRep, wA] pcL { st0 with rpt := true, repidx := 3 }) 2))) rfl (by rfl) (by decide) (by decide +kernel)
    (by decide +kernel) (by decide +kernel) (by rfl)
    (by decide +kernel)
  have := this.2 (by decide +kernel) (by rfl)
  have := ((h (mI 0 [wRep, wA] pcL { st0 with rpt := true, repidx := 4 })).1 fch).2.2.1 { sd := 1, cnt := 3, si := 8 } rfl
    (by rfl) (by decide) rfl rfl (by decide +kernel)
  have := (h { m0 with issuing := true, tiles := [(0, { strands := [(0, { st0 with pc := 5 })] })] }).2.2.1 rfl rfl rfl rfl (by decide +kernel)
  have := (h { agenda := [.powerSample 7] }).2.2.2 rfl (.powerSample 7) (by decide +kernel) rfl (fun t => nofun)
  trivial

/-- The machine that is about to issue slot 0 of line 2,047, with the first word of the line given. -/
def mFront (lw : Nat) (ws : List Nat) (st : Strand) : State :=
  let bs : List Byte := natToBytes 4 lw ++ (lineB 0 ws).drop 4
  { run { st with pc := pcL } with mem := wrBytes [] (codeKey 0 (64 * 2047)) bs, issuing := true }
def wRsv : Nat := 0x100003010200200000000000
def wCls : Nat := 0x100023010200000000000000

theorem wit_front (h : Obligations.AStepRunsTheDecodedInstruction) : True := by
  have f := fun s a b c d e => (h s).2.1 a b c d e
  have := (f { mFront (2 ^ 24) [] st0 with mem := wrBytes (mFront (2 ^ 24) [] st0).mem (dieKey 0 0 (64 * 2047 + 3)) [1] } rfl rfl (by decide +kernel) (by decide +kernel) rfl).1 (by decide +kernel)
    (by decide +kernel)
  have := (f (mFront (8 * 2 ^ 20) [] st0) rfl rfl (by decide +kernel) (by decide +kernel) rfl).2.1 (by decide +kernel)
    (by decide +kernel)
  have := (f (mFront (2 ^ 15) [] st0) rfl rfl (by decide +kernel) (by decide +kernel) rfl).2.2.1 (by decide +kernel)
    (by decide +kernel) rfl rfl rfl (by decide +kernel)
  have := ((f (mI 0 [wRsv] pcL st0) rfl rfl (by decide +kernel) (by decide +kernel) rfl).2.2.2.1 fch rfl
    (by decide +kernel) (fun f e => nomatch (show some (Instr.add { d := 3, a := 1, b := 2, scp := 1 }) =
      some (.xsend f) from e))).1 (by rfl)
  have := ((f (mI 0 [wCls] pcL st0) rfl rfl (by decide +kernel) (by decide +kernel) rfl).2.2.2.1 fch rfl
    (by decide +kernel) (fun f e => nomatch (show some (Instr.add { d := 35, a := 1, b := 2 }) =
      some (.xsend f) from e))).2 (by rfl)
  have := (f (mI 1 [wA, wA] pcL st0) rfl rfl (by decide +kernel) (by decide +kernel) rfl).2.2.2.2.1 (.add iA) (.add iA) fch
    rfl (by decide +kernel) (by rfl) (by rfl) (by rfl) (by rfl) (by decide +kernel)
  have := (f (mI 0 [wRep, wRep] pcL { st0 with rpt := true }) rfl rfl (by decide +kernel) (by decide +kernel)
    rfl).2.2.2.2.2 { sd := 1, cnt := 3, si := 8 } fch rfl (by rfl) (by decide) (by decide +kernel)
  trivial

theorem wit_tidy (h : Obligations.EveryStepKeepsMemoryCanonical) : True := by
  have := (h m0 _ (by unfold State.tidy; decide +kernel)).1 (.st { a := 3, b := 2, fmt := 0 }) rfl
  have := (h (mI 0 [wA] pcL st0) (nxt (step (mI 0 [wA] pcL st0))) (by unfold State.tidy; decide +kernel)).2 (by rfl)
  trivial
end Sys2Proof.Tests
end

section
/-! PROOFS. The statements about reset, special registers, boot, readback writes and writes from outside. -/

namespace Sys2Proof.Proofs

open Sys2Proof.Machine Sys2Proof.Laws

/-! ### Reset (R387) -/

/-- Settles O59: every part of the reset state is empty or 0, so each reads as such. -/
theorem resetClearsTheMachine : Obligations.ResetClearsTheMachine :=
  ⟨⟨rfl, rfl⟩, fun _ => ⟨rfl, rfl⟩, rfl, fun _ _ => ⟨rfl, rfl, rfl⟩, fun _ => rfl, fun _ => rfl, fun _ => rfl,
    fun _ => rfl, rfl, rfl, rfl, rfl, rfl, rfl, rfl, rfl⟩

/-! ### Special registers (R59, R287) -/

/-- `mfsr` ends with the special register of IMM in its destination, unpoisoned. -/
theorem mfsr_completes {f : Fields} {s : State} (h : s.runs (.mfsr f) f) :
    s.completes (.mfsr f) (s.wrG f.d (s.rdSpecial (specialNo f)) false) :=
  completes_of fun hs => guardedOp_ok h rfl hs

theorem b2n_mul (c : Bool) (n : Nat) : b2n c * n = if c then n else 0 := by
  cases c <;> simp [b2n]

theorem rdSpecial_status (s : State) : s.rdSpecial 0 = BitVec.ofNat 64 (s.st.acode.toNat * 2 ^ 16 +
    s.st.slot.getD 0 % 8 * 2 ^ 13 + (if s.st.psn then 128 else 0) + (if s.st.region.isSome then 64 else 0) +
    (if s.st.partner.isSome then 32 else 0) + (if s.st.folw then 16 else 0) + (if s.st.rpt then 8 else 0) +
    (if s.st.pkt.isSome then 4 else 0) + (if s.st.sup then 2 else 0)) := by
  simp only [State.rdSpecial, if_true, Strand.status, b2n_mul]

theorem rdSpecial_repidx (s : State) : s.rdSpecial 1 = BitVec.ofNat 64 s.st.repidx := by
  simp [State.rdSpecial]

theorem rdSpecial_vl (s : State) : s.rdSpecial 5 = BitVec.ofNat 64 s.st.vl := by
  simp [State.rdSpecial]

theorem rdSpecial_fprint (s : State) : s.rdSpecial 0x22 = s.st.fprint := by
  simp [State.rdSpecial]

theorem rdSpecial_ssc (s : State) {l : Nat} (h : l < 6) :
    s.rdSpecial (0x10 + l) = (s.tl.ssc.val 0 l).zeroExtend 64 := by
  have hne : ∀ k, k < 0x10 → 0x10 + l ≠ k := by omega
  simp [State.rdSpecial, hne, show 0x10 + l ≤ 0x15 by omega]

theorem rdSpecial_idle (s : State) {k : Nat} (h : k < 12) : s.rdSpecial (0x30 + k) = s.tl.idle.val 0 k := by
  have hne : ∀ j, j < 0x30 → 0x30 + k ≠ j := by omega
  simp [State.rdSpecial, hne, show ¬ 0x30 + k ≤ 0x15 by omega, show 0x30 + k ≤ 0x3b by omega]

theorem wrSpecial_idle (s : State) (x : Word) {k : Nat} (h : k < 12) :
    s.wrSpecial (0x30 + k) x = s.modTl fun t => { t with idle := t.idle.put k x } := by
  have hne : ∀ j, j < 0x30 → 0x30 + k ≠ j := by omega
  simp [State.wrSpecial, hne, show 0x30 + k ≤ 0x3b by omega]

/-- The special registers that take no written value: all their fields are read-only (R10, R59). -/
def roSpecial (n : Nat) : Prop :=
  n = 1 ∨ n = 2 ∨ n = 3 ∨ n = 5 ∨ n = 6 ∨ n = 7 ∨ (0x10 ≤ n ∧ n ≤ 0x15) ∨ n = 0x22

theorem wrSpecial_readOnly (s : State) (x : Word) {n : Nat} (h : roSpecial n) : s.wrSpecial n x = s := by
  unfold roSpecial at h
  have hw : n ≠ 0 ∧ n ≠ 4 ∧ n ≠ 8 ∧ n ≠ 9 ∧ n ≠ 0x20 ∧ n ≠ 0x21 ∧ ¬ (0x30 ≤ n ∧ n ≤ 0x3b) := by omega
  simp [State.wrSpecial, hw]

/-- A value breaks the register's map by a reserved bit, as no PC (EPC), or as no form of an injection (ERRINJ). -/
theorem specialBad_eq_false {n : Nat} {x : Word} (hr : x &&& specialReserved n = 0)
    (he : n = 8 → pcForm x = true) (hi : n = 0x21 → errinjBad x = false) : specialBad n x = false := by
  simp only [specialBad, Bool.or_eq_false_iff, Bool.and_eq_false_imp, beq_iff_eq, Bool.not_eq_false']
  exact ⟨⟨by simpa using hr, he⟩, hi⟩

theorem specialBad_of_reserved {n : Nat} {x : Word} (hr : x &&& specialReserved n ≠ 0) : specialBad n x = true := by
  simp only [specialBad, bne_iff_ne.mpr hr, Bool.true_or]

theorem exec_mtsr (f : Fields) (s : State) : exec (.mtsr f) s = execMtsr f s := rfl

/-- A tenant's `mtsr` of a register that is not the tenant's to write traps before all else (R59, R81). -/
theorem mtsr_privilege {f : Fields} {s : State} (h : s.issues (.mtsr f)) (hs : s.st.sup = false)
    (ht : tenantWrites (specialNo f) = false) : exec (.mtsr f) s = .next (s.raise .privilege 0) := by
  rw [exec_mtsr]
  refine strandOp_trap h ?_
  simp [hs, ht, guardT, trapE, bind, Except.bind]

section
variable {f : Fields} {s s1 : State} {x : Word × Bool}
  (h : s.issues (.mtsr f)) (hp : (!s.st.sup && !tenantWrites (specialNo f)) = false)
  (hon : predOn f s.st = true) (hr : s.rd1 f.a = .ok (x, s1))
include h hp hon hr

theorem mtsr_poison (hx : x.2 = true) : exec (.mtsr f) s = .next (s.raise .poison 0) := by
  rw [exec_mtsr]
  refine strandOp_trap h ?_
  simp [hp, guardT, trapE, guarded, hon, hr, hx, bind, Except.bind]

theorem mtsr_reserved (hx : x.2 = false) (hb : specialBad (specialNo f) x.1 = true) :
    exec (.mtsr f) s = .next (s.raise .reservedField 0) := by
  rw [exec_mtsr]
  refine strandOp_trap h ?_
  simp [hp, guardT, trapE, guarded, hon, hr, hx, hb, bind, Except.bind]

theorem mtsr_completes (hx : x.2 = false) (hb : specialBad (specialNo f) x.1 = false) :
    s.completes (.mtsr f) (s1.wrSpecial (specialNo f) x.1) := by
  refine completes_of fun hs => ?_
  rw [exec_mtsr]
  refine strandOp_ok h ?_ hs
  simp [hp, guardT, guarded, hon, hr, hx, hb, bind, Except.bind, pure, Except.pure]
end

/-- Settles O32: an equation per register of R59, read by `mfsr` or written by an `mtsr` that passes its checks. -/
theorem specialRegistersReadAndWrite : Obligations.SpecialRegistersReadAndWrite := by
  refine ⟨fun f s h => ?_, fun f s s1 x h => ⟨fun hs h0 h4 h8 => ?_, fun hp hon hr => ?_⟩⟩
  · have reads : ∀ k v, f.imm.toNat % 4096 = k → s.rdSpecial k = v → s.completes (.mfsr f) (s.wrG f.d v false) := by
      rintro k v rfl rfl
      exact mfsr_completes h
    exact ⟨fun n => reads _ _ n (rdSpecial_status s), fun n => reads _ _ n (rdSpecial_repidx s),
      fun n => reads _ _ n rfl, fun n => reads _ _ n rfl, fun n => reads _ _ n rfl,
      fun n => reads _ _ n (rdSpecial_vl s), fun n => reads _ _ n rfl, fun n => reads _ _ n rfl,
      fun n => reads _ _ n rfl, fun n => reads _ _ n rfl, fun l hl n => reads _ _ n (rdSpecial_ssc s hl),
      fun n => reads _ _ n rfl, fun n => reads _ _ n rfl, fun n => reads _ _ n (rdSpecial_fprint s),
      fun k hk n => reads _ _ n (rdSpecial_idle s hk)⟩
  · exact mtsr_privilege h hs (by simp [tenantWrites, specialNo, h0, h4, h8])
  · have hp' : (!s.st.sup && !tenantWrites (specialNo f)) = false := by
      rcases hp with hp | hp | hp | hp <;> simp [tenantWrites, specialNo, hp]
    refine ⟨mtsr_poison h hp' hon hr, fun hx hb => mtsr_reserved h hp' hon hr hx (specialBad_of_reserved hb),
      fun hx hb => ?_⟩
    have writes : ∀ k t, f.imm.toNat % 4096 = k → (k = 8 → pcForm x.1 = true) → (k = 0x21 → errinjBad x.1 = false) →
        s1.wrSpecial k x.1 = t → s.completes (.mtsr f) t := by
      rintro k t rfl he hi rfl
      exact mtsr_completes h hp' hon hr hx (specialBad_eq_false hb he hi)
    exact ⟨fun n => writes _ _ n nofun nofun rfl, fun n => writes _ _ n nofun nofun rfl,
      fun n he => writes _ _ n (fun _ => he) nofun rfl, fun n => writes _ _ n nofun nofun rfl,
      fun n => writes _ _ n nofun nofun rfl, fun n hi => writes _ _ n nofun (fun _ => hi) rfl,
      fun k hk n => writes _ _ n (by omega) (by omega) (wrSpecial_idle s1 x.1 hk),
      fun n => writes _ _ rfl (by omega) (by omega) (wrSpecial_readOnly s1 x.1 n)⟩

/-! ### Fields of a word (R10) -/

theorem testBit_bitsN (x lo n i : Nat) : (bitsN x lo n).testBit i = (decide (i < n) && x.testBit (lo + i)) := by
  simp [bitsN, Nat.testBit_mod_two_pow, Nat.testBit_div_two_pow, Nat.add_comm]

/-- A bit of a word after a field has been replaced: the field's own bits are those of the value. -/
theorem testBit_setBits {w : Nat} (x : BitVec w) (lo n v i : Nat) (hi : i < w) :
    (setBits x lo n v).toNat.testBit i =
      if lo ≤ i ∧ i < lo + n then v.testBit (i - lo) else x.toNat.testBit i := by
  simp only [setBits, BitVec.testBit_toNat, BitVec.getLsbD_or, BitVec.getLsbD_and, BitVec.getLsbD_not,
    BitVec.getLsbD_ofNat, hi, decide_true, Bool.true_and, Nat.testBit_mul_two_pow, Nat.testBit_two_pow_sub_one,
    Nat.testBit_mod_two_pow]
  split
  · rename_i h
    have hn : i - lo < n := by omega
    simp [h.1, hn]
  · rename_i h
    have hn : (decide (lo ≤ i) && decide (i - lo < n)) = false := by
      rw [Bool.and_eq_false_imp, decide_eq_true_eq, decide_eq_false_iff_not]
      omega
    simp [← Bool.and_assoc, hn]

/-- A field reads as it was written. -/
theorem bitsN_setBits_same {w : Nat} (x : BitVec w) {lo n : Nat} (v : Nat) (h : lo + n ≤ w) :
    bitsN (setBits x lo n v).toNat lo n = v % 2 ^ n := by
  refine Nat.eq_of_testBit_eq fun i => ?_
  rw [testBit_bitsN, Nat.testBit_mod_two_pow]
  by_cases hi : i < n
  · simp [testBit_setBits x lo n v (lo + i) (by omega), hi]
  · simp [hi]

/-- A field beside the one written reads as before. -/
theorem bitsN_setBits_disjoint {w : Nat} (x : BitVec w) {lo n lo' n' : Nat} (v : Nat) (h : lo' + n' ≤ w)
    (hd : lo' + n' ≤ lo ∨ lo + n ≤ lo') :
    bitsN (setBits x lo n v).toNat lo' n' = bitsN x.toNat lo' n' := by
  refine Nat.eq_of_testBit_eq fun i => ?_
  rw [testBit_bitsN, testBit_bitsN]
  by_cases hi : i < n'
  · rw [testBit_setBits x lo n v (lo' + i) (by omega), if_neg (by omega)]
  · simp [hi]

/-! ### Replies (R342) -/

/-- Nothing differs but the queue pairs, the routes, the members found lost, and what has been sent. -/
def linkOnly (s t : State) : Prop :=
  { t with qps := s.qps, routes := s.routes, lost := s.lost, sent := s.sent } = s

theorem linkOnly_trans {s t u : State} (h : linkOnly s t) (h' : linkOnly t u) : linkOnly s u := by
  unfold linkOnly at *
  rw [← h, ← h']

theorem linkOnly_of_qps {s t : State} {q : SMap Qp} (h : linkOnly { s with qps := q } t) : linkOnly s t :=
  linkOnly_trans (t := { s with qps := q }) rfl h

theorem linkOnly_mem {s t : State} (h : linkOnly s t) : t.mem = s.mem := by
  rw [← show _ = s from h]

theorem linkOnly_plane {s t : State} (h : linkOnly s t) : t.plane = s.plane := by
  rw [← show _ = s from h]

theorem loseSlot_linkOnly (s : State) (x : Nat) : linkOnly s (s.loseSlot x) := by
  unfold State.loseSlot
  dsimp only
  split
  · rfl
  · split <;> rfl

theorem foldl_linkOnly {α : Type} {f : State → α → State} (hf : ∀ s a, linkOnly s (f s a)) (l : List α) (s : State) :
    linkOnly s (l.foldl f s) := by
  induction l generalizing s with
  | nil => rfl
  | cons a l ih => exact linkOnly_trans (hf s a) (ih (f s a))

theorem qpError_linkOnly (s : State) (i : Nat) : linkOnly s (s.qpError i) := by
  have hf : ∀ (t : State) (r : Nat × Route),
      linkOnly t (if r.2.v ∧ r.2.kind ∧ r.2.qpn = i then t.loseSlot r.1 else t) := by
    intro t r
    split
    · exact loseSlot_linkOnly t r.1
    · rfl
  exact linkOnly_of_qps (foldl_linkOnly hf s.routes _)

theorem emit_linkOnly (s : State) (i : Nat) (p : EthPacket) : linkOnly s (s.emit i p) := by
  unfold State.emit
  dsimp only
  split
  · split
    · exact qpError_linkOnly s i
    · rfl
  · rfl

/-- A reply of a session changes nothing of the machine itself. -/
theorem reply_linkOnly (s : State) (qp cmd asid status : Nat) (body : List Byte) :
    linkOnly s (s.reply qp cmd asid status body) :=
  linkOnly_of_qps (emit_linkOnly _ qp _)

/-! ### Boot (R386) -/

theorem image_ignored {s : State} {m : ImageMsg} (h : (s.plane.boot ≠ 2 ∧ s.plane.boot ≠ 3) ∨ s.plane.halt = true) :
    exec (.image m) s = .next s :=
  congrArg Host.Outcome.next (if_pos h)

section
variable {s : State} {m : ImageMsg} (hb : s.plane.boot = 2 ∨ s.plane.boot = 3) (hh : s.plane.halt = false)
include hb hh

/-- At the two boot steps that await an image, it is discarded or taken. -/
theorem image_awaited : exec (.image m) s = .next (if !s.imagePasses m then
      { s.reply 1 0x10 0 11 [] with plane := { s.plane with img := [] } }
    else if s.plane.boot = 2 then
      { s.reply 1 0x10 0 0 [] with plane := { s.plane with
          img := [], boot := 3, mr0 := extend s.plane.mr0 (s.bootImage m) } }
    else { s.reply 1 0x10 0 0 [] with plane := { s.plane with
          img := [], mr1 := extend s.plane.mr1 (s.bootImage m) } }.bootMemory) := by
  refine congrArg Host.Outcome.next (if_neg ?_)
  rw [hh]
  simp only [Bool.false_eq_true, or_false]
  omega

theorem image_discarded (hp : s.imagePasses m = false) : exec (.image m) s =
    .next { s.reply 1 0x10 0 11 [] with plane := { s.plane with img := [] } } := by
  rw [image_awaited hb hh, if_pos (by simp [hp])]

theorem image_firmware (hp : s.imagePasses m = true) (h2 : s.plane.boot = 2) : exec (.image m) s =
    .next { s.reply 1 0x10 0 0 [] with plane := { s.plane with
      img := [], boot := 3, mr0 := extend s.plane.mr0 (s.bootImage m) } } := by
  rw [image_awaited hb hh, if_neg (by simp [hp]), if_pos h2]

theorem image_microcode (hp : s.imagePasses m = true) (h3 : s.plane.boot = 3) : exec (.image m) s =
    .next { s.reply 1 0x10 0 0 [] with plane := { s.plane with
      img := [], mr1 := extend s.plane.mr1 (s.bootImage m) } }.bootMemory := by
  rw [image_awaited hb hh, if_neg (by simp [hp]), if_neg (by simp [h3])]
end

/-! ### Rollback fuses (R386) -/

theorem bumpRollback_closed {s : State} (n : Nat) (ho : s.sessionsOpen = false) :
    exec (.bumpRollbackCounter n) s = .next s :=
  congrArg Host.Outcome.next (if_neg (by simp [ho]))

theorem bumpRollback_open {s : State} (n : Nat) (ho : s.sessionsOpen = true) : exec (.bumpRollbackCounter n) s =
    .next { s with plane := { s.plane with rollback := max s.plane.rollback (min 64 n) } } :=
  congrArg Host.Outcome.next (if_pos ho)

/-! ### Readback writes (R10, R11, R17) -/

/-- A write that the session may not make, or that breaks the register's map, is answered with the error status. -/
theorem registerWrite_rejected {s : State} {w : ReadbackWrite}
    (h : s.sessionsOpen = false ∨ s.rbAllowed w = false ∨ s.rbWrite w.reg w.value = none) :
    exec (.registerWrite w) s = .next (s.told false) := by
  change Host.Outcome.next (s.answered _) = _
  rcases h with h | h | h <;> simp [h, State.answered]

/-- The bits of LQSIZE above bit 15 are reserved (R268). -/
theorem reservedSet_above (x : Nat) : reservedSet x [(16, 48)] = decide (2 ^ 16 ≤ x) := by
  rw [Bool.eq_iff_iff]
  simp only [reservedSet, bitsN, List.any_cons, List.any_nil, Bool.or_false, Bool.or_eq_true, decide_eq_true_eq,
    bne_iff_ne, ne_eq]
  omega

theorem rbSize_reserved (s : State) (kq : Bool) (q : Nat) {x : Nat} (hx : 2 ^ 16 ≤ x) : s.rbSize kq q x = none :=
  if_pos (.inl (by rw [reservedSet_above, decide_eq_true hx]))

/-- The bits of MCTL below bit 16 are reserved (R360). -/
theorem reservedSet_below {x : Nat} (hx : x < 2 ^ 64) (hr : x % 2 ^ 16 = 0) : reservedSet x [(0, 16)] = false := by
  have hb : bitsN x 0 16 = 0 := by rw [bitsN, Nat.pow_zero, Nat.div_one, hr]
  simpa [reservedSet, hb] using hx

section
variable {s : State} {w : ReadbackWrite} (ho : s.sessionsOpen = true) (ha : s.rbAllowed w = true)
include ho ha

theorem registerWrite_taken {t : State} (h : s.rbWrite w.reg w.value = some t) :
    exec (.registerWrite w) s = .next (t.told true) := by
  change Host.Outcome.next (s.answered _) = _
  simp [ho, ha, h, State.answered]

theorem registerWrite_lqSize {i : Nat} (hw : w.reg = .lqSize i) (hi : i < 4) (hx : w.value.toNat < 2 ^ 16) :
    exec (.registerWrite w) s = .next (State.told
      { s with lq := putRing s.lq i fun r => { r with size := w.value.truncate 16 } } true) := by
  refine registerWrite_taken ho ha ?_
  rw [hw]
  refine if_neg ?_
  rw [reservedSet_above, decide_eq_true_eq]
  omega

theorem registerWrite_strandG {t r k : Nat} (hw : w.reg = .strandG t r k) (hk : k < 32)
    (hx : w.value.toNat < 2 ^ 65) (hs : s.hasStrand t r = true) :
    exec (.registerWrite w) s = .next ((s.modStrandAt t r fun st =>
      st.wg k (w.value.truncate 64) (w.value.getLsbD 64)).told true) := by
  have hb : inBounds k 32 w.value.toNat 65 = true := by rw [inBounds, decide_eq_true hk, decide_eq_true hx]; rfl
  refine registerWrite_taken ho ha ?_
  rw [hw]
  exact if_pos (by rw [hb, hs]; rfl)

theorem registerWrite_mctl (hw : w.reg = .mctl) (hx : w.value.toNat < 2 ^ 64) (hr : w.value.toNat % 2 ^ 16 = 0) :
    exec (.registerWrite w) s = .next (State.told { s with
      mctl := setBits (setBits s.mctl 56 8 (bitsN w.value.toNat 56 8)) 48 8 (bitsN w.value.toNat 48 8) } true) := by
  refine registerWrite_taken ho ha ?_
  rw [hw]
  exact if_neg (by rw [reservedSet_below hx hr]; exact Bool.false_ne_true)
end

/-- A change of a strand changes its tile alone. -/
theorem modStrandAt_onlyTile (s : State) (t r : Nat) (f : Strand → Strand) :
    Rules.onlyTile s (s.modStrandAt t r f) t :=
  ⟨rfl, fun _ hn => tileAt_modTileAt_ne s _ (Ne.symm hn)⟩

/-- The poison of a general register reads as it was written (R46). -/
theorem rgp_wg_same (st : Strand) {n : Nat} (x : Word) (p : Bool) (h0 : n ≠ 0) (hn : n < 32) :
    (st.wg n x p).rgp n = p := by
  cases p <;> simp [Strand.wg, Strand.rgp, h0, hn]

/-- Settles O55: what each step of boot, each reset and each write of a readback register answers, clause by
clause. -/
theorem bootResetsAndReadbackWrite : Obligations.BootResetsAndReadbackWrite := by
  intro s m n w
  refine ⟨image_ignored, fun hb hh => ⟨fun hp => ?_, fun hp h2 => ?_, fun hp h3 => ?_⟩,
    ⟨_, rfl, rfl, rfl, rfl, rfl, rfl, rfl⟩, ⟨_, rfl, rfl, rfl, rfl, rfl, rfl, rfl, rfl⟩,
    fun ho => ⟨bumpRollback_closed n ho, registerWrite_rejected (.inl ho)⟩,
    fun ho => ⟨⟨_, bumpRollback_open n ho, rfl, rfl⟩, fun ha => registerWrite_rejected (.inr (.inl ha)),
      fun ha => ⟨fun i hw hi hx => ?_, fun i hw hx => ?_, fun t r k hw h0 hk hx hs => ?_, fun hw hx hr => ?_⟩⟩⟩
  · refine ⟨_, image_discarded hb hh hp, rfl, ?_⟩
    rw [← linkOnly_plane (reply_linkOnly s 1 0x10 0 11 [])]
  · have hmem : (s.reply 1 0x10 0 0 []).mem = s.mem := linkOnly_mem (reply_linkOnly s 1 0x10 0 0 [])
    exact ⟨_, image_firmware hb hh hp h2, rfl, rfl, rfl, hmem⟩
  · exact ⟨_, image_microcode hb hh hp h3, rfl, rfl, rfl, rfl, rfl, rfl, rfl⟩
  · exact ⟨_, registerWrite_lqSize ho ha hw hi hx, by simp [putRing], rfl⟩
  · refine registerWrite_rejected (.inr (.inr ?_))
    rw [hw]
    exact rbSize_reserved s false i hx
  · refine ⟨_, registerWrite_strandG ho ha hw hk hx hs, modStrandAt_onlyTile s t r _, ?_, ?_, fun j hj => ?_⟩
    · rw [strandAt_modStrandAt_same, rg_wg, if_pos ⟨h0, rfl⟩]
    · rw [strandAt_modStrandAt_same, rgp_wg_same _ _ _ h0 hk]
    · rw [strandAt_modStrandAt_same, rg_wg, if_neg fun h => hj h.2.symm]
  · refine ⟨_, registerWrite_mctl ho ha hw hx hr, ?_, ?_⟩
    · rw [State.oslot, bitsN_setBits_disjoint _ _ (by decide) (by decide), bitsN_setBits_same _ _ (by decide), bitsN]
      omega
    · rw [State.pth, bitsN_setBits_same _ _ (by decide), bitsN, Nat.mod_mod]

/-! ### A write from outside (R225, R233, R239) -/

/-- A tile whose banks are all powered. -/
def poweredTile : State := { tiles := [(0, { bankOn := BitVec.allOnes 64 })] }

/-- A byte that a tile of package 1 writes at 0x100 of tile 0 and counts into the remote sync word at 0x200. -/
def countedWrite : RemoteWrite :=
  { tile := 0, src := 1024, addr := 0x100, kind := 0, data := [(7, false)], word := some 0x200, cnt := 1 }

/-- The write is performed at the tile's port, and counts into the word: CNT, at byte 4 of the word, becomes 1. -/
theorem countedWrite_counts : ∃ t, exec (.remoteWriteArrival countedWrite) poweredTile = .next t ∧
    rdByte t.mem 0x204 = 1 :=
  ⟨poweredTile.farPort countedWrite, rfl, by decide +kernel⟩

/-- Refutes O42: where the port performs a write, the statement keeps every byte outside the write's own, but a write
that carries a remote sync word also counts its bytes into that word (R233, R239), here at 0x200. -/
theorem not_writesFromOutsideReachTheirTile : ¬ Obligations.WritesFromOutsideReachTheirTile := by
  intro h
  obtain ⟨-, -, -, -, -, ⟨-, -, hport⟩, -⟩ := h poweredTile 0 0 0 0 0 [] countedWrite
  obtain ⟨-, hperformed, -⟩ := hport rfl rfl rfl (by decide +kernel)
  obtain ⟨t, ht, -, hkept⟩ := hperformed (by decide +kernel) rfl rfl rfl
  obtain ⟨u, hu, hcount⟩ := countedWrite_counts
  obtain rfl : t = u := by simpa [ht] using hu
  have h0 : rdByte t.mem 0x204 = 0 := hkept 0x204 (.inr (by decide))
  exact absurd (hcount.symm.trans h0) (by decide)

end Sys2Proof.Proofs
end

section
/-! PROOFS. The statements about registers: operands, the frame of scalar instructions, lane claims and masks, and the
instructions that end or suspend a strand. -/

namespace Sys2Proof.Proofs

open Sys2Proof.Machine Sys2Proof.Laws

/-! ### A change of the issuing strand -/

theorem onlyStrand_modSt (s : State) (f : Strand → Strand) : Rules.onlyStrand s (s.modSt f) := by
  refine ⟨rfl, fun n hn => tileAt_modSt_ne s f hn.symm, ?_, fun r hr => strandAt_modSt_ne s f (.inr hr.symm)⟩
  rw [tl_modSt]
  rfl

/-! ### Files of a specifier (R47) -/

theorem isG_of_isLq {sp : BitVec 8} (h : isLq sp = true) : isG sp = false := by
  simp only [isLq, Bool.and_eq_true, beq_iff_eq] at h
  simp [isG, h.1]

theorem isG_of_isSq {sp : BitVec 8} (h : isSq sp = true) : isG sp = false := by
  simp only [isSq, Bool.and_eq_true, beq_iff_eq] at h
  simp [isG, h.1]

/-- The queues of specifier file 7 that are no load queues are numbered from 4 on. -/
theorem four_add_of_isSq {sp : BitVec 8} (h : isSq sp = true) : 4 + (opIdx sp - 4) = opIdx sp := by
  simp only [isSq, Bool.and_eq_true, Bool.or_eq_true, beq_iff_eq] at h
  omega

/-- The constant zero lies in no file. -/
theorem file_of_isZero {sp : BitVec 8} (h : isZero sp = true) :
    isG sp = false ∧ isLq sp = false ∧ isSq sp = false := by
  obtain rfl : sp = 0xff := by simpa [isZero] using h
  decide

/-! ### Sources (R45, R57, R90) -/

theorem rdSrc_g {s : State} {sp : BitVec 8} (h : isG sp = true) :
    s.rdSrc sp = .ok ((s.st.rg (opIdx sp), s.st.rgp (opIdx sp)), s) := by
  simp [State.rdSrc, h]

theorem rdSrc_zero {s : State} {sp : BitVec 8} (h : isZero sp = true) : s.rdSrc sp = .ok ((0, false), s) := by
  obtain ⟨hg, hl, -⟩ := file_of_isZero h
  simp [State.rdSrc, hg, hl]

theorem rdSrc_lq {s : State} {sp : BitVec 8} (h : isLq sp = true) : s.rdSrc sp = s.popLq (opIdx sp) := by
  simp [State.rdSrc, isG_of_isLq h, h]

theorem popLq_held {s : State} {n : Nat} {v : Word} {p : Bool} {rest : List QPlace}
    (h : s.st.lqOf n = .held v p :: rest) :
    s.popLq n = .ok ((v, p), s.modSt fun st => { st with lq := st.lq.put n rest }) := by
  simp [State.popLq, h]

/-- A load queue whose oldest place holds no value makes its reader wait (R57, R108). -/
theorem popLq_waits {s : State} {n : Nat} (h : ∀ v p rest, s.st.lqOf n ≠ .held v p :: rest) :
    ∃ w, s.popLq n = .error (.stall w) := by
  unfold State.popLq
  split
  · rename_i heq
    exact absurd heq (h _ _ _)
  · exact ⟨_, rfl⟩

theorem lqOf_put_same (st : Strand) (q : Nat) (l : List QPlace) :
    ({ st with lq := st.lq.put q l } : Strand).lqOf q = l := val_put_same _ _ _ _

theorem lqOf_put_ne (st : Strand) {q j : Nat} (l : List QPlace) (h : j ≠ q) :
    ({ st with lq := st.lq.put q l } : Strand).lqOf j = st.lqOf j := val_put_ne _ _ _ h.symm

/-! ### General registers (R46) -/

theorem rgp_wg_ne (st : Strand) {n j : Nat} (x : Word) (p : Bool) (h : j ≠ n) : (st.wg n x p).rgp j = st.rgp j := by
  unfold Strand.wg Strand.rgp
  by_cases hn : n = 0
  · simp [hn]
  · by_cases hj : j = 0
    · simp [hj]
    · have hs : (1#32 <<< n).getLsbD j = false := by
        by_cases hlt : j < n
        · simp [hlt]
        · simp [show j - n ≠ 0 by omega]
      rw [if_neg hn]
      dsimp only
      rw [if_neg hj, if_neg hj]
      cases p with
      | true => rw [if_pos rfl, BitVec.getLsbD_or, hs, Bool.or_false]
      | false =>
        rw [if_neg Bool.false_ne_true, BitVec.getLsbD_and, BitVec.getLsbD_not, hs]
        by_cases h32 : j < 32
        · simp [h32]
        · simp [BitVec.getLsbD_of_ge _ _ (Nat.le_of_not_lt h32)]

theorem rg_wg_same (st : Strand) {n : Nat} (x : Word) (p : Bool) (h : n ≠ 0) : (st.wg n x p).rg n = x := by
  rw [rg_wg, if_pos ⟨h, rfl⟩]

theorem rg_wg_ne (st : Strand) {n j : Nat} (x : Word) (p : Bool) (h : j ≠ n) : (st.wg n x p).rg j = st.rg j := by
  rw [rg_wg, if_neg fun hc => h hc.2.symm]

theorem wg_zero (st : Strand) (x : Word) (p : Bool) : st.wg 0 x p = st := rfl

/-- A write of a general register changes the `g` file and its poison alone. -/
theorem wg_frame (st : Strand) (n : Nat) (x : Word) (p : Bool) :
    { st.wg n x p with g := st.g, gp := st.gp } = st := by
  unfold Strand.wg
  split <;> rfl

theorem opIdx_lt (sp : BitVec 8) : opIdx sp < 32 := Nat.mod_lt _ (by decide)

/-! ### Writes of local memory (R103, R278, R347) -/

/-- What work on a tile's local memory and tables leaves: which strand issues, the other tiles, and of the tile itself
all but the flipped code words, the dirty map and the `tb` registers. -/
def localFrame (s t : State) (tile : Nat) : Prop :=
  t.cur = s.cur ∧ t.curRec = s.curRec ∧ (∀ n, n ≠ tile → t.tileAt n = s.tileAt n) ∧
    { t.tileAt tile with
      flips := (s.tileAt tile).flips, dirty := (s.tileAt tile).dirty, tb := (s.tileAt tile).tb } = s.tileAt tile

theorem localFrame_trans {s t u : State} {tile : Nat} (h : localFrame s t tile) (h' : localFrame t u tile) :
    localFrame s u tile := by
  obtain ⟨hc, hr, hn, ht⟩ := h
  obtain ⟨hc', hr', hn', ht'⟩ := h'
  refine ⟨hc'.trans hc, hr'.trans hr, fun n hne => (hn' n hne).trans (hn n hne), ?_⟩
  rw [← ht, ← ht']

/-- A change that touches no tile. -/
theorem localFrame_of_tiles {s t : State} (tile : Nat) (hc : t.cur = s.cur) (hr : t.curRec = s.curRec)
    (ht : t.tiles = s.tiles) (hh : t.heaps = s.heaps) : localFrame s t tile := by
  have hat : ∀ n, t.tileAt n = s.tileAt n := fun n => by
    unfold State.tileAt State.colours
    rw [ht, hh]
  exact ⟨hc, hr, fun n _ => hat n, by rw [hat]⟩

theorem localFrame_refl (s : State) (tile : Nat) : localFrame s s tile :=
  localFrame_of_tiles tile rfl rfl rfl rfl

theorem localFrame_memory (s : State) (tile : Nat) (m : Memory) (k : Marks) :
    localFrame s { s with mem := m, marks := k } tile :=
  localFrame_of_tiles tile rfl rfl rfl rfl

theorem localFrame_modTileAt (s : State) (tile : Nat) {f : Tile → Tile}
    (h : ∀ t : Tile, { f t with flips := t.flips, dirty := t.dirty, tb := t.tb } = t) :
    localFrame s (s.modTileAt tile f) tile :=
  ⟨rfl, rfl, fun _ hn => tileAt_modTileAt_ne s f hn.symm, by rw [tileAt_modTileAt_same, h]⟩

theorem localFrame_strandAt {s t : State} {tile : Nat} (h : localFrame s t tile) (j r : Nat) :
    t.strandAt j r = s.strandAt j r := by
  obtain ⟨-, -, hn, ht⟩ := h
  unfold State.strandAt
  by_cases hj : j = tile
  · rw [hj, ← ht]
  · rw [hn j hj]

theorem localFrame_st {s t : State} {tile : Nat} (h : localFrame s t tile) : t.st = s.st := by
  rw [State.st, h.1, h.2.1, localFrame_strandAt h]
  rfl

/-- The error log is the control plane's (R357). -/
theorem logErr_frame (s : State) (cls unit loc tile : Nat) :
    localFrame s (s.logErr cls unit loc) tile ∧ (s.logErr cls unit loc).mem = s.mem := by
  have h : (s.logErr cls unit loc).cur = s.cur ∧ (s.logErr cls unit loc).curRec = s.curRec ∧
      (s.logErr cls unit loc).tiles = s.tiles ∧ (s.logErr cls unit loc).heaps = s.heaps ∧
      (s.logErr cls unit loc).mem = s.mem := by
    unfold State.logErr
    dsimp only
    split
    · exact ⟨rfl, rfl, rfl, rfl, rfl⟩
    · split <;> exact ⟨rfl, rfl, rfl, rfl, rfl⟩
  obtain ⟨hc, hr, ht, hh, hm⟩ := h
  exact ⟨localFrame_of_tiles tile hc hr ht hh, hm⟩

/-- A read of flipped code words keeps the bytes of memory (R347, R358). -/
theorem meetFlips_frame (s : State) (tile off n : Nat) :
    localFrame s (s.meetFlips tile off n) tile ∧ (s.meetFlips tile off n).mem = s.mem := by
  unfold State.meetFlips
  generalize (s.tileAt tile).flips.filter _ = l
  induction l generalizing s with
  | nil => exact ⟨localFrame_refl s tile, rfl⟩
  | cons f l ih =>
    have hv := localFrame_modTileAt s tile (f := fun t => { t with flips := t.flips.filter (·.1 != f.1) }) fun _ => rfl
    rw [List.foldl_cons]
    refine ⟨localFrame_trans ?_ (ih _).1, (ih _).2.trans ?_⟩ <;> dsimp only <;> split
    · exact localFrame_trans hv (localFrame_trans (localFrame_memory _ tile _ _) (logErr_frame _ 2 0 _ tile).1)
    · exact localFrame_trans hv (logErr_frame _ 1 0 _ tile).1
    · exact (logErr_frame _ 2 0 _ tile).2
    · exact (logErr_frame _ 1 0 _ tile).2

theorem stBytes_frame (s : State) (tile off : Nat) (bs : List Byte) (p : Bool) :
    localFrame s (s.stBytes tile off bs p) tile := by
  unfold State.stBytes
  split
  · exact localFrame_refl s tile
  · have hflips := localFrame_modTileAt s tile
      (f := fun t => { t with
        flips := t.flips.filter fun f => !(decide (off ≤ f.1) && decide (f.1 + 8 ≤ off + bs.length)) }) fun _ => rfl
    have hmet := localFrame_trans hflips (meetFlips_frame _ tile off bs.length).1
    have hsoil := localFrame_trans hmet (localFrame_modTileAt _ tile (f := fun t => t.soil off bs.length) fun _ => rfl)
    exact localFrame_trans hsoil (localFrame_memory _ tile _ _)

/-- A write of local bytes leaves every other byte of memory alone. -/
theorem rdByte_stBytes_out (s : State) (tile off : Nat) (bs : List Byte) (p : Bool) {a : Nat}
    (h : a < sramKey tile off ∨ sramKey tile off + bs.length ≤ a) :
    rdByte (s.stBytes tile off bs p).mem a = rdByte s.mem a := by
  unfold State.stBytes
  split
  · rfl
  · dsimp only
    rw [rdByte_wrBytes_out _ _ h, modTileAt_mem, (meetFlips_frame _ tile off _).2, modTileAt_mem]

theorem putLocal_frame (s : State) (ea : Nat) (bs : List Byte) (p : Bool) :
    localFrame s (s.putLocal ea bs p) s.cur := by
  unfold State.putLocal
  split
  · exact localFrame_refl s _
  · exact stBytes_frame s s.cur ea bs p

/-! ### Store queues (R57, R106) -/

theorem wrDst_sq {s : State} {sp : BitVec 8} (x : Word) (p : Bool) (h : isSq sp = true) :
    s.wrDst sp x p = s.pushSq (opIdx sp - 4) x p := by
  simp [State.wrDst, isG_of_isSq h, h]

theorem pushSq_entry {s : State} {q : Nat} (x : Word) (p : Bool) (hd : s.st.drainsOf q = [])
    (hn : (s.st.sqOf q).length < s.st.depth (4 + q)) :
    s.pushSq q x p = .ok (s.modSt fun st => { st with sq := st.sq.put q (st.sqOf q ++ [(x, p)]) }) := by
  simp [State.pushSq, hd, Nat.not_le.mpr hn]

theorem pushSq_full {s : State} {q : Nat} (x : Word) (p : Bool) (hd : s.st.drainsOf q = [])
    (hn : s.st.depth (4 + q) ≤ (s.st.sqOf q).length) : ∃ w, s.pushSq q x p = .error (.stall w) := by
  simp [State.pushSq, hd, hn, stallE]

section
variable {s : State} {q : Nat} {d : Drain} {rest : List Drain} (x : Word) {p : Bool}
  (hd : s.st.drainsOf q = d :: rest)
include hd

/-- A poisoned value for a pending drain without `.ppass` traps (R103). -/
theorem pushSq_poison (hp : p = true) (hn : d.ppass = false) : s.pushSq q x p = .error (.trap .poison 0) := by
  simp [State.pushSq, hd, State.drain, hp, hn, trapE, bind, Except.bind]

/-- A value for a pending drain is stored by an unpaired strand (R106). -/
theorem pushSq_drain (hp : p = false ∨ d.ppass = true) (hf : s.st.folw = false) :
    s.pushSq q x p = .ok (((s.putLocal d.ea (natToBytes d.bytes x.toNat) p).modSt fun st =>
      st.noteDrain d.ea (natToBytes d.bytes x.toNat)).modSt fun st => { st with drains := st.drains.put q rest }) := by
  have hpp : (p && !d.ppass) = false := by rcases hp with rfl | h <;> simp [*]
  simp [State.pushSq, hd, State.drain, hpp, hf, bind, Except.bind, pure, Except.pure]
end

theorem noteDrain_unpaired {st : Strand} (h : st.partner = none) (ea : Nat) (bs : List Byte) :
    st.noteDrain ea bs = st := by
  simp [Strand.noteDrain, h]

/-! ### The statement -/

/-- A source that reads from its file (R45 to R47, R57, R90). -/
theorem sources_read (s : State) (sp : BitVec 8) :
    (isG sp = true → opIdx sp = 0 → s.rdSrc sp = .ok ((0, false), s)) ∧
    (isG sp = true → opIdx sp ≠ 0 →
      s.rdSrc sp = .ok ((s.st.g.val 0 (opIdx sp), s.st.gp.getLsbD (opIdx sp)), s)) ∧
    (isZero sp = true → s.rdSrc sp = .ok ((0, false), s)) ∧
    (∀ v p rest, isLq sp = true → s.st.lqOf (opIdx sp) = .held v p :: rest →
      ∃ t, s.rdSrc sp = .ok ((v, p), t) ∧ t.st.lqOf (opIdx sp) = rest ∧ Rules.onlyStrand s t ∧
        (∀ q, q ≠ opIdx sp → t.st.lqOf q = s.st.lqOf q) ∧ { t.st with lq := s.st.lq } = s.st) ∧
    (isLq sp = true → (∀ v p rest, s.st.lqOf (opIdx sp) ≠ .held v p :: rest) →
      ∃ w, s.rdSrc sp = .error (.stall w)) := by
  refine ⟨fun hg h0 => ?_, fun hg h0 => ?_, rdSrc_zero, fun v p rest hl hh => ?_, fun hl hh => ?_⟩
  · rw [rdSrc_g hg, h0]
    rfl
  · simp [rdSrc_g hg, Strand.rg, Strand.rgp, h0]
  · refine ⟨_, (rdSrc_lq hl).trans (popLq_held hh), ?_, onlyStrand_modSt s _, fun q hq => ?_, ?_⟩
    · rw [st_modSt, lqOf_put_same]
    · rw [st_modSt, lqOf_put_ne _ _ hq]
    · rw [st_modSt]
  · rw [rdSrc_lq hl]
    exact popLq_waits hh

/-- Settles O3: each file's own rule of reading, its own rule of writing, and the registers that are constant. -/
theorem operandsReadAndWriteTheirFile : Obligations.OperandsReadAndWriteTheirFile := by
  refine ⟨sources_read, fun s sp x p => ⟨fun hg h0 => ?_, fun hg h0 => ?_, fun hz => ?_, fun hq hd hn => ?_,
    fun hq hd hn => ?_, fun d rest hq hd hp hf => ⟨fun hx hn => ?_, fun hx => ?_⟩⟩,
    fun st x p m => ⟨rfl, rfl, rfl, rfl, rfl⟩⟩
  · refine ⟨_, wrDst_g x p hg, ?_, ?_, onlyStrand_modSt s _, ?_, fun n hn => ?_⟩ <;> rw [st_modSt]
    · exact rg_wg_same _ _ _ h0
    · exact rgp_wg_same _ _ _ h0 (opIdx_lt sp)
    · exact wg_frame _ _ _ _
    · exact ⟨rg_wg_ne _ _ _ hn, rgp_wg_ne _ _ _ hn⟩
  · refine ⟨_, wrDst_g x p hg, ?_, onlyStrand_modSt s _⟩
    rw [st_modSt, h0, wg_zero]
  · obtain ⟨hg, -, hs⟩ := file_of_isZero hz
    exact wrDst_discard x p hg hs
  · refine ⟨_, (wrDst_sq x p hq).trans (pushSq_entry x p hd ?_), onlyStrand_modSt s _, ?_⟩
    · rwa [four_add_of_isSq hq]
    · rw [st_modSt]
      exact val_put_same _ _ _ _
  · rw [wrDst_sq x p hq]
    exact pushSq_full x p hd (by rwa [four_add_of_isSq hq])
  · rw [wrDst_sq x p hq]
    exact pushSq_poison x hd hx hn
  · have hput := putLocal_frame s d.ea (natToBytes d.bytes x.toNat) p
    refine ⟨_, (wrDst_sq x p hq).trans (pushSq_drain x hd hx hf), ?_, ?_, rfl, rfl, fun n hn => ?_⟩
    · rw [st_modSt]
      exact val_put_same _ _ _ _
    · rw [modSt_modSt, localFrame_st hput, noteDrain_unpaired hp]
    · rw [tileAt_modSt_ne, tileAt_modSt_ne, hput.2.2.1 n hn]
      · rw [hput.1]
        exact hn.symm
      · rw [modSt_cur, hput.1]
        exact hn.symm

/-! ### The frame of scalar instructions (R76, R106) -/

/-- A strand with a pending drain of `sq0`, whose mask `k1` is all zeros. -/
def drainWaits : State :=
  { tiles := [(0, { strands := [(0,
      { slot := some 0, kind := 2, drains := [(0, [{ ea := 0x100, bytes := 8, ppass := false }])] })] })] }

/-- A push into `sq0` under `k1`. -/
def pushUnderK1 : Fields := { d := 0xe4, a := 0xff, prd := 1 }

theorem pushUnderK1_issues : drainWaits.issues (.mov pushUnderK1) :=
  ⟨rfl, by decide, nofun, by decide +kernel, rfl, rfl⟩

/-- With its predicate off the push only moves the PC: the drain stays pending (R76). -/
theorem pushUnderK1_off : exec (.mov pushUnderK1) drainWaits = .next drainWaits.retire :=
  guardedOp_off _ pushUnderK1_issues (by decide) rfl

/-- Refutes O4: the statement lets a push into a store queue with a pending drain always take that drain, but its
premise holds too of an instruction whose predicate is off, which changes nothing but the PC (R76). -/
theorem not_scalarInstructionsChangeOnlyTheirDestination :
    ¬ Obligations.ScalarInstructionsChangeOnlyTheirDestination := by
  intro h
  obtain ⟨-, hpush⟩ := h (.mov pushUnderK1) 0xe4 [0xff] drainWaits drainWaits.retire rfl pushUnderK1_issues
    pushUnderK1_off rfl
  obtain ⟨-, -, -, -, -, -, hdrain⟩ := hpush rfl
  obtain ⟨-, hgone, -⟩ := hdrain _ _ rfl
  exact absurd hgone (by decide)

/-! ### Lane claims (R120, R121) -/

/-- The issuing strand after a change of its tile. -/
theorem st_modTl (s : State) (f : Tile → Tile) : (s.modTl f).st = (f s.tl).strands.val {} s.curRec := by
  simp [State.modTl, State.st, State.strandAt, State.tl]

theorem strand_modStrand_same (t : Tile) (r : Nat) (f : Strand → Strand) :
    (t.modStrand r f).strands.val {} r = f (t.strands.val {} r) := val_put_same _ _ _ _

/-- `vclaim` has released the grant and put its request into the claim queue. -/
def claimAsked (f : Fields) (s : State) : State :=
  (s.modSt fun st => { st with
      vl := 0, vreq := some (bitsN f.imm.toNat 4 3 + 1, bitsN f.imm.toNat 0 3 + 1, f.d) }).modTl
    fun t => { t with vwait := t.vwait ++ [s.curRec] }

theorem claimAsked_st (f : Fields) (s : State) : (claimAsked f s).st = { s.st with
    vl := 0, vreq := some (bitsN f.imm.toNat 4 3 + 1, bitsN f.imm.toNat 0 3 + 1, f.d) } := by
  rw [claimAsked, st_modTl, tl_modSt]
  exact val_put_same _ _ _ _

theorem claimAsked_curRec (f : Fields) (s : State) : (claimAsked f s).curRec = s.curRec := rfl

theorem claimAsked_vwait (f : Fields) {s : State} (h : s.tl.vwait = []) :
    (claimAsked f s).tl.vwait = [s.curRec] := by
  rw [claimAsked, tl_modTl, tl_modSt]
  simp [Tile.modStrand, h]

theorem claimHead_alone {t : Tile} {r lo hi : Nat} {d : BitVec 8} (hw : t.vwait = [r])
    (hr : (t.strands.val {} r).vreq = some (lo, hi, d)) : t.claimHead = some (r, lo, hi) := by
  simp only [Tile.claimHead, hw, hr]

/-- The head of the claim queue is granted where MIN groups are free (R120). -/
theorem grantHead_free {t : Tile} {r lo hi : Nat} {d : BitVec 8} (hw : t.vwait = [r])
    (hr : (t.strands.val {} r).vreq = some (lo, hi, d)) (hf : lo ≤ t.freeGroups) :
    t.grantHead = ({ t with vwait := [] } : Tile).modStrand r fun st =>
      { st with vl := 8 * min hi t.freeGroups, vreq := st.vreq.map fun q => (0, 0, q.2.2), vc := 0 } := by
  simp [Tile.grantHead, claimHead_alone hw hr, hf, hw]

theorem grantHead_short {t : Tile} {r lo hi : Nat} {d : BitVec 8} (hw : t.vwait = [r])
    (hr : (t.strands.val {} r).vreq = some (lo, hi, d)) (hf : t.freeGroups < lo) : t.grantHead = t := by
  simp [Tile.grantHead, claimHead_alone hw hr, Nat.not_le.mpr hf]

theorem vyield_completes {f : Fields} {s : State} (h : s.runs (.vyield f) f) (hq : s.st.vq = 0) :
    s.completes (.vyield f) (s.modSt fun st => { st with vl := 0 }) :=
  completes_of fun hs => guardedOp_ok h (if_neg (by simp [hq])) hs

section
variable {f : Fields} {s : State} (h : s.runs (.vclaim f) f)
include h

/-- A `vclaim` that issues again with its request granted completes. -/
theorem vclaim_granted {d : BitVec 8} (hr : s.st.vreq = some (0, 0, d)) :
    s.completes (.vclaim f) ((s.modSt fun st => { st with vreq := none }).wrG f.d (BitVec.ofNat 64 s.st.vl) false) := by
  refine completes_of fun hs => guardedOp_ok h ?_ hs
  simp only [hr]

variable (hr : s.st.vreq = none) (hq : s.st.vq = 0) (hw : s.tl.vwait = [])
include hr hq hw

/-- Alone in the queue and with MIN groups free, `vclaim` completes at once. -/
theorem vclaim_now (hf : bitsN f.imm.toNat 4 3 + 1 ≤ (claimAsked f s).tl.freeGroups) :
    ∃ s2 : State, s2.st.vl = 8 * min (bitsN f.imm.toNat 0 3 + 1) (claimAsked f s).tl.freeGroups ∧ s2.st.vreq = none ∧
      s2.tl.vwait = [] ∧ s2.mem = s.mem ∧ s.completes (.vclaim f) (s2.wrG f.d
        (BitVec.ofNat 64 (8 * min (bitsN f.imm.toNat 0 3 + 1) (claimAsked f s).tl.freeGroups)) false) := by
  have hwait := claimAsked_vwait f hw
  have hreq : ((claimAsked f s).tl.strands.val {} s.curRec).vreq =
      some (bitsN f.imm.toNat 4 3 + 1, bitsN f.imm.toNat 0 3 + 1, f.d) := congrArg Strand.vreq (claimAsked_st f s)
  have hgrant := grantHead_free hwait hreq hf
  have hst : ((claimAsked f s).modTl Tile.grantHead).st.vl =
        8 * min (bitsN f.imm.toNat 0 3 + 1) (claimAsked f s).tl.freeGroups ∧
      ((claimAsked f s).modTl Tile.grantHead).st.vreq = some (0, 0, f.d) := by
    rw [st_modTl, hgrant, claimAsked_curRec, strand_modStrand_same]
    exact ⟨rfl, by rw [hreq]; rfl⟩
  obtain ⟨hvl, hvreq⟩ := hst
  refine ⟨((claimAsked f s).modTl Tile.grantHead).modSt fun st => { st with vreq := none }, ?_, ?_, ?_, rfl,
    completes_of fun hs => guardedOp_ok h ?_ hs⟩
  · rw [st_modSt, hvl]
  · rw [st_modSt]
  · rw [tl_modSt, tl_modTl, hgrant]
    rfl
  · simp only [hr, hq, ne_eq, not_true_eq_false, if_false]
    rw [← claimAsked, hwait]
    simp only [List.length_singleton, if_true, hvreq, hvl]

/-- With fewer than MIN groups free the strand is held with its request in the queue and no lanes. -/
theorem vclaim_waits (hf : (claimAsked f s).tl.freeGroups < bitsN f.imm.toNat 4 3 + 1)
    (hp : pcForm s.st.npc = true) : exec (.vclaim f) s = .next ((claimAsked f s).holdOn { idle := some 8 }) := by
  have hwait := claimAsked_vwait f hw
  have hreq : ((claimAsked f s).tl.strands.val {} s.curRec).vreq =
      some (bitsN f.imm.toNat 4 3 + 1, bitsN f.imm.toNat 0 3 + 1, f.d) := congrArg Strand.vreq (claimAsked_st f s)
  have hvreq : ((claimAsked f s).modTl Tile.grantHead).st.vreq =
      some (bitsN f.imm.toNat 4 3 + 1, bitsN f.imm.toNat 0 3 + 1, f.d) := by
    rw [st_modTl, grantHead_short hwait hreq hf]
    exact hreq
  refine guardedOp_hold h ?_ (runsOff_of_slot hp)
  simp only [hr, hq, ne_eq, not_true_eq_false, if_false]
  rw [← claimAsked, hwait]
  simp only [List.length_singleton, if_true, hvreq]
end

/-! ### Mask instructions (R141) -/

/-- `popFrom` counts the bits set below n. -/
theorem popFrom_eq (x n : Nat) : popFrom x n = ((List.range n).filter x.testBit).length := by
  induction n with
  | zero => rfl
  | succ n ih =>
    rw [popFrom, ih, List.range_succ, List.filter_append, List.length_append, Nat.add_comm]
    cases h : x.testBit n <;> simp [h, b2n]

/-- `ctzFrom` gives the place of the first bit set from i on, or n where none of n bits is. -/
theorem ctzFrom_eq {x i n m : Nat} (hm : m ≤ n) (hz : ∀ j, j < m → x.testBit (i + j) = false)
    (ho : m < n → x.testBit (i + m) = true) : ctzFrom x i n = m := by
  induction n generalizing i m with
  | zero => exact (Nat.le_zero.mp hm).symm
  | succ n ih =>
    cases m with
    | zero => simp [ctzFrom, show x.testBit i = true from ho (Nat.succ_pos n)]
    | succ m =>
      have h0 : x.testBit i = false := hz 0 (Nat.succ_pos m)
      have hrest : ctzFrom x (i + 1) n = m := by
        refine ih (Nat.le_of_succ_le_succ hm) (fun j hj => ?_) fun h => ?_
        · rw [Nat.add_assoc, Nat.add_comm 1 j]
          exact hz (j + 1) (Nat.succ_lt_succ hj)
        · rw [Nat.add_assoc, Nat.add_comm 1 m]
          exact ho (Nat.succ_lt_succ h)
      simp [ctzFrom, h0, hrest]

/-- The vector queue has room for a mask command: always where the strand holds no lanes (log 12). -/
def maskRoom (s : State) : Prop := s.st.vl = 0 ∨ s.st.vq < 2

theorem enterV_of_room {s : State} (h : maskRoom s) : s.enterV = .ok (Rules.queued s) := by
  unfold State.enterV Rules.queued
  split
  · rfl
  · have hq : ¬ 2 ≤ s.st.vq := by
      rcases h with h | h
      · contradiction
      · exact Nat.not_le.mpr h
    exact if_neg hq

theorem maskRoom_wrG {s : State} (h : maskRoom s) (d : BitVec 8) (x : Word) (p : Bool) : maskRoom (s.wrG d x p) := by
  unfold State.wrG
  split
  · unfold maskRoom
    rw [st_modSt]
    have hf := wg_frame s.st (opIdx d) x p
    rwa [maskRoom, ← hf] at h
  · exact h

theorem wk_frame (st : Strand) (n : Nat) (x : BitVec 64) : { st.wk n x with k := st.k } = st := by
  unfold Strand.wk
  split <;> rfl

theorem maskRoom_wrK {s : State} (h : maskRoom s) (d : BitVec 8) (x sel : BitVec 64) (p : Bool) :
    maskRoom (s.wrK d x sel p) := by
  unfold State.wrK maskRoom
  rw [st_modSt]
  have hf := wk_frame s.st (opIdx d) (x &&& sel ||| s.st.rk (opIdx d) &&& ~~~sel)
  rwa [maskRoom, ← hf] at h

theorem maskRoom_rdSrc {s t : State} {sp : BitVec 8} {x : Word × Bool} (h : maskRoom s)
    (hr : s.rdSrc sp = .ok (x, t)) : maskRoom t := by
  obtain ⟨-, hf, -⟩ := rdSrc_frame hr
  rwa [maskRoom, ← hf] at h

/-- A mask instruction whose effect leaves room in the queue completes with its command queued. -/
theorem mask_completes {i : Instr} {s t : State} {body : State → Body State} (h : s.issues i)
    (he : exec i s = strandOp i s body) (hb : body s = t.enterV) (ht : maskRoom t) :
    s.completes i (Rules.queued t) :=
  completes_of fun hs => he.trans (strandOp_ok h (hb.trans (enterV_of_room ht)) hs)

theorem exec_kpop (f : Fields) (s : State) : exec (.kpop f) s = execKpop f s := rfl
theorem exec_kfirst (f : Fields) (s : State) : exec (.kfirst f) s = execKfirst f s := rfl
theorem exec_kmov (f : Fields) (s : State) : exec (.kmov f) s = execKmov f s := rfl

section
variable {f : Fields} {s : State} (hv : maskRoom s)
include hv

theorem kpop_completes (h : s.issues (.kpop f)) : s.completes (.kpop f) (Rules.queued (s.wrG f.d
    (BitVec.ofNat 64 ((List.range 64).filter fun j =>
      (s.st.rk (opIdx f.a) &&& predMask f s.st).getLsbD j).length) false)) := by
  have hn : popFrom (s.st.rk (opIdx f.a) &&& predMask f s.st).toNat 64 = ((List.range 64).filter fun j =>
      (s.st.rk (opIdx f.a) &&& predMask f s.st).getLsbD j).length := by
    rw [popFrom_eq]
    exact congrArg (fun p => ((List.range 64).filter p).length) (funext fun j => BitVec.testBit_toNat _)
  rw [← hn]
  exact mask_completes h (exec_kpop f s) rfl (maskRoom_wrG hv _ _ _)

theorem kfirst_completes {n : Nat} (h : s.issues (.kfirst f)) (hn : n ≤ 64)
    (hz : ∀ j, j < n → (s.st.rk (opIdx f.a) &&& predMask f s.st).getLsbD j = false)
    (ho : n < 64 → (s.st.rk (opIdx f.a) &&& predMask f s.st).getLsbD n = true) :
    s.completes (.kfirst f) (Rules.queued (s.wrG f.d (BitVec.ofNat 64 n) false)) := by
  have hc : ctzFrom (s.st.rk (opIdx f.a) &&& predMask f s.st).toNat 0 64 = n := by
    refine ctzFrom_eq hn (fun j hj => ?_) fun h => ?_
    · rw [Nat.zero_add, BitVec.testBit_toNat, hz j hj]
    · rw [Nat.zero_add, BitVec.testBit_toNat, ho h]
  rw [← hc]
  exact mask_completes h (exec_kfirst f s) rfl (maskRoom_wrG hv _ _ _)

theorem kmov_mask (h : s.issues (.kmov f)) (ha : isK f.a = true) (hd : isK f.d = true) :
    s.completes (.kmov f) (Rules.queued (s.wrK f.d (s.st.rk (opIdx f.a)) (predMask f s.st) false)) := by
  refine mask_completes h (exec_kmov f s) ?_ (maskRoom_wrK hv _ _ _ _)
  simp only [ha, hd, if_true]

theorem kmov_toG (h : s.issues (.kmov f)) (ha : isK f.a = true) (hd : isK f.d = false) :
    s.completes (.kmov f) (Rules.queued (s.wrG f.d (s.st.rk (opIdx f.a) &&& predMask f s.st) false)) := by
  refine mask_completes h (exec_kmov f s) ?_ (maskRoom_wrG hv _ _ _)
  simp only [ha, hd, if_true, Bool.false_eq_true, if_false]

theorem kmov_fromSource {s1 : State} {x : Word × Bool} (h : s.issues (.kmov f)) (ha : isK f.a = false)
    (hr : s.rdSrc f.a = .ok (x, s1)) :
    s.completes (.kmov f) (Rules.queued (s1.wrK f.d (if x.2 then 0 else x.1) (predMask f s.st) x.2)) := by
  refine mask_completes h (exec_kmov f s) ?_ (maskRoom_wrK (maskRoom_rdSrc hv hr) _ _ _ _)
  simp only [ha, hr, bind, Except.bind, Bool.false_eq_true, if_false]
end

/-- Settles O20: a lemma per lane claim and per mask instruction. -/
theorem laneClaimsAndMasksTakeEffect : Obligations.LaneClaimsAndMasksTakeEffect := by
  refine ⟨fun f s => ⟨vyield_completes, fun d h hr => vclaim_granted h hr, fun h hr hq hw => ⟨vclaim_now h hr hq hw,
    fun hf hp => ⟨_, vclaim_waits h hr hq hw hf hp, rfl, ?_, ?_⟩⟩⟩, fun f s s1 x hv => ⟨fun q hq h => ?_, kpop_completes hv,
    fun n h => kfirst_completes hv h, kmov_mask hv, kmov_toG hv, kmov_fromSource hv⟩⟩
  · change ((claimAsked f s).modSt _).st.vl = 0
    rw [st_modSt, claimAsked_st]
  · change ((claimAsked f s).modSt _).tl.vwait = [s.curRec]
    rw [tl_modSt]
    exact claimAsked_vwait f hw
  · simp only [List.mem_cons, List.not_mem_nil, or_false] at hq
    rcases hq with rfl | rfl | rfl | rfl <;> exact mask_completes h rfl rfl (maskRoom_wrK hv _ _ _ _)

/-! ### Suspension (R57, R58, R121, R176) -/

theorem natToBytes_length (n x : Nat) : (natToBytes n x).length = n := by
  induction n generalizing x with
  | zero => rfl
  | succ n ih => rw [natToBytes, List.length_cons, ih]

theorem record_length (st : Strand) : st.record.length = 64 := by
  simp only [Strand.record, List.length_append, natToBytes_length]

theorem localFrame_ready {s t : State} {tile : Nat} (h : localFrame s t tile) :
    (t.tileAt tile).ready = (s.tileAt tile).ready := by
  obtain ⟨-, -, -, ht⟩ := h
  rw [← ht]

theorem localFrame_draw (s : State) (tile : Nat) : localFrame s s.draw tile :=
  localFrame_of_tiles tile rfl rfl rfl rfl

/-- The tables that a suspension point may drop are all that it changes of a tile (R52, R162). -/
theorem maybeDrop_frame (s : State) (tile r : Nat) :
    localFrame s (s.maybeDrop tile r) tile ∧ (s.maybeDrop tile r).mem = s.mem := by
  have hdrop : ∀ (b : Bool) (u : State) (j : Nat),
      let v := if b then (u.modTileAt tile fun t => { t with tb := t.tb.put j (t.tb.val {} j).dropped }).draw else u.draw
      localFrame u v tile ∧ v.mem = u.mem := by
    intro b u j
    cases b with
    | false => exact ⟨localFrame_draw u tile, rfl⟩
    | true => exact ⟨localFrame_trans (localFrame_modTileAt u tile
        (f := fun t => { t with tb := t.tb.put j (t.tb.val {} j).dropped }) fun _ => rfl) (localFrame_draw _ tile), rfl⟩
  unfold State.maybeDrop
  dsimp only
  split
  · exact ⟨localFrame_refl s tile, rfl⟩
  · obtain ⟨hf, hm⟩ := hdrop _ s _
    obtain ⟨hf', hm'⟩ := hdrop _ _ _
    exact ⟨localFrame_trans hf hf', hm'.trans hm⟩

theorem writeRecord_frame (s : State) (tile r : Nat) : localFrame s (s.writeRecord tile r) tile :=
  stBytes_frame s tile _ _ _

/-- Work on its own tile alone has made `u` the issuing strand and `ready` the tile's queue of runnable records. -/
def becomes (s t : State) (u : Strand) (ready : List Nat) : Prop :=
  t.cur = s.cur ∧ t.curRec = s.curRec ∧ (∀ n, n ≠ s.cur → t.tileAt n = s.tileAt n) ∧ t.st = u ∧ t.tl.ready = ready

theorem becomes_of_local {s t : State} (h : localFrame s t s.cur) : becomes s t s.st s.tl.ready := by
  have hready := localFrame_ready h
  have hst := localFrame_st h
  obtain ⟨hc, hr, hn, -⟩ := h
  exact ⟨hc, hr, hn, hst, by rw [State.tl, hc, hready]; rfl⟩

theorem becomes_trans {s t v : State} {u u' : Strand} {l l' : List Nat} (h : becomes s t u l) (h' : becomes t v u' l') :
    becomes s v u' l' := by
  obtain ⟨hc, hr, hn, -, -⟩ := h
  obtain ⟨hc', hr', hn', hst, hl⟩ := h'
  exact ⟨hc'.trans hc, hr'.trans hr, fun n hne => (hn' n (by rwa [hc])).trans (hn n hne), hst, hl⟩

theorem becomes_modTl (s : State) (f : Tile → Tile) :
    becomes s (s.modTl f) ((f s.tl).strands.val {} s.curRec) (f s.tl).ready :=
  ⟨rfl, rfl, fun _ hn => tileAt_modTileAt_ne s f hn.symm, st_modTl s f, by rw [tl_modTl]⟩

/-- What a suspension makes of a strand while it stands in its slot. -/
def stopped (s : State) (kind scp swa : Nat) (gen : BitVec 32) (pc : Word) : Strand :=
  { s.st.closeRegion with
    kind := kind, scp := scp, swa := swa, gen := gen, pc := pc, target := none, vreq := none, hold := 0,
    stall := some { idle := some 8 }, fence := none, tlbinv := none, leaving := true, since := s.freeCtr }

/-- A suspended strand that has left its slot. -/
def outOfSlot (st : Strand) : Strand :=
  { st.emptyQueues with slot := none, vl := 0, vq := 0, stall := none, leaving := false, stale := true }

theorem leaveSlot_becomes (s : State) : becomes s (s.leaveSlot s.cur s.curRec) (outOfSlot s.st) s.tl.ready ∧
    (s.leaveSlot s.cur s.curRec).mem = s.mem := by
  have hout : becomes s (s.modSt outOfSlot) (outOfSlot s.st) s.tl.ready := by
    have h := becomes_modTl s fun t => t.modStrand s.curRec outOfSlot
    rwa [strand_modStrand_same] at h
  obtain ⟨hf, hm⟩ := maybeDrop_frame (s.modSt outOfSlot) s.cur s.curRec
  have h := becomes_trans hout (becomes_of_local hf)
  obtain ⟨-, -, -, -, hready⟩ := hout
  rw [st_modSt, hready] at h
  exact ⟨h, hm⟩

/-- The strand has taken its wait descriptor, and a `vclaim` of its waits no more. -/
def noted (s : State) (kind scp swa : Nat) (gen : BitVec 32) (pc : Word) : State :=
  s.modTl fun t => { t.modStrand s.curRec fun _ => stopped s kind scp swa gen pc with
    vwait := t.vwait.filter (· != s.curRec) }

section
variable (s : State) (kind scp swa : Nat) (gen : BitVec 32) (pc : Word)

/-- The strand is noted in its record, and in the queue of runnable records where it is runnable. -/
def recorded : State :=
  let u := (noted s kind scp swa gen pc).writeRecord s.cur s.curRec
  if kind = 1 then u.modTileAt s.cur fun t => { t with ready := t.ready ++ [s.curRec] } else u

theorem recorded_becomes : becomes s (recorded s kind scp swa gen pc) (stopped s kind scp swa gen pc)
    (if kind = 1 then s.tl.ready ++ [s.curRec] else s.tl.ready) := by
  have hnoted : becomes s (noted s kind scp swa gen pc) (stopped s kind scp swa gen pc) s.tl.ready := by
    have h := becomes_modTl s fun t => { t.modStrand s.curRec fun _ => stopped s kind scp swa gen pc with
      vwait := t.vwait.filter (· != s.curRec) }
    rwa [strand_modStrand_same] at h
  have hrec := becomes_trans hnoted (becomes_of_local (writeRecord_frame _ s.cur s.curRec))
  obtain ⟨-, -, -, hst, hready⟩ := hnoted
  rw [hst, hready] at hrec
  unfold recorded
  dsimp only
  split
  · have h := becomes_trans hrec (becomes_modTl _ fun t => { t with ready := t.ready ++ [s.curRec] })
    obtain ⟨hc, -, -, hst, hready⟩ := hrec
    rw [State.modTl, hc, hready] at h
    rwa [← hst]
  · exact hrec

theorem suspendAt_eq : s.suspendAt s.cur s.curRec kind scp swa gen pc =
    (if ((recorded s kind scp swa gen pc).strandAt s.cur s.curRec).vq = 0 then
      (recorded s kind scp swa gen pc).leaveSlot s.cur s.curRec else recorded s kind scp swa gen pc).draw := rfl

theorem becomes_draw {t : State} {u : Strand} {l : List Nat} (h : becomes s t u l) : becomes s t.draw u l := by
  have h' := becomes_trans h (becomes_of_local (localFrame_draw t t.cur))
  obtain ⟨-, -, -, hst, hready⟩ := h
  rwa [hst, hready] at h'

/-- What a suspension makes of the issuing strand, and of the queue of runnable records. -/
theorem suspendAt_becomes : becomes s (s.suspendAt s.cur s.curRec kind scp swa gen pc)
    (if s.st.vq = 0 then outOfSlot (stopped s kind scp swa gen pc) else stopped s kind scp swa gen pc)
    (if kind = 1 then s.tl.ready ++ [s.curRec] else s.tl.ready) := by
  have hrec := recorded_becomes s kind scp swa gen pc
  obtain ⟨hc, hr, -, hst, hready⟩ := id hrec
  have hat : (recorded s kind scp swa gen pc).strandAt s.cur s.curRec = stopped s kind scp swa gen pc := by
    rw [← hst, State.st, hc, hr]
  rw [suspendAt_eq, hat, show (stopped s kind scp swa gen pc).vq = s.st.vq from rfl]
  split
  · obtain ⟨hleave, -⟩ := leaveSlot_becomes (recorded s kind scp swa gen pc)
    rw [hc, hr, hst, hready] at hleave
    exact becomes_draw s (becomes_trans hrec hleave)
  · exact becomes_draw s hrec

theorem suspendAt_mem : (s.suspendAt s.cur s.curRec kind scp swa gen pc).mem =
    ((noted s kind scp swa gen pc).writeRecord s.cur s.curRec).mem := by
  have hrec : (recorded s kind scp swa gen pc).mem = ((noted s kind scp swa gen pc).writeRecord s.cur s.curRec).mem := by
    by_cases hk : kind = 1
    · rw [recorded, if_pos hk, modTileAt_mem]
    · rw [recorded, if_neg hk]
  rw [suspendAt_eq, draw_mem, ← hrec]
  split
  · obtain ⟨hc, hr, -, -, -⟩ := recorded_becomes s kind scp swa gen pc
    obtain ⟨-, hm⟩ := leaveSlot_becomes (recorded s kind scp swa gen pc)
    rwa [hc, hr] at hm
  · rfl

/-- A suspension writes the strand's record and no other byte (R173). -/
theorem suspendAt_memKept : Rules.memKept s (s.suspendAt s.cur s.curRec kind scp swa gen pc)
    (s.cur * 2 ^ 20 + (0xff000 + 64 * s.curRec)) 64 := by
  intro x hx
  rw [suspendAt_mem, State.writeRecord, rdByte_stBytes_out, noted, modTl_mem]
  simpa only [sramKey, recAddr, poolBase, record_length] using hx
end

/-- A strand that has been stopped, out of its slot where no vector command of its is queued, is suspended. -/
theorem suspended_of_st {s t : State} {kind scp swa : Nat} {gen : BitVec 32} {pc : Word}
    (h : t.st = if s.st.vq = 0 then outOfSlot (stopped s kind scp swa gen pc) else stopped s kind scp swa gen pc) :
    Rules.suspended s t kind scp swa gen pc := by
  unfold Rules.suspended
  rw [h]
  by_cases hq : s.st.vq = 0
  · rw [if_pos hq]
    exact ⟨rfl, rfl, rfl, rfl, rfl, rfl, fun _ => ⟨rfl, rfl, rfl, rfl, rfl⟩, fun hn => absurd hq hn,
      fun _ => ⟨rfl, rfl⟩, rfl, rfl, rfl, rfl, rfl, rfl, rfl⟩
  · rw [if_neg hq]
    exact ⟨rfl, rfl, rfl, rfl, rfl, rfl, fun hz => absurd hz hq, fun _ => ⟨rfl, rfl, rfl, rfl⟩,
      fun _ => ⟨rfl, rfl⟩, rfl, rfl, rfl, rfl, rfl, rfl, rfl⟩

theorem suspendAt_suspended (s : State) (kind scp swa : Nat) (gen : BitVec 32) (pc : Word) :
    Rules.suspended s (s.suspendAt s.cur s.curRec kind scp swa gen pc) kind scp swa gen pc := by
  obtain ⟨-, -, -, hst, -⟩ := suspendAt_becomes s kind scp swa gen pc
  exact suspended_of_st hst

/-! ### The claim of a strand that exits (R148, R180) -/

theorem val?_del {α : Type} (m : SMap α) (n : Nat) : (m.del n).val? n = none := by
  induction m with
  | nil => rfl
  | cons p m ih =>
    obtain ⟨k, x⟩ := p
    rw [SMap.del]
    split
    · exact ih
    · rename_i hk
      rw [SMap.val?, if_neg hk, ih]

/-- What the grant or the end of a claim leaves of a strand: all but its claim and its request, the general registers
that take a number, and what its pair folds and forwards of them. -/
def claimOnly (st u : Strand) : Prop :=
  { u with claim := st.claim, mreq := st.mreq, g := st.g, gp := st.gp, crc := st.crc, foldQ := st.foldQ,
           fwd := st.fwd } = st ∧ (st.mreq = none → u.mreq = none)

theorem claimOnly_trans {st u v : Strand} (h : claimOnly st u) (h' : claimOnly u v) : claimOnly st v := by
  obtain ⟨h, hm⟩ := h
  obtain ⟨h', hm'⟩ := h'
  refine ⟨?_, fun hn => hm' (hm hn)⟩
  rw [← h, ← h']

/-- A grant or an end of a claim leaves the active commands of the tile, and of each strand what `claimOnly` says. -/
def claimFrame (t u : Tile) : Prop :=
  u.xact = t.xact ∧ ∀ k, claimOnly (t.strands.val {} k) (u.strands.val {} k)

theorem claimFrame_refl (t : Tile) : claimFrame t t := ⟨rfl, fun _ => ⟨rfl, id⟩⟩

theorem claimFrame_trans {t u v : Tile} (h : claimFrame t u) (h' : claimFrame u v) : claimFrame t v :=
  ⟨h'.1.trans h.1, fun k => claimOnly_trans (h.2 k) (h'.2 k)⟩

theorem claimFrame_modStrand (t : Tile) (r : Nat) {f : Strand → Strand} (hf : ∀ st, claimOnly st (f st)) :
    claimFrame t (t.modStrand r f) := by
  refine ⟨rfl, fun k => ?_⟩
  by_cases hk : r = k
  · rw [← hk, strand_modStrand_same]
    exact hf _
  · rw [Tile.modStrand, val_put_ne _ _ _ hk]
    exact ⟨rfl, id⟩

theorem lateWrite_claimOnly (st : Strand) (d : BitVec 8) (n : Nat) (x : Word) (p : Bool) (bs : List Byte) :
    claimOnly st ((st.wg n x p).foldLate d bs) := by
  unfold Strand.wg Strand.foldLate
  split
  · exact ⟨rfl, id⟩
  · exact ⟨rfl, id⟩

theorem lateG_claimFrame (t : Tile) (r : Nat) (d : BitVec 8) (x : Word) (p : Bool) : claimFrame t (t.lateG r d x p) := by
  unfold Tile.lateG
  dsimp only
  split
  · exact claimFrame_refl t
  · have hlate := claimFrame_modStrand t r fun st =>
      lateWrite_claimOnly st d (opIdx d) x p (natToBytes 8 x.toNat ++ natToBytes 1 (b2n p))
    split
    · exact claimFrame_trans hlate (claimFrame_modStrand _ _ fun _ => ⟨rfl, id⟩)
    · exact hlate

theorem grantClaim_claimFrame (t : Tile) : claimFrame t t.grantClaim := by
  unfold Tile.grantClaim
  dsimp only
  split
  · rename_i r rest c _ _
    have hslot : claimFrame t (({ t with mwait := rest, tlast := t.tlast.filter (· != r) } : Tile).clearSlot c) :=
      claimFrame_refl t
    have hgiven := claimFrame_modStrand
      (({ t with mwait := rest, tlast := t.tlast.filter (· != r) } : Tile).clearSlot c) r
      (f := fun st => { st with claim := some c, mreq := none }) fun _ => ⟨rfl, fun _ => rfl⟩
    exact claimFrame_trans hslot (claimFrame_trans hgiven (lateG_claimFrame _ r _ _ false))
  · exact claimFrame_refl t

theorem releaseClaim_claimFrame (t : Tile) (r : Nat) : claimFrame t (t.releaseClaim r) := by
  unfold Tile.releaseClaim
  split
  · rename_i c _
    have hslot : claimFrame t (t.clearSlot c) := claimFrame_refl t
    exact claimFrame_trans hslot (claimFrame_trans (claimFrame_modStrand _ r (f := fun st => { st with claim := none })
      fun _ => ⟨rfl, id⟩) (grantClaim_claimFrame _))
  · exact claimFrame_refl t

theorem withdrawClaim_claimFrame (t : Tile) (r : Nat) :
    claimFrame t (t.withdrawClaim r) ∧ ((t.withdrawClaim r).strands.val {} r).mreq = none := by
  have hmreq : claimFrame ({ t with mwait := t.mwait.filter (· != r) } : Tile)
      (({ t with mwait := t.mwait.filter (· != r) } : Tile).modStrand r fun st => { st with mreq := none }) :=
    claimFrame_modStrand _ r fun _ => ⟨rfl, fun _ => rfl⟩
  have hlate := lateG_claimFrame
    (({ t with mwait := t.mwait.filter (· != r) } : Tile).modStrand r fun st => { st with mreq := none }) r
    ((t.strands.val {} r).mreq.getD 0xff) (BitVec.allOnes 64) false
  refine ⟨claimFrame_trans (u := { t with mwait := t.mwait.filter (· != r) }) (claimFrame_refl t)
    (claimFrame_trans hmreq hlate), (hlate.2 r).2 ?_⟩
  rw [strand_modStrand_same]

theorem exitQueue_claimFrame (t : Tile) (r : Nat) : claimFrame t (t.exitQueue r) := by
  unfold Tile.exitQueue
  split
  · exact releaseClaim_claimFrame t r
  · exact claimFrame_refl t

/-- What an exit leaves of the strand's queues: no request waits; an empty table queue is empty, and one whose head is
no claim command is not, unless a request was withdrawn. -/
theorem exitClaim_spec (t : Tile) (r : Nat) :
    let st := t.strands.val {} r
    let u := (t.exitClaim r).strands.val {} r
    (t.exitClaim r).xact = t.xact ∧ u.xq = st.xq ∧ u.vq = st.vq ∧ u.mreq = none ∧ (st.tq = [] → u.tq = []) ∧
      ∀ c rest, st.mreq = none → st.tq = c :: rest → c.onClaim = false → u.tq ≠ [] := by
  dsimp only
  unfold Tile.exitClaim
  dsimp only
  split
  · rename_i hm
    obtain ⟨⟨hx, hk⟩, hn⟩ := withdrawClaim_claimFrame t r
    obtain ⟨hst, -⟩ := hk r
    rw [strand_modStrand_same]
    refine ⟨hx, by rw [← hst], by rw [← hst], hn, fun _ => rfl, fun c rest h => ?_⟩
    rw [h] at hm
    contradiction
  · rename_i hm
    rw [strand_modStrand_same]
    refine ⟨rfl, rfl, rfl, by simpa using hm, fun h => ?_, fun c rest _ h hc => ?_⟩
    · simp only [h, List.takeWhile_nil]
    · simp only [h, List.takeWhile_cons]
      unfold TCmd.onClaim at hc
      split at hc
      · contradiction
      · contradiction
      · simp

/-- The tile of a strand that exits, with its claim ended. -/
def claimEnded (s : State) : Tile := (s.tl.exitClaim s.curRec).exitQueue s.curRec

theorem claimEnded_spec (s : State) :
    let u := (claimEnded s).strands.val {} s.curRec
    (claimEnded s).xact = s.tl.xact ∧ u.xq = s.st.xq ∧ u.vq = s.st.vq ∧ u.mreq = none ∧
      (s.st.tq = [] → u.tq = []) ∧
      ∀ c rest, s.st.mreq = none → s.st.tq = c :: rest → c.onClaim = false → u.tq ≠ [] := by
  obtain ⟨hx, hk⟩ := exitQueue_claimFrame (s.tl.exitClaim s.curRec) s.curRec
  obtain ⟨hst, hm⟩ := hk s.curRec
  obtain ⟨hx', hxq, hvq, hm', htq, htq'⟩ := exitClaim_spec s.tl s.curRec
  rw [← hst] at hxq hvq htq htq'
  exact ⟨hx.trans hx', hxq, hvq, hm hm', htq, htq'⟩

/-! ### `exit` (R121, R180, R198) -/

/-- A strand that has left its slot for good. -/
def outForGood (st : Strand) : Strand :=
  { st.emptyQueues.closeRegion with
    exiting := true, slot := none, kind := 0, vl := 0, vreq := none, target := none, stall := none, hold := 0 }

theorem outForGood_out (st : Strand) : (outForGood st).exiting = true ∧ (outForGood st).slot = none ∧
    (outForGood st).vl = 0 ∧ (outForGood st).lq = [] ∧ (outForGood st).region = none ∧
    ∀ l, (outForGood st).arrived l = true :=
  ⟨rfl, rfl, rfl, rfl, rfl, fun l => by simp only [Strand.arrived, outForGood, Bool.or_true, Bool.true_or]⟩

theorem outForGood_queues (st : Strand) : (outForGood st).tq = st.tq ∧ (outForGood st).vq = st.vq ∧
    (outForGood st).xq = st.xq ∧ (outForGood st).mreq = st.mreq := ⟨rfl, rfl, rfl, rfl⟩

/-- The state of a strand that exits, before the barriers and the pool take note of it. -/
def exited (s : State) : State := (s.modTl fun _ => claimEnded s).modSt outForGood

theorem exited_st (s : State) : (exited s).st = outForGood ((claimEnded s).strands.val {} s.curRec) := by
  rw [exited, st_modSt, st_modTl]

theorem exited_xact (s : State) : (exited s).tl.xact = (claimEnded s).xact := by
  rw [exited, tl_modSt, tl_modTl]
  rfl

theorem exited_val? (s : State) : (exited s).tl.strands.val? s.curRec = some (exited s).st := by
  rw [exited_st, exited, tl_modSt, tl_modTl]
  exact val?_put_same _ _ _

/-- The timers of barrier domains are all that `startTimers` changes (R200). -/
theorem startTimers_frame (s : State) (tile n : Nat) :
    (s.startTimers tile n).cur = s.cur ∧ (s.startTimers tile n).curRec = s.curRec ∧
      (s.startTimers tile n).mem = s.mem ∧ (s.startTimers tile n).tl = s.tl ∧ (s.startTimers tile n).st = s.st := by
  have h : (s.startTimers tile n).cur = s.cur ∧ (s.startTimers tile n).curRec = s.curRec ∧
      (s.startTimers tile n).mem = s.mem ∧ (s.startTimers tile n).tiles = s.tiles ∧
      (s.startTimers tile n).heaps = s.heaps := by
    unfold State.startTimers
    generalize List.range n = l
    induction l generalizing s with
    | nil => exact ⟨rfl, rfl, rfl, rfl, rfl⟩
    | cons k l ih =>
      rw [List.foldl_cons]
      obtain ⟨hc, hr, hm, ht, hh⟩ := ih _
      rw [hc, hr, hm, ht, hh]
      dsimp only
      split <;> exact ⟨rfl, rfl, rfl, rfl, rfl⟩
  obtain ⟨hc, hr, hm, ht, hh⟩ := h
  have hframe := localFrame_of_tiles s.cur hc hr ht hh
  refine ⟨hc, hr, hm, ?_, localFrame_st hframe⟩
  unfold State.tl State.tileAt State.colours
  rw [hc, ht, hh]

/-- A record with a command left is not freed (R180). -/
theorem reap_waits {s : State} {tile r : Nat} (h : (s.tileAt tile).quiet r = false) : s.reap tile r = s := by
  unfold State.reap
  dsimp only
  split
  · rfl
  · rw [h, Bool.and_false, if_neg Bool.false_ne_true]

theorem reap_frees {s : State} {tile r : Nat} {st : Strand} (hv : (s.tileAt tile).strands.val? r = some st)
    (he : st.exiting = true) (hq : (s.tileAt tile).quiet r = true) :
    ((s.reap tile r).tileAt tile).strands.val? r = none ∧ (s.reap tile r).cur = s.cur ∧
      (s.reap tile r).curRec = s.curRec := by
  have hreap : s.reap tile r =
      (s.modTileAt tile fun t => { t with strands := t.strands.del r }).stNum tile (recAddr r + 16) 8 0 false := by
    simp only [State.reap, hv, he, hq, Bool.and_self, if_true]
  obtain ⟨hc, hr, -, ht⟩ := stBytes_frame (s.modTileAt tile fun t => { t with strands := t.strands.del r }) tile
    (recAddr r + 16) (natToBytes 8 0) false
  rw [hreap]
  refine ⟨?_, hc, hr⟩
  have hs := congrArg Tile.strands ht
  rw [tileAt_modTileAt_same] at hs
  exact (congrArg (SMap.val? · r) hs).trans (val?_del _ r)

/-- The exit keeps the commands queued that the end of the claim leaves. -/
theorem exited_queues (s : State) :
    let u := (exited s).tl.strands.val {} s.curRec
    let v := (claimEnded s).strands.val {} s.curRec
    u.tq = v.tq ∧ u.vq = v.vq ∧ u.xq = v.xq := by
  have hst : (exited s).tl.strands.val {} s.curRec = (exited s).st := rfl
  dsimp only
  rw [hst, exited_st]
  obtain ⟨ht, hv, hx, -⟩ := outForGood_queues ((claimEnded s).strands.val {} s.curRec)
  exact ⟨ht, hv, hx⟩

theorem exited_drained (s : State) : (exited s).tl.drained s.curRec = s.tl.drained s.curRec := by
  obtain ⟨hx, -⟩ := claimEnded_spec s
  unfold Tile.drained
  rw [exited_xact, hx]

theorem quiet_iff {t : Tile} {r : Nat} : t.quiet r = true ↔
    (t.strands.val {} r).tq = [] ∧ (t.strands.val {} r).vq = 0 ∧ (t.strands.val {} r).xq = [] ∧ t.drained r = true := by
  unfold Tile.quiet
  simp only [Bool.and_eq_true, List.isEmpty_iff, beq_iff_eq, and_assoc]

theorem exited_quiet {s : State} (h : s.tl.quiet s.curRec = true) : (exited s).tl.quiet s.curRec = true := by
  obtain ⟨htq, hvq, hxq, hdr⟩ := quiet_iff.mp h
  obtain ⟨-, hxq', hvq', -, htq', -⟩ := claimEnded_spec s
  obtain ⟨et, ev, ex⟩ := exited_queues s
  exact quiet_iff.mpr ⟨et.trans (htq' htq), ev.trans (hvq'.trans hvq), ex.trans (hxq'.trans hxq),
    (exited_drained s).trans hdr⟩

theorem exited_loud {s : State} (h : s.st.xq ≠ [] ∨ s.tl.drained s.curRec = false ∨
      s.st.mreq = none ∧ ∃ c rest, s.st.tq = c :: rest ∧ c.onClaim = false) :
    (exited s).tl.quiet s.curRec = false := by
  obtain ⟨-, hxq, -, -, -, htq⟩ := claimEnded_spec s
  obtain ⟨et, -, ex⟩ := exited_queues s
  refine Bool.eq_false_iff.mpr fun hquiet => ?_
  obtain ⟨htq', -, hxq', hdr⟩ := quiet_iff.mp hquiet
  obtain hx | hd | ⟨hm, c, rest, htc, hc⟩ := h
  · exact hx (hxq.symm.trans (ex.symm.trans hxq'))
  · exact Bool.false_ne_true (hd.symm.trans ((exited_drained s).symm.trans hdr))
  · exact htq c rest hm htc hc (et.symm.trans htq')

/-- The timers of the barriers change nothing of the exited strand's tile. -/
theorem exited_timed (s : State) : ((exited s).startTimers s.cur 5).tileAt s.cur = (exited s).tl := by
  obtain ⟨hc, -, -, htl, -⟩ := startTimers_frame (exited s) s.cur 5
  have hcur : ((exited s).startTimers s.cur 5).cur = s.cur := hc
  rw [← htl, State.tl, hcur]

theorem exit_completes {f : Fields} {s : State} (h : s.runs (.exit f) f) (hp : s.st.pkt = none) (hq : s.st.vq = 0) :
    s.completes (.exit f) (((exited s).startTimers s.cur 5).reap s.cur s.curRec) := by
  refine completes_of fun hs => guardedOp_ok h ?_ hs
  simp only [hp, hq, Option.isSome_none, guardT, Bool.false_eq_true, if_false, ne_eq, not_true_eq_false, bind,
    Except.bind, pure, Except.pure]
  rfl

section
variable {f : Fields} {s : State} (h : s.runs (.exit f) f) (hp : s.st.pkt = none) (hq : s.st.vq = 0)
include h hp hq

/-- A strand that exits with commands left keeps its record, with nothing of it in a slot. -/
theorem exit_leavesRecord (hleft : s.st.xq ≠ [] ∨ s.tl.drained s.curRec = false ∨
      s.st.mreq = none ∧ ∃ c rest, s.st.tq = c :: rest ∧ c.onClaim = false) :
    ∃ s2 : State, s2.st.exiting = true ∧ s2.st.slot = none ∧ s2.st.vl = 0 ∧ s2.st.lq = [] ∧
      s2.st.mreq = none ∧ s2.st.region = none ∧ (∀ l, s2.st.arrived l = true) ∧ s2.mem = s.mem ∧
      s.completes (.exit f) s2 := by
  obtain ⟨-, -, hm, -, hst⟩ := startTimers_frame (exited s) s.cur 5
  obtain ⟨-, -, -, hmreq, -, -⟩ := claimEnded_spec s
  have hwaits : ((exited s).startTimers s.cur 5).reap s.cur s.curRec = (exited s).startTimers s.cur 5 := by
    refine reap_waits ?_
    rw [exited_timed]
    exact exited_loud hleft
  have hdone := exit_completes h hp hq
  rw [hwaits] at hdone
  obtain ⟨he, hs, hvl, hlq, hreg, harr⟩ := outForGood_out ((claimEnded s).strands.val {} s.curRec)
  obtain ⟨-, -, -, hmreq'⟩ := outForGood_queues ((claimEnded s).strands.val {} s.curRec)
  rw [← exited_st, ← hst] at he hs hvl hlq hreg harr hmreq'
  exact ⟨_, he, hs, hvl, hlq, hmreq'.trans hmreq, hreg, harr, hm, hdone⟩

/-- A strand that exits with no command left frees its record. -/
theorem exit_freesRecord (hquiet : s.tl.quiet s.curRec = true) :
    ∃ s2 : State, s2.tl.strands.val? s.curRec = none ∧ s.completes (.exit f) s2 := by
  obtain ⟨hc, -, -, -, -⟩ := startTimers_frame (exited s) s.cur 5
  obtain ⟨he, -⟩ := outForGood_out ((claimEnded s).strands.val {} s.curRec)
  rw [← exited_st] at he
  obtain ⟨hfree, hcur, -⟩ := reap_frees (s := (exited s).startTimers s.cur 5) (tile := s.cur)
    (by rw [exited_timed]; exact exited_val? s) he (by rw [exited_timed]; exact exited_quiet hquiet)
  refine ⟨_, ?_, exit_completes h hp hq⟩
  rw [State.tl, hcur, hc]
  exact hfree

end

/-! ### `wait` and `yield` (R181, R182) -/

theorem suspendReady_ok {s : State} (h : Rules.mayStop s) : s.suspendReady = .ok () := by
  obtain ⟨hp, hregs⟩ := h
  have hnone : (s.st.pendingRegs.find? fun p => isG p.1 && decide (1 ≤ opIdx p.1 ∧ opIdx p.1 ≤ 5)) = none := by
    refine List.find?_eq_none.mpr fun p hmem => ?_
    simpa only [Bool.and_eq_true, decide_eq_true_eq] using hregs p hmem
  have hwait : s.st.recordWait = none := by rw [Strand.recordWait, hnone, Option.map_none]
  simp only [State.suspendReady, hp, hwait, Option.isSome_none, guardT, Bool.false_eq_true, if_false, bind, Except.bind]

/-- Where a change of the strand first keeps what a suspension keeps, the suspension after it is one of the strand. -/
theorem suspended_of_modSt {s t : State} {f : Strand → Strand} {kind scp swa : Nat} {gen : BitVec 32} {pc : Word}
    (hf : { f s.st with pri := s.st.pri, back := s.st.back, resume := s.st.resume } = s.st)
    (h : Rules.suspended (s.modSt f) t kind scp swa gen pc) : Rules.suspended s t kind scp swa gen pc := by
  unfold Rules.suspended at h ⊢
  rw [st_modSt] at h
  rw [← hf]
  exact h

section
variable {f : Fields} {s s1 : State} {x y : Word × Bool} (h : s.runs (.wait f) f)
  (hrd : s.rd2 f.a f.b = .ok (x, y, s1)) (hx : x.2 = false) (hy : y.2 = false)
  (hrange : s1.rangeBad x.1.toNat 16 = false) (halign : x.1.toNat % 16 = 0) (hstop : Rules.mayStop s1)
  (hfree : s1.waitsAt true false [(x.1.toNat, 16)] = .ok ())
include h hrd hx hy hrange halign hstop hfree

/-- A generation reached lets the strand go on in its slot. -/
theorem wait_reached (hgen : (s1.swGen s1.cur x.1.toNat - y.1.truncate 32).toNat < 2 ^ 31) (hq : s1.st.vq = 0) :
    s.completes (.wait f) (s1.passPoint.wrG f.d ((s1.swGen s1.cur x.1.toNat).zeroExtend 64) false) := by
  refine completes_of fun hs => guardedOp_ok h ?_ hs
  simp only [hrd, hx, hy, hrange, halign, suspendReady_ok hstop, hfree, guardT, bind, Except.bind, pure, Except.pure,
    Bool.or_self, Bool.false_eq_true, if_false, bne_self_eq_false, genReached, decide_eq_true hgen, if_true, hq, ne_eq,
    not_true_eq_false]

theorem wait_suspends (hgen : 2 ^ 31 ≤ (s1.swGen s1.cur x.1.toNat - y.1.truncate 32).toNat) :
    ∃ s2 : State, Rules.suspended s1 s2 3 0 (x.1.toNat / 16) (y.1.truncate 32) s1.st.npc ∧ s.completes (.wait f) s2 := by
  refine ⟨(s1.modSt fun st => { st with resume := [(f.d, 0, false)] }).suspendAt s1.cur s1.curRec 3 0 (x.1.toNat / 16)
    (y.1.truncate 32) s1.st.npc, suspended_of_modSt rfl (suspendAt_suspended _ _ _ _ _ _),
    completes_of fun hs => guardedOp_ok h ?_ hs⟩
  simp only [hrd, hx, hy, hrange, halign, suspendReady_ok hstop, hfree, guardT, bind, Except.bind, pure, Except.pure,
    Bool.or_self, Bool.false_eq_true, if_false, bne_self_eq_false, genReached, decide_eq_false (Nat.not_lt.mpr hgen),
    st_modSt]
  rfl

end

/-- `yield` has set its priority and the slot to come back to. -/
def yielding (f : Fields) (s : State) : State :=
  s.modSt fun st => { st with
    pri := if f.imm.getLsbD 3 then f.imm.toNat % 8 else st.pri,
    back := if s.tl.ready.isEmpty then s.st.slot else none }

theorem yielding_ready (f : Fields) (s : State) : (yielding f s).tl.ready = s.tl.ready := by
  rw [yielding, tl_modSt]
  rfl

theorem yield_suspends {f : Fields} {s : State} (h : s.runs (.yield f) f) (hstop : Rules.mayStop s) :
    ∃ s2 : State, Rules.suspended s s2 1 0 0 0 s.st.npc ∧ s2.tl.ready = s.tl.ready ++ [s.curRec] ∧
      s2.st.pri = (if f.imm.getLsbD 3 then f.imm.toNat % 8 else s.st.pri) ∧ s.completes (.yield f) s2 := by
  obtain ⟨-, -, -, hst, hready⟩ := suspendAt_becomes (yielding f s) 1 0 0 0 s.st.npc
  refine ⟨(yielding f s).suspendAt s.cur s.curRec 1 0 0 0 s.st.npc, suspended_of_modSt rfl
    (suspendAt_suspended (yielding f s) _ _ _ _ _), hready.trans ?_, (congrArg Strand.pri hst).trans ?_,
    completes_of fun hs => guardedOp_ok h ?_ hs⟩
  · rw [if_pos rfl, yielding_ready]
    rfl
  · have hpri : (yielding f s).st.pri = if f.imm.getLsbD 3 then f.imm.toNat % 8 else s.st.pri :=
      congrArg Strand.pri (st_modSt s _)
    rw [← hpri]
    by_cases hq : (yielding f s).st.vq = 0
    · rw [if_pos hq]
      rfl
    · rw [if_neg hq]
      rfl
  · simp only [suspendReady_ok hstop, bind, Except.bind, pure, Except.pure, st_modSt]
    rfl

/-! ### `wid` (R183) -/

/-- A field of the work identifier starts where the widths of the fields below it end. -/
theorem fieldLo_eq (widw : Word) (i : Nat) :
    fieldLo widw i = ((List.range i).map fun j => bitsN widw.toNat (7 * j) 7).sum := by
  induction i with
  | zero => rfl
  | succ i ih => simp [fieldLo, fieldW, ih, List.range_succ]

section
variable {f : Fields} {s : State} (h : s.runs (.wid f) f)
include h

theorem wid_whole (hsel : f.imm.toNat % 8 = 7) : s.completes (.wid f) (s.wrG f.d s.st.wid false) := by
  refine completes_of fun hs => guardedOp_ok h ?_ hs
  simp only [hsel, if_true]

theorem wid_field {i : Nat} (hi : i < 6) (hsel : f.imm.toNat % 8 = i) : s.completes (.wid f)
    (s.wrG f.d (BitVec.ofNat 64 (bitsN s.st.wid.toNat ((List.range i).map fun j => bitsN s.st.widw.toNat (7 * j) 7).sum
      (bitsN s.st.widw.toNat (7 * i) 7))) false) := by
  refine completes_of fun hs => guardedOp_ok h ?_ hs
  have hne : i ≠ 7 := by omega
  simp only [hsel, if_neg hne, widField, fieldLo_eq, fieldW]

end

/-- Settles O26: a suspension makes the strand `stopped`, and `outOfSlot` with no vector command queued; an exit makes
it `outForGood`, and its record is freed exactly where it is quiet. -/
theorem strandInstructionsEndOrSuspend : Obligations.StrandInstructionsEndOrSuspend := by
  refine ⟨fun s kind scp swa gen pc => ?_, fun f s s1 x y => ⟨exit_leavesRecord, exit_freesRecord, ?_,
    yield_suspends, fun h => ⟨wid_whole h, fun _ => wid_field h⟩⟩⟩
  · obtain ⟨-, -, hother, -, -⟩ := suspendAt_becomes s kind scp swa gen pc
    exact ⟨suspendAt_suspended s kind scp swa gen pc, hother, suspendAt_memKept s kind scp swa gen pc⟩
  · intro h hrd hx hy hrange halign hstop hfree
    exact ⟨wait_reached h hrd hx hy hrange halign hstop hfree, wait_suspends h hrd hx hy hrange halign hstop hfree⟩

end Sys2Proof.Proofs
end

section
/-! PROOFS. The statements about scalar instructions, local memory and its queues, traps, and vector memory. -/

namespace Sys2Proof.Proofs

open Sys2Proof.Machine Sys2Proof.Laws

/-! ### The body of an instruction -/

theorem bind_ok {α β : Type} {e : Body α} {k : α → Body β} {b : β} (h : (e >>= k) = .ok b) :
    ∃ a, e = .ok a ∧ k a = .ok b := by
  cases e with
  | error x => cases h
  | ok a => exact ⟨a, rfl, h⟩

theorem rd1_eq (s : State) (a : BitVec 8) : s.rd1 a = s.rdSrc a := rfl

/-- A guarded instruction whose body answers a state completes with it. -/
theorem guarded_completes {i : Instr} {f : Fields} {s t : State} {body : State → Body State} (h : s.runs i f)
    (he : exec i s = guardedOp i f s body) (hb : body s = .ok t) : s.completes i t :=
  completes_of fun hs => he.trans (guardedOp_ok h hb hs)

/-! ### Binary operations (R91, R93) -/

/-- The quotient toward zero, by sign and magnitude. -/
theorem tdiv_eq_sign_mul (a b : Int) : Int.tdiv a b = (a * b).sign * (a.natAbs / b.natAbs : Nat) := by
  calc Int.tdiv a b = (Int.tdiv a b).sign * (Int.tdiv a b).natAbs := (Int.sign_mul_natAbs _).symm
    _ = (a * b).sign * (a.natAbs / b.natAbs : Nat) := by
      rw [Int.sign_tdiv, Int.natAbs_tdiv, Int.sign_mul]
      split
      · rename_i hlt
        rw [Nat.div_eq_of_lt hlt, Int.natCast_zero, Int.mul_zero, Int.zero_mul]
      · rfl

theorem resDiv_eq (f : Fields) (x y : Word) : resDiv f x y =
    if inFmt f y = 0 then (if fmtSigned f.fmt then (-1 : Int) else (2 ^ fmtW f.fmt : Nat) - 1)
      else (inFmt f x * inFmt f y).sign * ((inFmt f x).natAbs / (inFmt f y).natAbs : Nat) := by
  rw [resDiv, tdiv_eq_sign_mul]

theorem resRem_eq (f : Fields) (x y : Word) : resRem f x y = if inFmt f y = 0 then inFmt f x
    else inFmt f x - inFmt f y * ((inFmt f x * inFmt f y).sign * ((inFmt f x).natAbs / (inFmt f y).natAbs : Nat)) := by
  rw [resRem, Int.tmod_def, tdiv_eq_sign_mul]

/-- Each binary operation of R93's table runs the one body of binary operations, with the table's result. -/
theorem binary_runs {i : Instr} {f : Fields} {x y : Word} {r : Int} (h : (i, r) ∈ Rules.binary f x y) :
    ∃ res : Word → Word → Int, (∀ s, exec i s = guardedOp i f s (binBody f res)) ∧ res x y = r := by
  simp only [Rules.binary, List.mem_cons, Prod.mk.injEq, List.not_mem_nil, or_false] at h
  rcases h with ⟨rfl, rfl⟩ | ⟨rfl, rfl⟩ | ⟨rfl, rfl⟩ | ⟨rfl, rfl⟩ | ⟨rfl, rfl⟩ | ⟨rfl, rfl⟩ | ⟨rfl, rfl⟩ | ⟨rfl, rfl⟩ |
    ⟨rfl, rfl⟩ | ⟨rfl, rfl⟩ | ⟨rfl, rfl⟩ | ⟨rfl, rfl⟩ | ⟨rfl, rfl⟩ | ⟨rfl, rfl⟩ | ⟨rfl, rfl⟩ | ⟨rfl, rfl⟩
  · exact ⟨resAdd f, fun _ => rfl, rfl⟩
  · exact ⟨resSub f, fun _ => rfl, rfl⟩
  · exact ⟨resMul f, fun _ => rfl, rfl⟩
  · exact ⟨resMulh f, fun _ => rfl, rfl⟩
  · exact ⟨resDiv f, fun _ => rfl, resDiv_eq f x y⟩
  · exact ⟨resRem f, fun _ => rfl, resRem_eq f x y⟩
  · exact ⟨resAnd f, fun _ => rfl, rfl⟩
  · exact ⟨resOr f, fun _ => rfl, rfl⟩
  · exact ⟨resXor f, fun _ => rfl, rfl⟩
  · exact ⟨resAndn f, fun _ => rfl, rfl⟩
  · exact ⟨resShl f, fun _ => rfl, rfl⟩
  · exact ⟨resShr f, fun _ => rfl, rfl⟩
  · exact ⟨resSar f, fun _ => rfl, rfl⟩
  · exact ⟨resRol f, fun _ => rfl, rfl⟩
  · exact ⟨resMin f, fun _ => rfl, rfl⟩
  · exact ⟨resMax f, fun _ => rfl, rfl⟩

theorem binBody_ok {f : Fields} {res : Word → Word → Int} {s s1 : State} {x y : Word × Bool}
    (hrd : s.rd2 f.a f.b = .ok (x, y, s1)) :
    binBody f res s = s1.wrDst f.d (narrow f (res x.1 (y.1 + sx f.imm))) (x.2 || y.2) := by
  simp only [binBody, hrd, bind, Except.bind]

/-- Settles O1: all sixteen operations share a body, so each is settled by its exact result. -/
theorem binaryOperationsWriteTheirResult : Obligations.BinaryOperationsWriteTheirResult := by
  intro i f s s1 s2 x y r h hrd hr hw
  obtain ⟨res, he, rfl⟩ := binary_runs hr
  exact guarded_completes h (he s) ((binBody_ok hrd).trans hw)

/-! ### Copies, counts and extensions (R94, R96, R97, R98) -/

/-- `clzFrom` gives the number of zero bits above the highest bit set below w, or w where none is. -/
theorem clzFrom_eq {x w n : Nat} (hn : n ≤ w) (hz : ∀ j, w - n ≤ j → j < w → x.testBit j = false)
    (ho : n < w → x.testBit (w - 1 - n) = true) : clzFrom x w = n := by
  induction w generalizing n with
  | zero => exact (Nat.le_zero.mp hn).symm
  | succ w ih =>
    cases n with
    | zero => simp [clzFrom, show x.testBit w = true from ho (Nat.succ_pos w)]
    | succ n =>
      have htop : x.testBit w = false := hz w (by omega) (Nat.lt_succ_self w)
      have hrest : clzFrom x w = n := by
        refine ih (Nat.le_of_succ_le_succ hn) (fun j hlo hhi => hz j (by omega) (by omega)) fun h => ?_
        rw [show w - 1 - n = w + 1 - 1 - (n + 1) by omega]
        exact ho (Nat.succ_lt_succ h)
      simp [clzFrom, htop, hrest]

/-- Below its width a source has the bits of its word. -/
theorem testBit_uns (f : Fields) (x : Word) {j : Nat} (h : j < fmtW f.fmt) : (uns f x).testBit j = x.getLsbD j := by
  rw [uns, Nat.testBit_mod_two_pow, decide_eq_true h, Bool.true_and, BitVec.testBit_toNat]

theorem popFrom_uns (f : Fields) (x : Word) :
    popFrom (uns f x) (fmtW f.fmt) = ((List.range (fmtW f.fmt)).filter fun j => x.getLsbD j).length := by
  rw [popFrom_eq]
  exact congrArg List.length (List.filter_congr fun j hj => testBit_uns f x (List.mem_range.mp hj))

section
variable {f : Fields} {s s1 s2 : State} {x : Word × Bool} {v : Word} (hrd : s.rd1 f.a = .ok (x, s1))
  (hw : s1.wrDst f.d v x.2 = .ok s2)
include hrd hw

/-- An operation on A completes with its result in D. -/
theorem unary_completes {i : Instr} {r : Word → Word} (h : s.runs i f) (he : exec i s = guardedOp i f s (unBody f r))
    (hv : v = r x.1) : s.completes i s2 := by
  refine guarded_completes h he ?_
  simp only [unBody, hrd, bind, Except.bind]
  rwa [← hv]

theorem clz_completes {n : Nat} (h : s.runs (.clz f) f) (hn : n ≤ fmtW f.fmt) (hv : v = BitVec.ofNat 64 n)
    (hz : ∀ j, fmtW f.fmt - n ≤ j → j < fmtW f.fmt → x.1.getLsbD j = false)
    (ho : n < fmtW f.fmt → x.1.getLsbD (fmtW f.fmt - 1 - n) = true) : s.completes (.clz f) s2 := by
  have hc : clzFrom (uns f x.1) (fmtW f.fmt) = n := by
    refine clzFrom_eq hn (fun j hlo hhi => ?_) fun hlt => ?_
    · rw [testBit_uns f x.1 hhi, hz j hlo hhi]
    · rw [testBit_uns f x.1 (by omega), ho hlt]
  exact unary_completes hrd hw h rfl (by rw [hv, hc])

theorem ctz_completes {n : Nat} (h : s.runs (.ctz f) f) (hn : n ≤ fmtW f.fmt) (hv : v = BitVec.ofNat 64 n)
    (hz : ∀ j, j < n → x.1.getLsbD j = false) (ho : n < fmtW f.fmt → x.1.getLsbD n = true) :
    s.completes (.ctz f) s2 := by
  have hc : ctzFrom (uns f x.1) 0 (fmtW f.fmt) = n := by
    refine ctzFrom_eq hn (fun j hj => ?_) fun hlt => ?_ <;> rw [Nat.zero_add]
    · rw [testBit_uns f x.1 (by omega), hz j hj]
    · rw [testBit_uns f x.1 hlt, ho hlt]
  exact unary_completes hrd hw h rfl (by rw [hv, hc])
end

/-! ### Compares, selects and moves (R95, R96, R98, R99) -/

section
variable {f : Fields} {s s1 s2 : State} {x y z : Word × Bool}

theorem set_completes {c : Cond} (h : s.runs (.set c f) f) (hrd : s.rd2 f.a f.b = .ok (x, y, s1))
    (hw : s1.wrDst f.d (if condHolds c (fmtW f.fmt) x.1.toNat (y.1 + sx f.imm).toNat then 1 else 0)
      (x.2 || y.2) = .ok s2) : s.completes (.set c f) s2 := by
  refine guarded_completes h rfl ?_
  simp only [hrd, bind, Except.bind]
  exact hw

theorem lea_completes (h : s.runs (.lea f) f) (hrd : s.rd2 f.a f.b = .ok (x, y, s1))
    (hw : s1.wrDst f.d (eaOf x.1 y.1 (fmtBytes f.fmt) f.imm) (x.2 || y.2) = .ok s2) : s.completes (.lea f) s2 := by
  refine guarded_completes h rfl ?_
  simp only [hrd, bind, Except.bind]
  exact hw

theorem sel_completes (h : s.runs (.sel f) f) (hrd : s.rd3 f.a f.b f.c = .ok (x, y, z, s1))
    (hw : s1.wrDst f.d (if x.1 ≠ 0 then y.1 else z.1) (x.2 || if x.1 ≠ 0 then y.2 else z.2) = .ok s2) :
    s.completes (.sel f) s2 := by
  refine guarded_completes h rfl ?_
  simp only [hrd, bind, Except.bind]
  by_cases hx : x.1 ≠ 0
  · rw [if_pos hx, if_pos hx] at hw
    rwa [if_pos hx]
  · rw [if_neg hx, if_neg hx] at hw
    rwa [if_neg hx]

theorem bfi_completes (h : s.runs (.bfi f) f) (hrd : s.rd1 f.a = .ok (x, s1)) : s.completes (.bfi f)
    (s1.wrG f.d (setBits (s1.st.rg (opIdx f.d)) (bfPos f) (bfLen f) x.1.toNat) (s1.st.rgp (opIdx f.d) || x.2)) := by
  refine guarded_completes h rfl ?_
  simp only [hrd, bind, Except.bind, pure, Except.pure]
end

theorem movi_completes {d a : BitVec 8} {imm : BitVec 64} {s s2 : State} (h : s.issues (.movi d a imm))
    (hw : s.wrDst d imm false = .ok s2) : s.completes (.movi d a imm) s2 :=
  completes_of fun hs => strandOp_ok (body := fun s => s.wrDst d imm false) h hw hs

/-- Settles O2: a lemma for each instruction that has no shared body, and the body of the operations on A. -/
theorem copiesSelectsAndMovesWriteTheirResult : Obligations.CopiesSelectsAndMovesWriteTheirResult := by
  refine ⟨fun f s s1 s2 x v hrd hw => ⟨fun h ⟨n, hn, hv, hz, ho⟩ => clz_completes hrd hw h hn hv hz ho,
    fun h ⟨n, hn, hv, hz, ho⟩ => ctz_completes hrd hw h hn hv hz ho,
    fun h hv => unary_completes hrd hw h rfl (hv.trans (by rw [popFrom_uns])),
    fun h hv => unary_completes hrd hw h rfl hv, fun h hv => unary_completes hrd hw h rfl hv,
    fun h hv => unary_completes hrd hw h rfl hv, fun h hv => unary_completes hrd hw h rfl hv⟩,
    fun f s s1 s2 x y z => ⟨fun c => set_completes, lea_completes, sel_completes, fun d a imm => movi_completes,
      fun h hrd hs => ?_⟩⟩
  rw [hs]
  exact bfi_completes h hrd

/-! ### The checks of a local access (R102, R190, R196) -/

/-- An access of one unit is out of range by its address alone, or by a bank it meets. -/
theorem rangeBad_iff (s : State) (ea n : Nat) : s.rangeBad ea n = true ↔
    2 ^ 20 ≤ ea ∨ (s.st.sup = false ∧ 0xff000 ≤ ea) ∨ s.tl.anyGated ea n = true := by
  simp [State.rangeBad, poolBase, or_assoc]

theorem rangeBad_eq_false {s : State} {ea n : Nat} (hr : ea < 2 ^ 20) (hs : s.st.sup = true ∨ ea < 0xff000)
    (hg : s.tl.anyGated ea n = false) : s.rangeBad ea n = false := by
  rw [Bool.eq_false_iff, ne_eq, rangeBad_iff]
  rintro (h | ⟨h, h'⟩ | h)
  · omega
  · rw [h] at hs
    rcases hs with hs | hs
    · contradiction
    · omega
  · rw [hg] at h
    contradiction

section
variable {s : State} {ea : Word} {n : Nat} {pois : Bool}

theorem addrCheck_poison (hp : pois = true) : s.addrCheck ea n n pois = .error (.trap .poison 0) := by
  rw [hp]
  rfl

theorem addrCheck_range (hp : pois = false) (hr : s.rangeBad ea.toNat n = true) :
    s.addrCheck ea n n pois = .error (.trap .localRange 0) := by
  simp [State.addrCheck, hp, hr, guardT, trapE, bind, Except.bind]

theorem addrCheck_align (hp : pois = false) (hr : s.rangeBad ea.toNat n = false) (ha : ea.toNat % n ≠ 0) :
    s.addrCheck ea n n pois = .error (.trap .alignment 0) := by
  simp [State.addrCheck, hp, hr, ha, guardT, trapE, bind, Except.bind]

theorem addrCheck_passes (hp : pois = false) (hr : s.rangeBad ea.toNat n = false) (ha : ea.toNat % n = 0) :
    s.addrCheck ea n n pois = .ok () := by
  simp [State.addrCheck, hp, hr, ha, guardT, bind, Except.bind]

theorem localCheck_passes (hc : s.addrCheck ea n n pois = .ok ()) (hw : s.localWait ea.toNat n = .ok ()) :
    s.localCheck ea n n pois = .ok () := by
  simp [State.localCheck, hc, hw, bind, Except.bind]
end

/-- A read pops load queues alone, so it moves no check of an address. -/
theorem rdSrc_addrCheck {s t : State} {sp : BitVec 8} {x : Word × Bool} (h : s.rdSrc sp = .ok (x, t)) (ea : Word)
    (n align : Nat) (pois : Bool) : t.addrCheck ea n align pois = s.addrCheck ea n align pois := by
  obtain ⟨-, hst, htl, -, -⟩ := rdSrc_frame h
  have hbad : ∀ unit, t.rangeBad ea.toNat n unit = s.rangeBad ea.toNat n unit := fun unit => by
    have hg : t.tl.anyGated ea.toNat n = s.tl.anyGated ea.toNat n := by rw [← htl]; rfl
    rw [State.rangeBad, State.rangeBad, hg, ← hst]
  simp only [State.addrCheck, hbad]

/-- The checks that an atomic writes out are those of its address. -/
theorem addrCheck_eq {α : Type} (s : State) (ea : Word) (n : Nat) (pois : Bool) (k : Body α) :
    (do guardT pois .poison; guardT (s.rangeBad ea.toNat n) .localRange; guardT (ea.toNat % n != 0) .alignment; k) =
      (do s.addrCheck ea n n pois; k) := by
  simp only [State.addrCheck, if_true, bind_assoc]

theorem rd3_of_rd2 {s s1 s2 : State} {a b c : BitVec 8} {x y z : Word × Bool} (h : s.rd2 a b = .ok (x, y, s1))
    (hc : s1.rdSrc c = .ok (z, s2)) : s.rd3 a b c = .ok (x, y, z, s2) := by
  obtain ⟨u, ha, hb⟩ := rd2_cases h
  simp only [State.rd3, ha, hb, hc, bind, Except.bind, pure, Except.pure]

section
variable {f : Fields} {s s1 : State} {x y : Word × Bool} {n : Nat} {c : Cause} (hrd : s.rd2 f.a f.b = .ok (x, y, s1))
  (hc : s1.addrCheck (eaOf x.1 y.1 n f.imm) n n (x.2 || y.2) = .error (.trap c 0))
include hrd hc

/-- `stq` checks its address before it looks for an entry to drain. -/
theorem stq_traps (h : s.runs (.stq f) f) (hn : n = fmtBytes f.fmt) : exec (.stq f) s = .next (s.raise c 0) := by
  subst hn
  refine guardedOp_trap h ?_
  simp only [hrd, bind, Except.bind]
  split
  · simp only [State.storeCheck, hc, bind, Except.bind]
  · simp only [State.localCheck, hc, bind, Except.bind]

theorem facc_traps {d : Word × Bool} {s2 : State} (h : s.runs (.facc f) f) (hn : n = 32)
    (hd : s1.rdSrc f.d = .ok (d, s2)) : exec (.facc f) s = .next (s.raise c 0) := by
  subst hn
  refine guardedOp_trap h ?_
  rw [← rdSrc_addrCheck hd] at hc
  simp only [hrd, rd1_eq, hd, bind, Except.bind]
  exact (addrCheck_eq ..).trans (by rw [hc]; rfl)

theorem amo_traps {op : AmoOp} {z : Word × Bool} {s2 : State} (h : s.runs (.amo op f) f) (hn : n = fmtBytes f.fmt)
    (hz : s1.rdSrc f.c = .ok (z, s2)) : exec (.amo op f) s = .next (s.raise c 0) := by
  subst hn
  refine guardedOp_trap h ?_
  rw [← rdSrc_addrCheck hz] at hc
  simp only [rd3_of_rd2 hrd hz, bind, Except.bind]
  exact (addrCheck_eq ..).trans (by rw [hc]; rfl)

/-- Every local access raises the trap of its address before any effect. -/
theorem access_traps {i : Instr} (ha : Rules.accesses s1 f i n) (h : s.runs i f) : exec i s = .next (s.raise c 0) := by
  simp only [Rules.accesses, List.mem_cons, Prod.mk.injEq, List.not_mem_nil, or_false] at ha
  have hlocal : s1.localCheck (eaOf x.1 y.1 n f.imm) n n (x.2 || y.2) = .error (.trap c 0) := by
    simp only [State.localCheck, hc, bind, Except.bind]
  rcases ha with (⟨rfl, rfl⟩ | ⟨rfl, rfl⟩ | ⟨rfl, rfl⟩ | ⟨rfl, rfl⟩ | ⟨rfl, rfl⟩ | ⟨rfl, rfl⟩ | ⟨rfl, rfl⟩) |
    ⟨rfl, rfl, d, s2, hd⟩ | ⟨op, rfl, rfl, z, s2, hz⟩
  · refine guardedOp_trap h ?_
    simp only [hrd, fmtBytes, hlocal, bind, Except.bind]
  · refine guardedOp_trap h ?_
    simp only [hrd, fmtBytes, hc, bind, Except.bind]
  · refine guardedOp_trap h ?_
    simp only [hrd, fmtBytes, hlocal, bind, Except.bind]
  · exact stq_traps hrd hc h rfl
  · refine guardedOp_trap h ?_
    simp only [hrd, hlocal, bind, Except.bind]
  · refine guardedOp_trap h ?_
    simp only [hrd, State.storeCheck, hc, bind, Except.bind]
  · refine guardedOp_trap h ?_
    simp only [hrd, hlocal, bind, Except.bind]
  · exact facc_traps hrd hc h rfl hd
  · exact amo_traps hrd hc h rfl hz
end

/-- Settles O5: each access raises the trap of `addrCheck`, whose checks are settled in their order. -/
theorem localAccessesTrapInOrder : Obligations.LocalAccessesTrapInOrder := by
  intro i f s s1 x y n ha h hrd
  have traps : ∀ c, s1.addrCheck (eaOf x.1 y.1 n f.imm) n n (x.2 || y.2) = .error (.trap c 0) →
      exec i s = .next (s.raise c 0) := fun c hc => access_traps hrd hc ha h
  refine ⟨fun hp => traps _ (addrCheck_poison hp), fun hp hr => traps _ (addrCheck_range hp ?_),
    fun hp hs hr => traps _ (addrCheck_range hp ?_), fun hp hg => traps _ (addrCheck_range hp ?_),
    fun hp hr hs hg hal => traps _ (addrCheck_align hp (rangeBad_eq_false hr hs hg) hal),
    fun hr hs hg hal hacq hwake htq hdrain hsw => ?_⟩
  · exact (rangeBad_iff ..).mpr (.inl hr)
  · exact (rangeBad_iff ..).mpr (.inr (.inl ⟨hs, hr⟩))
  · exact (rangeBad_iff ..).mpr (.inr (.inr hg))
  · rw [BitVec.ofNat_toNat, BitVec.setWidth_eq]
    refine localCheck_passes (addrCheck_passes rfl (rangeBad_eq_false hr hs hg) hal) (waitsAt_ok
      (fun _ r hmem => ?_) (fun r hmem => ?_) fun _ => hacq) <;> obtain rfl := List.mem_singleton.mp hmem
    · exact ⟨hwake, htq⟩
    · exact ⟨hdrain, hsw⟩

/-! ### One change of the issuing strand after another -/

theorem put_put {α : Type} (m : SMap α) (n : Nat) (x y : α) : (m.put n x).put n y = m.put n y := by
  induction m with
  | nil => simp [SMap.put]
  | cons p t ih =>
    obtain ⟨k, v⟩ := p
    by_cases hlt : n < k
    · simp [SMap.put, hlt]
    · by_cases hk : k = n
      · simp [SMap.put, hk]
      · simp [SMap.put, hlt, hk, ih]

/-- A change of the issuing strand depends on what it makes of that strand alone. -/
theorem modSt_congr {s : State} {g k : Strand → Strand} (h : g s.st = k s.st) : s.modSt g = s.modSt k := by
  have ht : s.tl.modStrand s.curRec g = s.tl.modStrand s.curRec k := congrArg (fun st =>
    ({ s.tl with strands := s.tl.strands.put s.curRec st } : Tile)) h
  exact congrArg (fun t => ({ s with tiles := s.tiles.put s.cur t } : State)) ht

theorem modSt_comp (s : State) (g k : Strand → Strand) : (s.modSt g).modSt k = s.modSt fun st => k (g st) := by
  have hst : k (s.modSt g).st = k (g s.st) := congrArg k (st_modSt s g)
  have ht : (s.modSt g).tl.modStrand s.curRec k = s.tl.modStrand s.curRec fun st => k (g st) := by
    rw [tl_modSt]
    simp only [Tile.modStrand, val_put_same, put_put]
  have hput : (s.modSt g).modSt k = { s with
      tiles := (s.tiles.put s.cur (s.tl.modStrand s.curRec g)).put s.cur ((s.modSt g).tl.modStrand s.curRec k) } := rfl
  rw [hput, put_put, ht]
  rfl

/-! ### Loads (R100, R103, R105) -/

theorem meetFlips_none {s : State} {tile : Nat} (off n : Nat) (h : (s.tileAt tile).flips = []) :
    s.meetFlips tile off n = s := by
  simp [State.meetFlips, h]

theorem loadLocal_unflipped {s : State} (ea n : Nat) (h : s.tl.flips = []) : s.loadLocal ea n =
    ((rdNat s.mem (s.cur * 2 ^ 20 + ea) n, anyMarked s.marks (s.cur * 2 ^ 20 + ea) n), s) := by
  rw [State.loadLocal, meetFlips_none ea n h]
  rfl

theorem reserveLq_room {s : State} {q : Nat} (p : QPlace) (h : (s.st.lqOf q).length ≤ s.st.dep.val 3 q) :
    s.reserveLq q p = .ok (s.modSt fun st => { st with lq := st.lq.put q (s.st.lqOf q ++ [p]) }) := by
  have hd : ¬ s.st.depth q ≤ (s.st.lqOf q).length := by
    rw [Strand.depth]
    omega
  rw [State.reserveLq, if_neg hd]
  exact congrArg Except.ok (modSt_congr rfl)

/-- The body that `ld` and `ldq` share, with what they do with the value read and its mark. -/
def loadBody (f : Fields) (put : State → Word → Bool → Body State) (s : State) : Body State := do
  let (x, y, s1) ← s.rd2 f.a f.b
  let ea := eaOf x.1 y.1 (fmtBytes f.fmt) f.imm
  s1.localCheck ea (fmtBytes f.fmt) (fmtBytes f.fmt) (x.2 || y.2)
  let (v, s2) := s1.loadLocal ea.toNat (fmtBytes f.fmt)
  put s2 (extendTo f.fmt v.1) v.2

theorem exec_ld (f : Fields) (s : State) :
    exec (.ld f) s = guardedOp (.ld f) f s (loadBody f fun s v p => s.wrDst f.d v p) := rfl

theorem exec_ldq (f : Fields) (s : State) : exec (.ldq f) s =
    guardedOp (.ldq f) f s (loadBody f fun s v p => s.reserveLq (f.c.toNat % 4) (.load v p)) := rfl

/-- Where no code word is flipped, a load reads the bytes at EA and their mark. -/
theorem loadBody_unflipped {f : Fields} {put : State → Word → Bool → Body State} {s s1 : State} {x y : Word × Bool}
    (hrd : s.rd2 f.a f.b = .ok (x, y, s1))
    (hc : s1.localCheck (eaOf x.1 y.1 (fmtBytes f.fmt) f.imm) (fmtBytes f.fmt) (fmtBytes f.fmt) (x.2 || y.2) = .ok ())
    (hf : s1.tl.flips = []) :
    let key := s1.cur * 2 ^ 20 + (eaOf x.1 y.1 (fmtBytes f.fmt) f.imm).toNat
    loadBody f put s = put s1 (extendTo f.fmt (rdNat s1.mem key (fmtBytes f.fmt)))
      (anyMarked s1.marks key (fmtBytes f.fmt)) := by
  simp only [loadBody, hrd, hc, loadLocal_unflipped _ _ hf, bind, Except.bind]

/-! ### Queues (R57, R107) -/

theorem held_head {l : List QPlace} (h : ∃ v p, l[0]? = some (.held v p)) : ∃ v p rest, l = .held v p :: rest := by
  obtain ⟨v, p, h⟩ := h
  cases l with
  | nil => contradiction
  | cons a rest => exact ⟨v, p, rest, by simpa using h⟩

theorem popMany_held {s : State} {q n : Nat} (h : ∀ j, j ≤ n → ∃ v p, (s.st.lqOf q)[j]? = some (.held v p)) :
    s.popMany q (n + 1) = .ok (s.modSt fun st => { st with lq := st.lq.put q ((s.st.lqOf q).drop (n + 1)) }) := by
  induction n generalizing s with
  | zero =>
    obtain ⟨v, p, rest, hl⟩ := held_head (h 0 (Nat.le_refl 0))
    rw [State.popMany, popLq_held hl, hl]
    rfl
  | succ n ih =>
    obtain ⟨v, p, rest, hl⟩ := held_head (h 0 (Nat.zero_le _))
    have hrest : (s.modSt fun st => { st with lq := st.lq.put q rest }).st.lqOf q = rest := by
      rw [st_modSt, lqOf_put_same]
    have hheld : ∀ j, j ≤ n → ∃ v p, rest[j]? = some (.held v p) := fun j hj => by
      simpa [hl] using h (j + 1) (Nat.succ_le_succ hj)
    rw [← hrest] at hheld
    have hpop := ih hheld
    rw [hrest, modSt_comp] at hpop
    rw [State.popMany, popLq_held hl, hl]
    exact hpop.trans (congrArg Except.ok (modSt_congr (by simp only [put_put, List.drop_succ_cons])))

theorem qcfg_load {f : Fields} {s : State} (h : s.runs (.qcfg f) f) (hq : qNum f < 4) : s.completes (.qcfg f)
    (s.modSt fun st => { st with lq := st.lq.put (qNum f) [], dep := st.dep.put (qNum f) (qCnt f) }) := by
  refine guarded_completes h rfl ?_
  simp only [hq, if_true]

theorem qcfg_store {f : Fields} {s : State} (h : s.runs (.qcfg f) f) (hq : 4 ≤ qNum f) : s.completes (.qcfg f)
    (s.modSt fun st => { st with
      sq := st.sq.put (qNum f - 4) [], drains := st.drains.put (qNum f - 4) [],
      dep := st.dep.put (qNum f) (qCnt f) }) := by
  refine guarded_completes h rfl ?_
  simp only [Nat.not_lt.mpr hq, if_false]

theorem qadv_store {f : Fields} {s : State} (h : s.runs (.qadv f) f) (hq : 4 ≤ qNum f) : s.completes (.qadv f)
    (s.modSt fun st => { st with sq := st.sq.put (qNum f - 4) ((st.sqOf (qNum f - 4)).drop (qCnt f + 1)) }) := by
  refine guarded_completes h rfl ?_
  simp only [Nat.not_lt.mpr hq, if_false]

theorem qadv_load {f : Fields} {s : State} (h : s.runs (.qadv f) f) (hq : qNum f < 4)
    (hl : ∀ j, j ≤ qCnt f → ∃ v p, (s.st.lqOf (qNum f))[j]? = some (.held v p)) : s.completes (.qadv f)
    (s.modSt fun st => { st with lq := st.lq.put (qNum f) ((s.st.lqOf (qNum f)).drop (qCnt f + 1)) }) := by
  refine guarded_completes h rfl ?_
  simp only [hq, if_true]
  exact popMany_held hl

/-- Settles O6: the two loads share a body; each queue instruction has a lemma per kind of queue. -/
theorem loadsAndQueuesReadLocalMemory : Obligations.LoadsAndQueuesReadLocalMemory := by
  refine ⟨fun f s s1 s2 x y hrd => ?_, fun f s s2 => ⟨fun h hq hs => ?_, fun h hq hs => ?_, fun h hq hs => ?_,
    fun h hq hl hs => ?_⟩⟩
  · intro n ea key hc hf
    exact ⟨fun h hw => guarded_completes h (exec_ld f s) ((loadBody_unflipped hrd hc hf).trans hw),
      fun h hl => guarded_completes h (exec_ldq f s) ((loadBody_unflipped hrd hc hf).trans (reserveLq_room _ hl))⟩
  · exact hs ▸ qcfg_load h hq
  · exact hs ▸ qcfg_store h hq
  · exact hs ▸ qadv_store h hq
  · exact hs ▸ qadv_load h hq hl

/-! ### Stores (R100, R103, R104, R106) -/

/-- What a retirement and the moves of the queues leave of a strand: all its registers and special registers. -/
def queuesOnly (st u : Strand) : Prop :=
  { u with lq := st.lq, sq := st.sq, drains := st.drains, pos := st.pos, pc := st.pc, target := st.target,
           hold := st.hold, stall := st.stall } = st

theorem queuesOnly_trans {st u v : Strand} (h : queuesOnly st u) (h' : queuesOnly u v) : queuesOnly st v := by
  unfold queuesOnly at *
  rw [← h, ← h']

theorem scalarOnly_of_queuesOnly {st u : Strand} (h : queuesOnly st u) : Rules.scalarOnly st u := by
  unfold Rules.scalarOnly
  rw [← h]

theorem registers_of_queuesOnly {st u : Strand} (h : queuesOnly st u) (n : Nat) :
    u.rg n = st.rg n ∧ u.rgp n = st.rgp n := by
  rw [← h]
  exact ⟨rfl, rfl⟩

/-- Every load queue that no source names is the same. -/
def lqKept (st u : Strand) (srcs : List (BitVec 8)) : Prop :=
  ∀ q, (∀ a ∈ srcs, ¬ (isLq a = true ∧ q = opIdx a)) → u.lqOf q = st.lqOf q

theorem keeps_of_queuesOnly {st u : Strand} {srcs : List (BitVec 8)} (h : queuesOnly st u) (hl : lqKept st u srcs)
    (d : BitVec 8) : Rules.keeps st u d srcs :=
  ⟨fun n _ => registers_of_queuesOnly h n, hl⟩

theorem rdSrc_lqOf {s t : State} {sp : BitVec 8} {x : Word × Bool} (h : s.rdSrc sp = .ok (x, t)) {q : Nat}
    (hq : ¬ (isLq sp = true ∧ q = opIdx sp)) : t.st.lqOf q = s.st.lqOf q := by
  rcases rdSrc_cases h with rfl | ⟨hl, rest, -, rfl⟩
  · rfl
  · rw [st_modSt, lqOf_put_ne _ _ fun he => hq ⟨hl, he⟩]

/-- What the reads of some sources leave: memory and which strand issues, all of the strand but its load queues, and
of those each that no source names. -/
def readsOnly (s t : State) (srcs : List (BitVec 8)) : Prop :=
  t.mem = s.mem ∧ t.cur = s.cur ∧ queuesOnly s.st t.st ∧ lqKept s.st t.st srcs ∧ t.st.partner = s.st.partner

theorem rdSrc_readsOnly {s t : State} {sp : BitVec 8} {x : Word × Bool} (h : s.rdSrc sp = .ok (x, t)) :
    readsOnly s t [sp] := by
  obtain ⟨hs, hst, -⟩ := rdSrc_frame h
  have hmem : t.mem = s.mem := by rw [← hs]
  refine ⟨hmem, rdSrc_cur h, ?_, fun q hq => rdSrc_lqOf h (hq sp (List.mem_singleton.mpr rfl)), by rw [← hst]⟩
  unfold queuesOnly
  rw [← hst]

theorem readsOnly_trans {s t u : State} {as bs : List (BitVec 8)} (h : readsOnly s t as) (h' : readsOnly t u bs) :
    readsOnly s u (as ++ bs) := by
  obtain ⟨hm, hc, hq, hl, hp⟩ := h
  obtain ⟨hm', hc', hq', hl', hp'⟩ := h'
  exact ⟨hm'.trans hm, hc'.trans hc, queuesOnly_trans hq hq', fun q hn =>
    (hl' q fun a ha => hn a (List.mem_append_right _ ha)).trans (hl q fun a ha => hn a (List.mem_append_left _ ha)),
    hp'.trans hp⟩

theorem rd2_readsOnly {s t : State} {a b : BitVec 8} {x y : Word × Bool} (h : s.rd2 a b = .ok (x, y, t)) :
    readsOnly s t [a, b] := by
  obtain ⟨u, ha, hb⟩ := rd2_cases h
  exact readsOnly_trans (rdSrc_readsOnly ha) (rdSrc_readsOnly hb)

theorem retire_frame (s : State) : s.retire.mem = s.mem ∧ queuesOnly s.st s.retire.st ∧
    ∀ q, s.retire.st.lqOf q = s.st.lqOf q := by
  unfold State.retire
  split
  · exact ⟨rfl, rfl, fun _ => rfl⟩
  · refine ⟨rfl, ?_, fun q => ?_⟩
    · change queuesOnly s.st (s.modSt _).st
      rw [st_modSt]
      rfl
    · change (s.modSt _).st.lqOf q = _
      rw [st_modSt]
      rfl

/-! ### An instruction that retires (R15, R81) -/

theorem raise_ended (s : State) (c : Cause) (code : Nat) : (s.raise c code).ended ≠ .done := by
  unfold State.raise
  split <;> nofun

theorem fullOn_ended (s : State) (e : Nat) : (s.fullOn e).ended ≠ .done := by
  unfold State.fullOn
  split <;> nofun

/-- An unpaired instruction that ends done has retired from a state its body answered. -/
theorem finish_done {s : State} {r : Body State} (hp : s.st.partner = none) (hd : (s.finish r).ended = .done) :
    ∃ t, r = .ok t ∧ s.finish r = t.retire := by
  unfold State.finish at hd ⊢
  simp only [hp, Option.isSome_none, Bool.false_eq_true, if_false] at hd ⊢
  cases r with
  | ok t =>
    dsimp only at hd ⊢
    split at hd
    · exact absurd hd (raise_ended s _ _)
    · rename_i hoff
      exact ⟨t, rfl, if_neg hoff⟩
  | error e =>
    cases e with
    | trap c code => exact absurd hd (raise_ended s c code)
    | stall w => nomatch hd
    | full e => exact absurd hd (fullOn_ended s e)
    | met t c => exact absurd hd (raise_ended t c 0)
    | hold t w =>
      dsimp only at hd
      split at hd
      · exact absurd hd (raise_ended s _ _)
      · nomatch hd

theorem liftStall_ok {flight : Bool} {r : Body State} {t : State} (h : liftStall flight r = .ok t) : r = .ok t := by
  unfold liftStall at h
  split at h
  · nomatch h
  · exact h

theorem guardedOp_done {i : Instr} {f : Fields} {s t : State} {body : State → Body State} (h : s.runs i f)
    (he : guardedOp i f s body = .next t) (hd : t.ended = .done) : ∃ u, body s = .ok u ∧ t = u.retire := by
  obtain ⟨hi, hon⟩ := h
  obtain ⟨-, -, -, -, hp, -⟩ := id hi
  rw [guardedOp, strandOp_issues hi] at he
  obtain rfl := Host.Outcome.next.inj he
  obtain ⟨u, hu, ht⟩ := finish_done hp hd
  exact ⟨u, by simpa only [guarded, hon, if_true] using liftStall_ok hu, ht⟩

theorem storeData_ok {s t : State} {ea : Nat} {bs : List Byte} {pois ppass : Bool}
    (h : s.storeData ea bs pois ppass = .ok t) : t = s.putLocal ea bs pois := by
  unfold State.storeData at h
  split at h
  · nomatch h
  · exact (Except.ok.inj h).symm

/-! ### The frame of the stores (R100, R103, R106) -/

/-- What a store leaves of the state before it: every byte outside the n at EA, and of the strand all but its store
queues and its place in program order. -/
def storesOnly (s t : State) (ea n : Nat) : Prop :=
  Rules.memKept s t (s.cur * 2 ^ 20 + ea) n ∧ queuesOnly s.st t.st ∧ ∀ q, t.st.lqOf q = s.st.lqOf q

theorem putLocal_memKept (s : State) (ea : Nat) (bs : List Byte) (p : Bool) :
    Rules.memKept s (s.putLocal ea bs p) (s.cur * 2 ^ 20 + ea) bs.length := by
  intro x hx
  unfold State.putLocal
  split
  · rfl
  · exact rdByte_stBytes_out s s.cur ea bs p hx

theorem putLocal_st (s : State) (ea : Nat) (bs : List Byte) (p : Bool) : (s.putLocal ea bs p).st = s.st :=
  localFrame_st (putLocal_frame s ea bs p)

theorem storesOnly_of_st {s t : State} {ea n : Nat} (hm : Rules.memKept s t (s.cur * 2 ^ 20 + ea) n)
    (hst : t.st = s.st) : storesOnly s t ea n := by
  unfold storesOnly
  rw [hst]
  exact ⟨hm, rfl, fun _ => rfl⟩

/-- A move of a store queue after the store. -/
theorem storesOnly_modSt {s t : State} {ea n : Nat} {g : Strand → Strand} (h : storesOnly s t ea n)
    (hg : queuesOnly t.st (g t.st)) (hl : ∀ q, (g t.st).lqOf q = t.st.lqOf q) : storesOnly s (t.modSt g) ea n := by
  obtain ⟨hm, hq, hlq⟩ := h
  unfold storesOnly
  rw [st_modSt]
  exact ⟨hm, queuesOnly_trans hq hg, fun q => (hl q).trans (hlq q)⟩

/-- A drain of an unpaired strand stores its bytes, or nothing where the strand follows (R106, R354). -/
theorem drain_storesOnly {s t : State} {ea : Nat} {bs : List Byte} {pois ppass : Bool} (hp : s.st.partner = none)
    (h : s.drain ea bs pois ppass = .ok t) : storesOnly s t ea bs.length := by
  have hmem : storesOnly s (if s.st.folw then s else s.putLocal ea bs pois) ea bs.length := by
    split
    · exact storesOnly_of_st (fun _ _ => rfl) rfl
    · exact storesOnly_of_st (putLocal_memKept s ea bs pois) (putLocal_st s ea bs pois)
  have hpart : (if s.st.folw then s else s.putLocal ea bs pois).st.partner = none := by
    split
    · exact hp
    · rw [putLocal_st, hp]
  unfold State.drain at h
  split at h
  · nomatch h
  · obtain rfl := Except.ok.inj h
    have hnote := noteDrain_unpaired hpart ea bs
    exact storesOnly_modSt hmem (by rw [hnote]; rfl) fun q => by rw [hnote]

/-- A store that retires after its reads keeps what the frame of the stores names. -/
theorem retire_storesOnly {s s1 u : State} {srcs : List (BitVec 8)} {ea n : Nat} (hr : readsOnly s s1 srcs)
    (hs : storesOnly s1 u ea n) : Rules.memKept s u.retire (s.cur * 2 ^ 20 + ea) n ∧
      Rules.scalarOnly s.st u.retire.st ∧ Rules.keeps s.st u.retire.st 0xff srcs := by
  obtain ⟨hm, hc, hq, hl, -⟩ := hr
  obtain ⟨hmem, hqu, hlu⟩ := hs
  obtain ⟨hmr, hqr, hlr⟩ := retire_frame u
  rw [hc] at hmem
  have hqueues := queuesOnly_trans hq (queuesOnly_trans hqu hqr)
  refine ⟨fun x hx => ?_, scalarOnly_of_queuesOnly hqueues,
    keeps_of_queuesOnly hqueues (fun q hn => (hlr q).trans ((hlu q).trans (hl q hn))) 0xff⟩
  rw [hmr, hmem x hx, hm]

section
variable {f : Fields} {s s1 t : State} {x y : Word × Bool} (hrd : s.rd2 f.a f.b = .ok (x, y, s1))
  (hd : t.ended = .done)
include hrd hd

/-- A `st` that retires has read D and stored its low bytes at EA. -/
theorem st_done (h : s.runs (.st f) f) (he : exec (.st f) s = .next t) : ∃ d s2, s1.rdSrc f.d = .ok (d, s2) ∧
    t = (s2.putLocal (eaOf x.1 y.1 (fmtBytes f.fmt) f.imm).toNat
      (natToBytes (fmtBytes f.fmt) d.1.toNat) d.2).retire := by
  obtain ⟨u, hu, rfl⟩ := guardedOp_done h he hd
  obtain ⟨_, hread, hu⟩ := bind_ok hu
  obtain rfl := Except.ok.inj (hread.symm.trans hrd)
  obtain ⟨-, -, hu⟩ := bind_ok hu
  obtain ⟨⟨d, s2⟩, hread, hu⟩ := bind_ok hu
  obtain ⟨-, -, hu⟩ := bind_ok hu
  obtain ⟨-, -, hu⟩ := bind_ok hu
  exact ⟨d, s2, hread, congrArg State.retire (storeData_ok hu)⟩

/-- A `stq` that retires has stored the bytes of an entry at EA, or has become a pending drain. -/
theorem stq_done (h : s.runs (.stq f) f) (he : exec (.stq f) s = .next t) : ∃ u, t = u.retire ∧
    storesOnly s1 u (eaOf x.1 y.1 (fmtBytes f.fmt) f.imm).toNat (fmtBytes f.fmt) ∧
    (s1.st.sqOf (f.c.toNat % 2) = [] → u.mem = s1.mem) := by
  obtain ⟨⟨-, -, -, -, hp, -⟩, -⟩ := id h
  obtain ⟨-, -, -, -, hpart⟩ := rd2_readsOnly hrd
  obtain ⟨u, hu, rfl⟩ := guardedOp_done h he hd
  refine ⟨u, rfl, ?_⟩
  obtain ⟨_, hread, hu⟩ := bind_ok hu
  obtain rfl := Except.ok.inj (hread.symm.trans hrd)
  dsimp only at hu
  split at hu
  · rename_i e rest hsq
    obtain ⟨-, -, hu⟩ := bind_ok hu
    obtain ⟨s2, hdrain, hu⟩ := bind_ok hu
    obtain rfl := Except.ok.inj hu
    have hstore := drain_storesOnly (hpart.trans hp) hdrain
    rw [natToBytes_length] at hstore
    refine ⟨storesOnly_modSt hstore rfl fun _ => rfl, fun hnil => ?_⟩
    rw [hsq] at hnil
    contradiction
  · obtain ⟨-, -, hu⟩ := bind_ok hu
    split at hu
    · nomatch hu
    · obtain rfl := Except.ok.inj hu
      exact ⟨storesOnly_modSt (storesOnly_of_st (fun _ _ => rfl) rfl) rfl fun _ => rfl, fun _ => rfl⟩
end

/-- Below the strand pool the bytes stored read back (R103). -/
theorem rdByte_putLocal {s : State} {ea : Nat} {bs : List Byte} (p : Bool) (hw : s.mem.wf = true)
    (hea : ea + bs.length ≤ poolBase) {i : Nat} (hi : i < bs.length) :
    rdByte (s.putLocal ea bs p).mem (s.cur * 2 ^ 20 + ea + i) = bs[i] := by
  have hpool : ¬ (poolBase ≤ ea ∧ 16 ≤ ea % 64 ∧ ea % 64 < 24) := by omega
  have hne : ¬ bs.isEmpty = true := by
    rw [List.isEmpty_iff]
    rintro rfl
    exact Nat.not_lt_zero i hi
  rw [State.putLocal, if_neg hpool, State.stBytes, if_neg hne]
  dsimp only
  rw [modTileAt_mem, (meetFlips_frame _ s.cur ea _).2, modTileAt_mem]
  exact rdByte_wrBytes_in bs hw hi

/-- Settles O8: a local write reads back and keeps the rest, and a store that retires is its reads, a local write and
the move of its queues. -/
theorem storesChangeOnlyTheBytesAtEa : Obligations.StoresChangeOnlyTheBytesAtEa := by
  refine ⟨fun s ea bs p hw hea _ => ⟨fun i => rdByte_putLocal p hw hea, putLocal_memKept s ea bs p,
    putLocal_st s ea bs p⟩, fun f s s1 t x y hrd hd => ⟨fun h he => ?_, fun h he => ?_⟩⟩
  · obtain ⟨d, s2, hread, rfl⟩ := st_done hrd hd h he
    have hput := storesOnly_of_st (putLocal_memKept s2 (eaOf x.1 y.1 (fmtBytes f.fmt) f.imm).toNat
      (natToBytes (fmtBytes f.fmt) d.1.toNat) d.2) (putLocal_st s2 _ _ _)
    rw [natToBytes_length] at hput
    exact retire_storesOnly (readsOnly_trans (rd2_readsOnly hrd) (rdSrc_readsOnly hread)) hput
  · obtain ⟨u, rfl, hstore, hnil⟩ := stq_done hrd hd h he
    obtain ⟨hm, -⟩ := rd2_readsOnly hrd
    obtain ⟨hmr, -⟩ := retire_frame u
    exact ⟨fun hsq a => by rw [hmr, hnil hsq, hm], retire_storesOnly (rd2_readsOnly hrd) hstore⟩

/-! ### A strand that follows without a partner (R106, R354) -/

/-- A strand without a partner that is noted as a follower, with an entry 7 in `sq0`. -/
def followsNone : State :=
  { tiles := [(0, { strands := [(0, { slot := some 0, kind := 2, folw := true, sq := [(0, [(7, false)])] })],
                    bankOn := BitVec.allOnes 64 })] }

theorem followsNone_runs : followsNone.runs (.stq {}) {} :=
  ⟨⟨rfl, by decide, nofun, by decide +kernel, rfl, rfl⟩, by decide⟩

/-- Its `stq` at address 0 pops the entry, but the drain of a follower writes nothing. -/
theorem followsNone_stores : exec (.stq {}) followsNone =
    .next (followsNone.modSt fun st => { st with sq := st.sq.put 0 [] }).retire :=
  guardedOp_ok followsNone_runs rfl rfl

/-- Refutes O7: the statement stores the drained entry of every unpaired strand, but in the model a strand noted as a
follower drains nothing, and no premise says that a strand without a partner is not so noted. -/
theorem not_storesWriteLocalMemory : ¬ Obligations.StoresWriteLocalMemory := by
  intro h
  obtain ⟨-, hstq⟩ := h {} followsNone followsNone followsNone (0, false) (0, false) (7, false) rfl
  obtain ⟨-, hdrains, -⟩ := hstq followsNone_runs rfl
  have hstored := hdrains [] rfl (.inl rfl) (by rfl) rfl
  have hbyte := congrArg State.mem (Host.Outcome.next.inj (followsNone_stores.symm.trans hstored))
  exact absurd (congrArg (rdByte · 0) hbyte) (by decide +kernel)

/-! ### Traps (R113, R286) -/

/-- A strand with a trap route that stands in the claim queue of its tile. -/
def claimWaits : State :=
  { tiles := [(0, { strands := [(0, { slot := some 0, kind := 2 })], vwait := [0], kernel := some 0 })],
    kernels := [(0, { trt := true })] }

theorem claimWaits_runs : claimWaits.runs (.brk {}) {} :=
  ⟨⟨rfl, by decide, nofun, by decide +kernel, rfl, rfl⟩, by decide⟩

theorem claimWaits_traps : exec (.brk {}) claimWaits = .next (claimWaits.raise .breakpoint 0) :=
  guardedOp_trap claimWaits_runs rfl

/-- Refutes O13: the statement keeps all of the tile but its strands where a trap enters its handler, but a trap also
takes the strand's request out of the tile's claim queue, and no premise says that it has none there. -/
theorem not_trapsEnterTheHandlerOrStopTheContext : ¬ Obligations.TrapsEnterTheHandlerOrStopTheContext := by
  intro h
  obtain ⟨t, ht, -, -, -, -, -, -, -, -, -, -, -, -, -, htile, -⟩ :=
    h.1 (.brk {}) {} claimWaits 0x08 (by decide) claimWaits_runs rfl rfl
  obtain rfl := Host.Outcome.next.inj (claimWaits_traps.symm.trans ht)
  exact absurd (congrArg Tile.vwait htile) (by decide +kernel)

/-! ### Vector memory instructions (R133, R134, R137, R138) -/

theorem exec_vld (f : Fields) (s : State) : exec (.vld f) s = execVld f s := rfl
theorem exec_vst (f : Fields) (s : State) : exec (.vst f) s = execVst f s := rfl

theorem vec_completes {i : Instr} {s t : State} {body : State → Body State} (h : s.issues i)
    (he : exec i s = vecOp i s body) (hb : body s = t.enterV) (ht : maskRoom t) : s.completes i (Rules.queued t) :=
  mask_completes h he hb ht

theorem needLanes_ok {s : State} (h : s.st.vl ≠ 0) : s.needLanes = .ok () := by
  simp [State.needLanes, guardT, h]

theorem needTag_ok {f : Fields} {tag : BitVec 4} {v : VSrc} (h : Rules.tagOk f tag v) : needTag f tag v = .ok () := by
  rcases h with h | h | h <;> simp [needTag, guardT, h]

theorem needFmt_ok {f : Fields} {v : VSrc} (h : Rules.fmtOk f v) : needFmt f v = .ok () := by
  unfold needFmt
  split
  · rfl
  · exact needTag_ok (h.resolve_left ‹_›)

/-- The index register of a lane access, where it has one, passes its check (R133). -/
theorem index_passes {α : Type} {f : Fields} {v : VSrc} (h : f.c ≠ 0 → Rules.tagOk f 1 v) (k : Unit → Body α) :
    (if f.c ≠ 0 then needTag f 1 v >>= k else k ()) = k () := by
  split
  · rename_i hc
    rw [needTag_ok (h hc)]
    rfl
  · rfl

theorem maskRoom_of_local {s t : State} {tile : Nat} (h : maskRoom s) (hf : localFrame s t tile) : maskRoom t := by
  unfold maskRoom
  rwa [localFrame_st hf]

theorem maskRoom_rd2 {s t : State} {a b : BitVec 8} {x y : Word × Bool} (h : maskRoom s)
    (hr : s.rd2 a b = .ok (x, y, t)) : maskRoom t := by
  obtain ⟨u, ha, hb⟩ := rd2_cases hr
  exact maskRoom_rdSrc (maskRoom_rdSrc h ha) hb

theorem maskRoom_wrV {s : State} (h : maskRoom s) (d : BitVec 8) (img : Nat) (pois act : BitVec 64) (tag : BitVec 4)
    (blk : BitVec 8) : maskRoom (s.wrV d img pois act tag blk) := by
  unfold State.wrV maskRoom
  rwa [st_modSt]

theorem laneLoads_frame (s : State) (as : List (Nat × Word)) : localFrame s (s.laneLoads as).2 s.cur := by
  induction as generalizing s with
  | nil => exact localFrame_refl s s.cur
  | cons a as ih =>
    obtain ⟨hmet, -⟩ := meetFlips_frame s s.cur a.2.toNat 4
    have hrest := ih (s.meetFlips s.cur a.2.toNat 4)
    rw [hmet.1] at hrest
    exact localFrame_trans hmet hrest

/-- The stores of the lanes, one after another. -/
theorem laneStores_st (s : State) (as : List (Nat × Word)) (bs : Nat → List Byte) (p : Nat → Bool) :
    (as.foldl (fun s a => s.putLocal a.2.toNat (bs a.1) (p a.1)) s).st = s.st := by
  induction as generalizing s with
  | nil => rfl
  | cons a as ih => exact (ih _).trans (putLocal_st s _ _ _)

section
variable {f : Fields} {s s1 : State} {x y : Word × Bool} (hv : Rules.vecReady s)
  (hc : f.c ≠ 0 → Rules.tagOk f 1 (s.st.vsrc f.c)) (hrd : s.rd2 f.a f.b = .ok (x, y, s1))
  (hchk : s1.laneChecks f (x.2 || y.2) (laneAddrs f s.st (eaOf x.1 y.1 4 f.imm)) = .ok ())
  (hw : s1.laneWaits (laneAddrs f s.st (eaOf x.1 y.1 4 f.imm)) = .ok ())
include hv hc hrd hchk hw

theorem vld_completes (h : s.issues (.vld f)) :
    let r := s1.laneLoads (laneAddrs f s.st (eaOf x.1 y.1 4 f.imm))
    let find := fun i => ((r.1.find? fun v => v.1 == i).map Prod.snd).getD (0, false)
    s.completes (.vld f) (Rules.queued (r.2.wrV f.d (packElems 32 ((List.range 64).map fun i => (find i).1))
      (maskOf fun i => (find i).2) (actOf f s.st) f.fmt 0x80)) := by
  obtain ⟨hvl, hq⟩ := hv
  have hroom := maskRoom_of_local (maskRoom_rd2 (.inr hq) hrd)
    (laneLoads_frame s1 (laneAddrs f s.st (eaOf x.1 y.1 4 f.imm)))
  refine vec_completes h (exec_vld f s) ?_ (maskRoom_wrV hroom _ _ _ _ _ _)
  simp only [needLanes_ok hvl, bind, Except.bind]
  refine (index_passes hc _).trans ?_
  simp only [hrd, hchk, hw]
  rfl

theorem vst_completes (h : s.issues (.vst f)) (hd : Rules.fmtOk f (s.st.vsrc f.d))
    (hp : f.sat = true ∨ ∀ a ∈ laneAddrs f s.st (eaOf x.1 y.1 4 f.imm), (s.st.vsrc f.d).x.pois.getLsbD a.1 = false) :
    s.completes (.vst f) (Rules.queued ((laneAddrs f s.st (eaOf x.1 y.1 4 f.imm)).foldl (fun t a =>
      t.putLocal a.2.toNat (natToBytes 4 ((s.st.vsrc f.d).x.lane a.1)) ((s.st.vsrc f.d).x.pois.getLsbD a.1)) s1)) := by
  obtain ⟨hvl, hq⟩ := hv
  have hroom : maskRoom ((laneAddrs f s.st (eaOf x.1 y.1 4 f.imm)).foldl (fun t a =>
      t.putLocal a.2.toNat (natToBytes 4 ((s.st.vsrc f.d).x.lane a.1)) ((s.st.vsrc f.d).x.pois.getLsbD a.1)) s1) := by
    unfold maskRoom
    rw [laneStores_st s1 _ (fun i => natToBytes 4 ((s.st.vsrc f.d).x.lane i)) fun i => (s.st.vsrc f.d).x.pois.getLsbD i]
    exact maskRoom_rd2 (.inr hq) hrd
  have hpois : (!f.sat && (laneAddrs f s.st (eaOf x.1 y.1 4 f.imm)).any fun a =>
      (s.st.vsrc f.d).x.pois.getLsbD a.1) = false := by
    rcases hp with hp | hp
    · rw [hp]
      rfl
    · rw [List.any_eq_false.mpr fun a ha => by rw [hp a ha]; exact Bool.false_ne_true, Bool.and_false]
  refine vec_completes h (exec_vst f s) ?_ hroom
  simp only [needLanes_ok hvl, bind, Except.bind]
  refine (index_passes hc _).trans ?_
  simp only [needFmt_ok hd, hrd, hchk, hpois, guardT, hw, Bool.false_eq_true, if_false]
end

theorem pwlset_completes {f : Fields} {s s1 : State} {x : Word × Bool} (h : s.runs (.pwlset f) f)
    (hrd : s.rdSrc f.a = .ok (x, s1))
    (hc : s1.localCheck x.1 (20 * (bitsN f.imm.toNat 0 6 + 1)) 4 x.2 = .ok ()) (hf : s1.tl.flips = [])
    (hq : maskRoom s)
    (hbp : bpBad ((List.range (bitsN f.imm.toNat 0 6 + 1)).map fun j => fp32.val
      ((s1.pwlWords x.1.toNat (bitsN f.imm.toNat 0 6 + 1)).getD (5 * j) 0).toNat) = false)
    (hp : s1.ldPois s1.cur x.1.toNat (20 * (bitsN f.imm.toNat 0 6 + 1)) = false) :
    s.completes (.pwlset f) (Rules.queued (s1.modTl fun t => { t with
      pwl := pwlMap (s1.pwlWords x.1.toNat (bitsN f.imm.toNat 0 6 + 1)), pwln := bitsN f.imm.toNat 0 6 + 1 })) := by
  have hroom : maskRoom (s1.modTl fun t => { t with
      pwl := pwlMap (s1.pwlWords x.1.toNat (bitsN f.imm.toNat 0 6 + 1)), pwln := bitsN f.imm.toNat 0 6 + 1 }) := by
    unfold maskRoom
    rw [st_modTl]
    exact maskRoom_rdSrc hq hrd
  refine guarded_completes h rfl ?_
  rw [← enterV_of_room hroom]
  simp only [hrd, hc, meetFlips_none _ _ hf, guardMet, hbp, hp, Bool.false_eq_true, if_false, bind, Except.bind]

/-- Settles O19: each vector memory instruction completes once its checks and its waits have passed. -/
theorem vectorMemoryInstructionsComplete : Obligations.VectorMemoryInstructionsComplete := by
  intro f s s1 x y
  exact ⟨fun hv h hc hrd hchk hw => vld_completes hv hc hrd hchk hw h,
    fun hv h hc hd hrd hchk hp hw => vst_completes hv hc hrd hchk hw h hd hp,
    fun h hrd hc hf hq hbp hp => pwlset_completes h hrd hc hf hq hbp hp⟩

end Sys2Proof.Proofs
end

section
/-! PROOFS. The statements about lane moves and about vector conversions. -/

namespace Sys2Proof.Proofs

open Sys2Proof.Machine Sys2Proof.Laws

/-! ### What a vector move or conversion runs -/

theorem exec_vcmp (c : VCond) (f : Fields) (s : State) : exec (.vcmp c f) s = execVcmp c f s := rfl
theorem exec_vsel (f : Fields) (s : State) : exec (.vsel f) s = execVsel f s := rfl
theorem exec_vpois (f : Fields) (s : State) : exec (.vpois f) s = execVpois f s := rfl
theorem exec_vperm (f : Fields) (s : State) : exec (.vperm f) s = execVperm f s := rfl
theorem exec_vbcast (f : Fields) (s : State) : exec (.vbcast f) s = execVbcast f s := rfl
theorem exec_vext (f : Fields) (s : State) : exec (.vext f) s = execVext f s := rfl
theorem exec_vins (f : Fields) (s : State) : exec (.vins f) s = execVins f s := rfl
theorem exec_vblk (f : Fields) (s : State) : exec (.vblk f) s = execVblk f s := rfl
theorem exec_vblkSet (f : Fields) (s : State) : exec (.vblkSet f) s = execVblkSet f s := rfl
theorem exec_vcvt (f : Fields) (s : State) : exec (.vcvt f) s = execVcvt f s := rfl
theorem exec_vred (op : RedOp) (f : Fields) (s : State) : exec (.vred op f) s = execVred op f s := rfl
theorem exec_vscan (op : RedOp) (f : Fields) (s : State) : exec (.vscan op f) s = execVscan op f s := rfl
theorem exec_vqPc (f : Fields) (s : State) : exec (.vqPc f) s = execVqPc f s := rfl
theorem exec_vqCb (f : Fields) (s : State) : exec (.vqCb f) s = execVqCb f s := rfl

/-! ### Compare, select and poison test (R125 to R127) -/

section
variable {f : Fields} {s : State}

theorem vpois_reports (hq : maskRoom s) (h : s.issues (.vpois f))
    (hclr : f.imm.getLsbD 0 = false ∨ (s.st.vsrc f.a).const = true) :
    s.completes (.vpois f) (Rules.queued (s.wrK f.d (s.st.vsrc f.a).x.pois (actOf f s.st) false)) := by
  have hkeep : (f.imm.getLsbD 0 && !(s.st.vsrc f.a).const) = false := by
    rcases hclr with h | h
    · rw [h, Bool.false_and]
    · rw [h, Bool.not_true, Bool.and_false]
  refine vec_completes h (exec_vpois f s) ?_ (maskRoom_wrK hq _ _ _ _)
  simp only [hkeep, Bool.false_eq_true, if_false]

theorem vpois_clears (hq : maskRoom s) (h : s.issues (.vpois f)) (hclr : f.imm.getLsbD 0 = true)
    (ha : (s.st.vsrc f.a).const = false) :
    s.completes (.vpois f) (Rules.queued ((s.wrK f.d (s.st.vsrc f.a).x.pois (actOf f s.st) false).modSt fun st =>
      st.wv (opIdx f.a) { st.rv (opIdx f.a) with pois := (st.rv (opIdx f.a)).pois &&& ~~~ actOf f s.st })) := by
  have hroom := maskRoom_wrK hq f.d (s.st.vsrc f.a).x.pois (actOf f s.st) false
  refine vec_completes h (exec_vpois f s) ?_ ?_
  · simp only [hclr, ha, Bool.not_false, Bool.and_self, if_true]
  · unfold maskRoom
    rwa [st_modSt]

variable (hv : Rules.vecReady s)
include hv

theorem vcmp_completes {c : VCond} (h : s.issues (.vcmp c f)) (ha : Rules.fmtOk f (s.st.vsrc f.a))
    (hb : Rules.fmtOk f (s.st.vsrc f.b)) :
    let a := s.st.vsrc f.a
    let b := s.st.vsrc f.b
    let pz := (a.x.pois ||| b.x.pois) &&& actOf f s.st
    let m := maskOf fun i => vcondHolds c f (a.x.elem f.ew (f.epl * i + f.part)) (b.x.elem f.ew (f.epl * i + f.part))
    s.completes (.vcmp c f) (Rules.queued (s.wrK f.d (m &&& ~~~ pz) (actOf f s.st) (pz != 0))) := by
  obtain ⟨hvl, hq⟩ := hv
  refine vec_completes h (exec_vcmp c f s) ?_ (maskRoom_wrK (.inr hq) _ _ _ _)
  simp only [needLanes_ok hvl, needFmt_ok ha, needFmt_ok hb, bind, Except.bind]

theorem vsel_completes (h : s.issues (.vsel f)) (ha : Rules.fmtOk f (s.st.vsrc f.a))
    (hb : Rules.fmtOk f (s.st.vsrc f.b))
    (hblk : (s.st.vsrc f.a).const = true ∨ (s.st.vsrc f.b).const = true ∨
      (s.st.vsrc f.a).x.blk = (s.st.vsrc f.b).x.blk) :
    let a := s.st.vsrc f.a
    let b := s.st.vsrc f.b
    let k := s.st.rk (opIdx f.c)
    s.completes (.vsel f) (Rules.queued (s.wrV f.d
      ((a.x.lanes &&& laneBits k) ||| (b.x.lanes &&& ~~~ laneBits k)).toNat
      ((a.x.pois &&& k) ||| (b.x.pois &&& ~~~ k)) (actOf f s.st) f.fmt (if a.const then b.x.blk else a.x.blk))) := by
  obtain ⟨hvl, hq⟩ := hv
  have hblocks : (!(s.st.vsrc f.a).const && !(s.st.vsrc f.b).const &&
      (s.st.vsrc f.a).x.blk != (s.st.vsrc f.b).x.blk) = false := by
    rcases hblk with h | h | h <;> simp [h]
  refine vec_completes h (exec_vsel f s) ?_ (maskRoom_wrV (.inr hq) _ _ _ _ _ _)
  simp only [needLanes_ok hvl, needFmt_ok ha, needFmt_ok hb, hblocks, guardT, Bool.false_eq_true, if_false, bind,
    Except.bind]

/-! ### Moves between lanes and registers (R132) -/

theorem vperm_completes (h : s.issues (.vperm f)) (ha : Rules.fmtOk f (s.st.vsrc f.a))
    (hb : Rules.tagOk f 1 (s.st.vsrc f.b)) :
    let a := s.st.vsrc f.a
    let b := s.st.vsrc f.b
    let off := fun i => decide (2 ^ 31 ≤ b.x.lane i)
    s.completes (.vperm f) (Rules.queued (s.wrV f.d
      (packElems 32 ((List.range 64).map fun i => if off i then 0 else a.x.lane (b.x.lane i % 64)))
      (maskOf fun i => b.x.pois.getLsbD i || (!off i && a.x.pois.getLsbD (b.x.lane i % 64)))
      (actOf f s.st) f.fmt a.x.blk)) := by
  obtain ⟨hvl, hq⟩ := hv
  refine vec_completes h (exec_vperm f s) ?_ (maskRoom_wrV (.inr hq) _ _ _ _ _ _)
  simp only [needLanes_ok hvl, needFmt_ok ha, needTag_ok hb, bind, Except.bind]

theorem vblk_completes (h : s.issues (.vblk f)) (ha : Rules.fmtOk f (s.st.vsrc f.a)) :
    s.completes (.vblk f) (Rules.queued (s.wrG f.d
      (BitVec.ofInt 64 (blkChoose (activeVals f (s.st.vsrc f.a).x (actOf f s.st))))
      (((s.st.vsrc f.a).x.pois &&& actOf f s.st) != 0))) := by
  obtain ⟨hvl, hq⟩ := hv
  refine vec_completes h (exec_vblk f s) ?_ (maskRoom_wrG (.inr hq) _ _ _)
  simp only [needLanes_ok hvl, needFmt_ok ha, bind, Except.bind]

variable {s1 : State} {x y : Word × Bool}

theorem vbcast_completes (h : s.issues (.vbcast f)) (hrd : s.rdSrc f.a = .ok (x, s1)) :
    s.completes (.vbcast f) (Rules.queued (s1.wrV f.d (packElems 32 (List.replicate 64 x.1.toNat))
      (if x.2 then BitVec.allOnes 64 else 0) (actOf f s.st) f.fmt 0x80)) := by
  obtain ⟨hvl, hq⟩ := hv
  refine vec_completes h (exec_vbcast f s) ?_ (maskRoom_wrV (maskRoom_rdSrc (.inr hq) hrd) _ _ _ _ _ _)
  simp only [needLanes_ok hvl, hrd, bind, Except.bind]
  rfl

theorem vext_inactive (h : s.issues (.vext f)) (ha : Rules.fmtOk f (s.st.vsrc f.a))
    (hrd : s.rdSrc f.b = .ok (y, s1)) (hl : (actOf f s.st).getLsbD (laneIdx f y.1) = false) :
    s.completes (.vext f) (Rules.queued s1) := by
  obtain ⟨hvl, hq⟩ := hv
  refine vec_completes h (exec_vext f s) ?_ (maskRoom_rdSrc (.inr hq) hrd)
  simp only [needLanes_ok hvl, needFmt_ok ha, hrd, hl, Bool.false_eq_true, if_false, bind, Except.bind]

theorem vext_active (h : s.issues (.vext f)) (ha : Rules.fmtOk f (s.st.vsrc f.a))
    (hrd : s.rdSrc f.b = .ok (y, s1)) (hl : (actOf f s.st).getLsbD (laneIdx f y.1) = true) :
    s.completes (.vext f) (Rules.queued (s1.wrG f.d
      (if f.fmt = 1 ∧ f.iw = 0 then BitVec.ofInt 64 (sextN 32 ((s.st.vsrc f.a).x.lane (laneIdx f y.1)))
        else BitVec.ofNat 64 ((s.st.vsrc f.a).x.lane (laneIdx f y.1)))
      ((s.st.vsrc f.a).x.pois.getLsbD (laneIdx f y.1) || y.2))) := by
  obtain ⟨hvl, hq⟩ := hv
  refine vec_completes h (exec_vext f s) ?_ (maskRoom_wrG (maskRoom_rdSrc (.inr hq) hrd) _ _ _)
  simp only [needLanes_ok hvl, needFmt_ok ha, hrd, hl, if_true, bind, Except.bind]

theorem vins_completes (h : s.issues (.vins f)) (hd : Rules.fmtOk f (s.st.vsrc f.d))
    (hrd : s.rd2 f.a f.b = .ok (x, y, s1)) :
    s.completes (.vins f) (Rules.queued (s1.wrV f.d (packElems 32 (List.replicate 64 x.1.toNat))
      (if x.2 || y.2 then BitVec.allOnes 64 else 0) (actOf f s.st &&& (1#64 <<< laneIdx f y.1))
      (if (actOf f s.st).getLsbD (laneIdx f y.1) then f.fmt else (s.st.vsrc f.d).x.tag)
      (s.st.vsrc f.d).x.blk)) := by
  obtain ⟨hvl, hq⟩ := hv
  refine vec_completes h (exec_vins f s) ?_ (maskRoom_wrV (maskRoom_rd2 (.inr hq) hrd) _ _ _ _ _ _)
  simp only [needLanes_ok hvl, needFmt_ok hd, hrd, bind, Except.bind]

theorem vblkSet_completes (h : s.issues (.vblkSet f)) (ha : Rules.fmtOk f (s.st.vsrc f.a))
    (hrd : s.rdSrc f.b = .ok (y, s1)) :
    s.completes (.vblkSet f) (Rules.queued (s1.wrV f.d (s.st.vsrc f.a).x.lanes.toNat
      (if y.2 then BitVec.allOnes 64 else (s.st.vsrc f.a).x.pois) (actOf f s.st) f.fmt (y.1.truncate 8))) := by
  obtain ⟨hvl, hq⟩ := hv
  refine vec_completes h (exec_vblkSet f s) ?_ (maskRoom_wrV (maskRoom_rdSrc (.inr hq) hrd) _ _ _ _ _ _)
  simp only [needLanes_ok hvl, needFmt_ok ha, hrd, bind, Except.bind]
end

/-- Settles O17: a lemma per lane move, each from its checks, its reads and its one write. -/
theorem laneMovesWriteTheirResult : Obligations.LaneMovesWriteTheirResult := by
  intro f s s1 x y hv
  have hq : maskRoom s := .inr hv.2
  exact ⟨fun c => vcmp_completes hv, vsel_completes hv, vpois_reports hq, vpois_clears hq, vperm_completes hv,
    vbcast_completes hv, fun h ha hrd => ⟨vext_inactive hv h ha hrd, vext_active hv h ha hrd⟩, vins_completes hv,
    vblk_completes hv, vblkSet_completes hv⟩

/-! ### Lanes of a register (R49, R116) -/

/-- Element i of packed elements, bit by bit. -/
theorem testBit_packElems (ew : Nat) (xs : List Nat) (i : Nat) {k : Nat} (hk : k < ew) :
    (packElems ew xs).testBit (ew * i + k) = (xs.getD i 0).testBit k := by
  induction xs generalizing i with
  | nil => simp [packElems]
  | cons x xs ih =>
    have hcons : packElems ew (x :: xs) = 2 ^ ew * packElems ew xs + x % 2 ^ ew := by
      rw [packElems, List.foldr_cons, Nat.mul_comm]
      rfl
    rw [hcons, Nat.testBit_two_pow_mul_add _ (Nat.mod_lt _ (Nat.two_pow_pos ew))]
    cases i with
    | zero => simp [hk]
    | succ i =>
      have hsub : ew * (i + 1) + k - ew = ew * i + k := by rw [Nat.mul_succ]; omega
      rw [if_neg (by rw [Nat.mul_succ]; omega), hsub, ih i]
      simp

theorem laneBits_bit (act : BitVec 64) {i k : Nat} (hi : i < 64) (hk : k < 32) :
    (laneBits act).getLsbD (32 * i + k) = act.getLsbD i := by
  have hb : 32 * i + k < 2048 := by omega
  have hword : ((List.range 64).map fun i => if act.getLsbD i then 2 ^ 32 - 1 else 0).getD i 0 =
      if act.getLsbD i then 2 ^ 32 - 1 else 0 := by
    rw [List.getD_eq_getElem?_getD, List.getElem?_map, List.getElem?_range hi, Option.map_some, Option.getD_some]
  rw [laneBits, BitVec.getLsbD_ofNat, testBit_packElems 32 _ i hk, hword, decide_eq_true hb, Bool.true_and]
  split
  · rw [Nat.testBit_two_pow_sub_one, decide_eq_true hk]
    exact Eq.symm ‹_›
  · rw [Nat.zero_testBit]
    exact (Bool.eq_false_iff.mpr ‹_›).symm

/-- A write of a vector register keeps the lanes that are not active. -/
theorem lane_update_inactive (old : VReg) (img : Nat) (pois act : BitVec 64) (tag : BitVec 4) (blk : BitVec 8) {i : Nat}
    (hi : i < 64) (ha : act.getLsbD i = false) : (old.update img pois act tag blk).lane i = old.lane i := by
  refine Nat.eq_of_testBit_eq fun k => ?_
  unfold VReg.lane VReg.elem
  rw [testBit_bitsN, testBit_bitsN]
  by_cases hk : k < 32
  · have hb : 32 * i + k < 2048 := by omega
    simp only [VReg.update, BitVec.testBit_toNat, BitVec.getLsbD_or, BitVec.getLsbD_and, BitVec.getLsbD_not,
      laneBits_bit act hi hk, ha, hb, decide_true, Bool.and_false, Bool.false_or, Bool.not_false, Bool.and_true]
  · simp only [hk, decide_false, Bool.false_and]

/-! ### Conversions with parts (R128) -/

theorem queued_lanes {s : State} (h : s.st.vl ≠ 0) :
    Rules.queued s = s.modSt fun st => { st with vq := st.vq + 1 } := if_neg h

theorem vecReady_rdSrc {s t : State} {sp : BitVec 8} {x : Word × Bool} (h : Rules.vecReady s)
    (hr : s.rdSrc sp = .ok (x, t)) : Rules.vecReady t := by
  obtain ⟨-, hf, -⟩ := rdSrc_frame hr
  rwa [Rules.vecReady, ← hf] at h

/-- What a conversion with parts makes of the issuing strand: RNGS, the register of D, and one more queued command. -/
def partStrand (f : Fields) (g : BitVec 32) (img : Nat) (pois : BitVec 64) (tag : BitVec 4) (blk : BitVec 8)
    (st : Strand) : Strand :=
  { st.wv (opIdx f.d) ((st.rv (opIdx f.d)).update img pois (actOf f st) tag blk) with rngs := g, vq := st.vq + 1 }

theorem partStrand_keeps (f : Fields) (g : BitVec 32) (img : Nat) (pois : BitVec 64) (tag : BitVec 4) (blk : BitVec 8)
    (st : Strand) : { partStrand f g img pois tag blk st with v := st.v, rngs := st.rngs, vq := st.vq } = st := rfl

theorem partStrand_frame {f : Fields} {s : State} (g : BitVec 32) (img : Nat) (pois : BitVec 64) (tag : BitVec 4)
    (blk : BitVec 8) : Rules.partFrame s (s.modSt (partStrand f g img pois tag blk)) f tag blk := by
  have hrv : ∀ n, (partStrand f g img pois tag blk s.st).rv n = if opIdx f.d = n then
      (s.st.rv (opIdx f.d)).update img pois (actOf f s.st) tag blk else s.st.rv n := fun n => rv_wv s.st (opIdx f.d) n _
  unfold Rules.partFrame
  rw [st_modSt]
  refine ⟨onlyStrand_modSt s _, partStrand_keeps f g img pois tag blk s.st, rfl, ?_, ?_, fun n hn => ?_, fun i hi ha => ?_⟩
  · rw [hrv, if_pos rfl]
    rfl
  · rw [hrv, if_pos rfl]
    rfl
  · rw [hrv, if_neg hn.symm]
  · rw [hrv, if_pos rfl]
    exact lane_update_inactive _ _ _ _ _ _ hi ha

/-- The writes of a conversion with parts, whose command enters its queue, are one change of the strand. -/
theorem partWrites_enter {f : Fields} {s : State} (hv : Rules.vecReady s) (g : BitVec 32) (img : Nat) (pois : BitVec 64)
    (tag : BitVec 4) (blk : BitVec 8) :
    ((s.modSt fun st => { st with rngs := g }).wrV f.d img pois (actOf f s.st) tag blk).enterV =
      .ok (s.modSt (partStrand f g img pois tag blk)) := by
  obtain ⟨hvl, hq⟩ := hv
  have hwrites : (s.modSt fun st => { st with rngs := g }).wrV f.d img pois (actOf f s.st) tag blk =
      s.modSt fun st => { st.wv (opIdx f.d) ((st.rv (opIdx f.d)).update img pois (actOf f s.st) tag blk) with
        rngs := g } := modSt_comp s _ _
  have hroom : maskRoom ((s.modSt fun st => { st with rngs := g }).wrV f.d img pois (actOf f s.st) tag blk) := by
    rw [hwrites, maskRoom, st_modSt]
    exact .inr hq
  have hlanes : ((s.modSt fun st => { st with rngs := g }).wrV f.d img pois (actOf f s.st) tag blk).st.vl ≠ 0 := by
    rw [hwrites, st_modSt]
    exact hvl
  rw [enterV_of_room hroom, queued_lanes hlanes, hwrites, modSt_comp]
  exact congrArg _ (modSt_congr rfl)

/-- A conversion with parts whose command has room answers a state that differs as R128 says. -/
theorem partWise_ok {f : Fields} {s : State} (hv : Rules.vecReady s) (ns nd : Nat) (src : VReg)
    (op : Nat → BitVec 32 → Nat → (Nat × Bool) × BitVec 32) (pois : BitVec 64) (tag : BitVec 4) (blk : BitVec 8) :
    ∃ t, s.partWise f ns nd src op pois tag blk = .ok t ∧ Rules.partFrame s t f tag blk :=
  ⟨_, partWrites_enter hv _ _ _ tag blk, partStrand_frame _ _ _ tag blk⟩

/-- A conversion with parts whose body comes to `partWise` completes with what that answers. -/
theorem part_completes {i : Instr} {f : Fields} {s s1 : State} {body : State → Body State} {ns nd : Nat} {src : VReg}
    {op : Nat → BitVec 32 → Nat → (Nat × Bool) × BitVec 32} {pois : BitVec 64} {tag : BitVec 4} {blk : BitVec 8}
    (hv : Rules.vecReady s1) (h : s.issues i) (he : exec i s = vecOp i s body)
    (hb : body s = s1.partWise f ns nd src op pois tag blk) :
    ∃ t, s1.partWise f ns nd src op pois tag blk = .ok t ∧ Rules.partFrame s1 t f tag blk ∧ s.completes i t := by
  obtain ⟨t, ht, hframe⟩ := partWise_ok (f := f) hv ns nd src op pois tag blk
  exact ⟨t, ht, hframe, completes_of fun hs => he.trans (strandOp_ok h (hb.trans ht) hs)⟩

section
variable {f : Fields} {s s1 : State} {c : Word × Bool} (hv : Rules.vecReady s)
include hv

theorem vcvt_plain (h : s.issues (.vcvt f)) (ha : Rules.tagOk f (BitVec.ofNat 4 f.sf) (s.st.vsrc f.a))
    (h7 : f.fmt ≠ 7) (h10 : f.fmt ≠ 10) (h11 : f.fmt ≠ 11) :
    ∃ t, s.partWise f (eplOf (BitVec.ofNat 4 f.sf) f.siw) f.epl (s.st.vsrc f.a).x
      (fun x g _ => cvtElem f (s.st.vsrc f.a).x.blk 0 x g) ((s.st.vsrc f.a).x.pois ||| 0) f.fmt 0x80 = .ok t ∧
      Rules.partFrame s t f f.fmt 0x80 ∧ s.completes (.vcvt f) t := by
  have hblk : (f.fmt == 7 || f.fmt == 10 || f.fmt == 11) = false := by
    simp only [beq_eq_false_iff_ne.mpr h7, beq_eq_false_iff_ne.mpr h10, beq_eq_false_iff_ne.mpr h11, Bool.or_false]
  refine part_completes hv h (exec_vcvt f s) ?_
  simp only [needLanes_ok hv.1, needTag_ok ha, hblk, guardT, Bool.false_and, Bool.false_eq_true, if_false, bind,
    Except.bind, pure, Except.pure]
  rfl

theorem vcvt_blocks (h : s.issues (.vcvt f)) (ha : Rules.tagOk f (BitVec.ofNat 4 f.sf) (s.st.vsrc f.a))
    (hfmt : f.fmt = 7 ∨ f.fmt = 10 ∨ f.fmt = 11) (hrd : s.rdSrc f.c = .ok (c, s1))
    (hset : (c.1.truncate 8 : BitVec 8) ≠ 0x80) :
    ∃ t, s1.partWise f (eplOf (BitVec.ofNat 4 f.sf) f.siw) f.epl (s.st.vsrc f.a).x
      (fun x g _ => cvtElem f (s.st.vsrc f.a).x.blk (c.1.truncate 8) x g)
      ((s.st.vsrc f.a).x.pois ||| if c.2 then BitVec.allOnes 64 else 0#64) f.fmt (c.1.truncate 8) = .ok t ∧
      Rules.partFrame s1 t f f.fmt (c.1.truncate 8) ∧ s.completes (.vcvt f) t := by
  have hblk : (f.fmt == 7 || f.fmt == 10 || f.fmt == 11) = true := by
    rcases hfmt with h | h | h <;> rw [h] <;> rfl
  have hexp : ((c.1.truncate 8 : BitVec 8) == blkUnset) = false := beq_eq_false_iff_ne.mpr hset
  refine part_completes (vecReady_rdSrc hv hrd) h (exec_vcvt f s) ?_
  simp only [needLanes_ok hv.1, needTag_ok ha, hblk, hrd, guardT, hexp, Bool.and_false, Bool.false_eq_true, if_false,
    if_true, bind, Except.bind]
  rfl

theorem vqPc_completes (h : s.issues (.vqPc f)) (ha : Rules.fmtOk f (s.st.vsrc f.a))
    (hb : Rules.fmtOk f (s.st.vsrc f.b)) (hrd : s.rdSrc f.c = .ok (c, s1)) :
    let a := s.st.vsrc f.a
    let b := s.st.vsrc f.b
    let val := fun x => (fltOf f.fmt.toNat).val x
    let k := bitsN c.1.toNat 8 3 + 1
    ∃ t, s1.partWise f (eplOf f.fmt 0) 4 a.x
      (fun x g e => planeCode (val x) (val (b.x.elem (32 / eplOf f.fmt 0) e)) (bitsN c.1.toNat 0 8) k (rmOf f.rnd) g)
      (a.x.pois ||| b.x.pois ||| if c.2 then BitVec.allOnes 64 else 0#64) 8 (BitVec.ofNat 8 (k - 1)) = .ok t ∧
      Rules.partFrame s1 t f 8 (BitVec.ofNat 8 (k - 1)) ∧ s.completes (.vqPc f) t := by
  refine part_completes (vecReady_rdSrc hv hrd) h (exec_vqPc f s) ?_
  simp only [needLanes_ok hv.1, needFmt_ok ha, needFmt_ok hb, hrd, bind, Except.bind]
  rfl

theorem vqCb_completes (h : s.issues (.vqCb f)) (ha : Rules.fmtOk f (s.st.vsrc f.a))
    (hb : Rules.tagOk f 7 (s.st.vsrc f.b)) (hrd : s.rdSrc f.c = .ok (c, s1)) :
    let a := s.st.vsrc f.a
    let b := s.st.vsrc f.b
    let n := bitsN c.1.toNat 0 4 + 1
    let book := usable ((List.range n).map fun j => b.x.elem 8 j) (blkInt b.x.blk)
    let bp := (List.range ((n + 3) / 4)).any fun i => b.x.pois.getLsbD i
    ∃ t, s1.partWise f (eplOf f.fmt 0) 4 a.x (fun x g _ => (bookIndex book ((fltOf f.fmt.toNat).val x), g))
      (a.x.pois ||| if c.2 || bp then BitVec.allOnes 64 else 0#64) 9 (BitVec.ofNat 8 (n - 1)) = .ok t ∧
      Rules.partFrame s1 t f 9 (BitVec.ofNat 8 (n - 1)) ∧ s.completes (.vqCb f) t := by
  refine part_completes (vecReady_rdSrc hv hrd) h (exec_vqCb f s) ?_
  simp only [needLanes_ok hv.1, needFmt_ok ha, needTag_ok hb, hrd, bind, Except.bind]
  rfl

/-! ### Reductions and scans (R130, R131) -/

omit hv in
/-- A bitwise operator passes the check of its format (R130). -/
theorem redBitwise_passes {op : RedOp} (h : redBitwise op = true → f.fmt = 1) :
    (redBitwise op && f.fmt != 1) = false := by
  by_cases hb : redBitwise op = true
  · rw [h hb, bne_self_eq_false, Bool.and_false]
  · rw [Bool.eq_false_iff.mpr hb, Bool.false_and]

theorem vred_completes {op : RedOp} (h : s.issues (.vred op f)) (ha : Rules.fmtOk f (s.st.vsrc f.a))
    (hop : redBitwise op = true → f.fmt = 1) :
    let a := s.st.vsrc f.a
    let act := actOf f s.st
    s.completes (.vred op f) (Rules.queued (s.wrG f.d
      (if f.fmt = 1 then BitVec.ofInt 64 (intVal f.ew (iwSigned f.iw) (redNarrow op f
          ((treeFold (redInt op f.ew) (redIntSrc op f a.x act) (levelsOf f.epl)).headD 0)))
        else BitVec.ofNat 64 ((treeFold (redFlt op f) (redFltSrc op f a.x act) (levelsOf f.epl)).headD 0))
      ((a.x.pois &&& act) != 0))) := by
  obtain ⟨hvl, hq⟩ := hv
  refine vec_completes h (exec_vred op f s) ?_ (maskRoom_wrG (.inr hq) _ _ _)
  simp only [needLanes_ok hvl, needFmt_ok ha, redBitwise_passes hop, guardT, Bool.false_eq_true, if_false, bind,
    Except.bind]

theorem vscan_completes {op : RedOp} (h : s.issues (.vscan op f)) (ha : Rules.fmtOk f (s.st.vsrc f.a))
    (hop : redBitwise op = true → f.fmt = 1) :
    let a := s.st.vsrc f.a
    let act := actOf f s.st
    s.completes (.vscan op f) (Rules.queued (s.wrV f.d
      (packElems f.ew (if f.fmt = 1 then
          (scanSteps (redInt op f.ew) 1 (redIntSrc op f a.x act) (levelsOf f.epl)).map (redNarrow op f)
        else scanSteps (redFlt op f) 1 (redFltSrc op f a.x act) (levelsOf f.epl)))
      (prefixPois (a.x.pois &&& act)) act f.fmt 0x80)) := by
  obtain ⟨hvl, hq⟩ := hv
  refine vec_completes h (exec_vscan op f s) ?_ (maskRoom_wrV (.inr hq) _ _ _ _ _ _)
  simp only [needLanes_ok hvl, needFmt_ok ha, redBitwise_passes hop, guardT, Bool.false_eq_true, if_false, bind,
    Except.bind]
  rfl
end

/-- Settles O18: a conversion with parts through what `partWise` leaves, a reduction and a scan through their one
write. -/
theorem vectorConversionsWriteTheirResult : Obligations.VectorConversionsWriteTheirResult := by
  intro f s s1 c hv
  exact ⟨vcvt_plain hv, vcvt_blocks hv, fun op => vred_completes hv, fun op => vscan_completes hv, vqPc_completes hv,
    vqCb_completes hv⟩

end Sys2Proof.Proofs
end

section
/-! PROOFS. The statement about grants and windows: the queues of claims, the windows of the vector unit and the turns of
the table engine. -/

namespace Sys2Proof.Proofs

open Sys2Proof.Machine Sys2Proof.Laws

/-! ### Steps of a tile (R120, R147, R168, R187) -/

theorem onlyTile_modTileAt (s : State) (tile : Nat) (f : Tile → Tile) : Rules.onlyTile s (s.modTileAt tile f) tile :=
  ⟨rfl, fun _ hn => tileAt_modTileAt_ne s f hn.symm⟩

theorem strandAt_modTileAt_same (s : State) (tile r : Nat) (f : Tile → Tile) :
    (s.modTileAt tile f).strandAt tile r = (f (s.tileAt tile)).strands.val {} r := by
  rw [State.strandAt, tileAt_modTileAt_same]

theorem strand_modStrand_ne (t : Tile) {r q : Nat} (f : Strand → Strand) (h : q ≠ r) :
    (t.modStrand r f).strands.val {} q = t.strands.val {} q := val_put_ne _ _ _ h.symm

theorem stepIf_true {c : Bool} (h : c = true) (s t : State) : stepIf c s t = .next t := by
  rw [stepIf, if_pos h]

theorem stepIf_false {c : Bool} (h : c = false) (s t : State) : stepIf c s t = .next s := by
  rw [stepIf, h, if_neg Bool.false_ne_true]

theorem exec_vclaimGrant (tile : Nat) (s : State) : exec (.vclaimGrant tile) s = execVclaimGrant tile s := rfl
theorem exec_mclaimGrant (tile : Nat) (s : State) : exec (.mclaimGrant tile) s = execMclaimGrant tile s := rfl
theorem exec_vectorWindow (tile : Nat) (s : State) : exec (.vectorWindow tile) s = execVectorWindow tile s := rfl
theorem exec_tableCommandStart (tile : Nat) (s : State) :
    exec (.tableCommandStart tile) s = execTableCommandStart tile s := rfl

/-! ### Grants of lanes (R120) -/

theorem claimHead_first {t : Tile} {r lo hi : Nat} {d : BitVec 8} {rest : List Nat} (hw : t.vwait = r :: rest)
    (hr : (t.strands.val {} r).vreq = some (lo, hi, d)) : t.claimHead = some (r, lo, hi) := by
  simp only [Tile.claimHead, hw, hr]

/-- The head of a queue of lane requests is granted where MIN groups are free. -/
theorem grantHead_first {t : Tile} {r lo hi : Nat} {d : BitVec 8} {rest : List Nat} (hw : t.vwait = r :: rest)
    (hr : (t.strands.val {} r).vreq = some (lo, hi, d)) (hf : lo ≤ t.freeGroups) :
    t.grantHead = ({ t with vwait := rest } : Tile).modStrand r fun st =>
      { st with vl := 8 * min hi t.freeGroups, vreq := st.vreq.map fun q => (0, 0, q.2.2), vc := 0 } := by
  simp only [Tile.grantHead, claimHead_first hw hr, hf, if_true, hw, List.drop_one, List.tail_cons]

theorem vclaimGrant_grants {s : State} {tile r lo hi : Nat} {d : BitVec 8} {rest : List Nat}
    (hw : (s.tileAt tile).vwait = r :: rest) (hr : (s.strandAt tile r).vreq = some (lo, hi, d))
    (hf : lo ≤ (s.tileAt tile).freeGroups) :
    ∃ u : State, exec (.vclaimGrant tile) s = .next u ∧ Rules.onlyTile s u tile ∧ (u.tileAt tile).vwait = rest ∧
      (u.strandAt tile r).vl = 8 * min hi (s.tileAt tile).freeGroups ∧ (u.strandAt tile r).vreq = some (0, 0, d) ∧
      ∀ q, q ≠ r → u.strandAt tile q = s.strandAt tile q := by
  have hready : (s.tileAt tile).claimReady = true := by
    simp only [Tile.claimReady, claimHead_first hw hr, hf, decide_true]
  refine ⟨_, (exec_vclaimGrant tile s).trans (stepIf_true hready _ _), onlyTile_modTileAt s tile _, ?_, ?_, ?_,
    fun q hq => ?_⟩
  · rw [tileAt_modTileAt_same, grantHead_first hw hr hf]
    rfl
  · rw [strandAt_modTileAt_same, grantHead_first hw hr hf, strand_modStrand_same]
  · rw [strandAt_modTileAt_same, grantHead_first hw hr hf, strand_modStrand_same]
    change (s.strandAt tile r).vreq.map (fun q => (0, 0, q.2.2)) = _
    rw [hr]
    rfl
  · rw [strandAt_modTileAt_same, grantHead_first hw hr hf, strand_modStrand_ne _ _ hq]
    rfl

/-! ### Grants of a claim slot (R147) -/

/-- A register that a command writes late (R48): what else it does is to the fingerprint, and to what a leader has
forwarded. -/
theorem lateG_strand (t : Tile) (r : Nat) {d : BitVec 8} (x : Word) (p : Bool) (h : isG d = true) :
    ∃ c l w, (t.lateG r d x p).strands.val {} r =
      { (t.strands.val {} r).wg (opIdx d) x p with crc := c, foldQ := l, fwd := w } := by
  unfold Tile.lateG
  simp only [h, Bool.not_true, Bool.false_eq_true, if_false]
  split
  · rename_i q _
    by_cases hq : r = q
    · rw [← hq, strand_modStrand_same, strand_modStrand_same]
      exact ⟨_, _, _, rfl⟩
    · rw [strand_modStrand_ne _ _ hq, strand_modStrand_same]
      exact ⟨_, _, _, rfl⟩
  · rw [strand_modStrand_same]
    exact ⟨_, _, _, rfl⟩

theorem lateG_tile (t : Tile) (r : Nat) (d : BitVec 8) (x : Word) (p : Bool) :
    { t.lateG r d x p with strands := t.strands } = t := by
  unfold Tile.lateG
  dsimp only
  split
  · rfl
  · split <;> rfl

theorem lateG_claim (t : Tile) (r : Nat) (d : BitVec 8) (x : Word) (p : Bool) :
    ((t.lateG r d x p).strands.val {} r).claim = (t.strands.val {} r).claim ∧
      ((t.lateG r d x p).strands.val {} r).mreq = (t.strands.val {} r).mreq := by
  by_cases h : isG d = true
  · obtain ⟨c, l, w, hst⟩ := lateG_strand t r x p h
    rw [hst]
    unfold Strand.wg
    split <;> exact ⟨rfl, rfl⟩
  · rw [Tile.lateG, Bool.eq_false_iff.mpr h]
    exact ⟨rfl, rfl⟩

/-- A run of registers that are put one after another reads as it was put. -/
theorem val_foldl_put {α : Type} (m : SMap α) (d x : α) (b n : Nat) {j : Nat} (hj : j < n) :
    ((List.range n).foldl (fun m i => m.put (b + i) x) m).val d (b + j) = x := by
  induction n with
  | zero => exact absurd hj (Nat.not_lt_zero j)
  | succ n ih =>
    rw [List.range_succ, List.foldl_append, List.foldl_cons, List.foldl_nil, val_put]
    split
    · rfl
    · exact ih (by omega)

/-- The tile of a granted claim before the late write of D. -/
def slotGiven (t : Tile) (r c : Nat) (rest : List Nat) : Tile :=
  (({ t with mwait := rest, tlast := t.tlast.filter (· != r) } : Tile).clearSlot c).modStrand r fun st =>
    { st with claim := some c, mreq := none }

theorem grantClaim_first {t : Tile} {r c : Nat} {d : BitVec 8} {rest : List Nat} (hw : t.mwait = r :: rest)
    (hc : t.freeSlot = some c) (hd : (t.strands.val {} r).mreq = some d) :
    t.grantClaim = (slotGiven t r c rest).lateG r d (BitVec.ofNat 64 c) false := by
  simp only [Tile.grantClaim, hw, hc, hd, Option.getD_some]
  rfl

theorem mclaimGrant_grants {s : State} {tile r c : Nat} {d : BitVec 8} {rest : List Nat}
    (hw : (s.tileAt tile).mwait = r :: rest) (hc : (s.tileAt tile).freeSlot = some c)
    (hd : (s.strandAt tile r).mreq = some d) :
    ∃ u : State, exec (.mclaimGrant tile) s = .next u ∧ Rules.onlyTile s u tile ∧ (u.tileAt tile).mwait = rest ∧
      (u.strandAt tile r).claim = some c ∧ (u.strandAt tile r).mreq = none ∧
      (isG d = true → opIdx d ≠ 0 → (u.strandAt tile r).rg (opIdx d) = BitVec.ofNat 64 c) ∧
      (∀ j, j < 4 → (u.tileAt tile).ra (4 * c + j) = {}) ∧ (∀ j, j < 8 → (u.tileAt tile).rm (8 * c + j) = {}) := by
  have hready : (s.tileAt tile).mclaimReady = true := by
    simp only [Tile.mclaimReady, hw, hc, List.isEmpty_cons, Option.isSome_some, Bool.not_false, Bool.and_self]
  have hgiven := strand_modStrand_same (({ s.tileAt tile with
    mwait := rest, tlast := (s.tileAt tile).tlast.filter (· != r) } : Tile).clearSlot c) r fun st =>
      { st with claim := some c, mreq := none }
  have htile := lateG_tile (slotGiven (s.tileAt tile) r c rest) r d (BitVec.ofNat 64 c) false
  obtain ⟨hclaim, hmreq⟩ := lateG_claim (slotGiven (s.tileAt tile) r c rest) r d (BitVec.ofNat 64 c) false
  refine ⟨_, (exec_mclaimGrant tile s).trans (stepIf_true hready _ _), onlyTile_modTileAt s tile _, ?_⟩
  rw [strandAt_modTileAt_same, tileAt_modTileAt_same, grantClaim_first hw hc hd]
  refine ⟨(congrArg Tile.mwait htile), hclaim.trans (congrArg Strand.claim hgiven),
    hmreq.trans (congrArg Strand.mreq hgiven), fun hg hn => ?_, fun j hj => ?_, fun j hj => ?_⟩
  · obtain ⟨q, l, w, hst⟩ := lateG_strand (slotGiven (s.tileAt tile) r c rest) r (BitVec.ofNat 64 c) false hg
    rw [hst]
    exact (rg_wg _ _ _ _ _).trans (if_pos ⟨hn, rfl⟩)
  · exact (congrArg (Tile.ra · (4 * c + j)) htile).trans (val_foldl_put _ _ _ _ _ hj)
  · exact (congrArg (Tile.rm · (8 * c + j)) htile).trans (val_foldl_put _ _ _ _ _ hj)

/-! ### Maps of strands -/

theorem val?_mapVals {α : Type} (m : SMap α) (f : Nat → α → α) (k : Nat) :
    (m.mapVals f).val? k = (m.val? k).map (f k) := by
  induction m with
  | nil => rfl
  | cons p m ih =>
    obtain ⟨j, x⟩ := p
    by_cases hj : j = k
    · subst hj
      simp [SMap.mapVals, SMap.val?]
    · simpa [SMap.mapVals, SMap.val?, hj] using ih

theorem val?_of_mem {α : Type} {m : SMap α} {k : Nat} {x : α} (h : (k, x) ∈ m) : ∃ y, m.val? k = some y := by
  induction m with
  | nil => exact absurd h List.not_mem_nil
  | cons p m ih =>
    obtain ⟨j, y⟩ := p
    by_cases hj : j = k
    · exact ⟨y, if_pos hj⟩
    · have hm : (k, x) ∈ m := (List.mem_cons.mp h).resolve_left fun he => hj (congrArg Prod.fst he).symm
      obtain ⟨z, hz⟩ := ih hm
      exact ⟨z, (if_neg hj).trans hz⟩

/-- An entry that is listed changes as every entry does. -/
theorem val_mapVals {α : Type} {m : SMap α} {k : Nat} {x : α} (d : α) (f : Nat → α → α) (h : (k, x) ∈ m) :
    (m.mapVals f).val d k = f k (m.val d k) := by
  obtain ⟨y, hy⟩ := val?_of_mem h
  simp only [SMap.val, val?_mapVals, hy, Option.map_some, Option.getD_some]

theorem mem_mapVals {α : Type} {m : SMap α} {f : Nat → α → α} {p : Nat × α} (h : p ∈ m.mapVals f) :
    ∃ x, (p.1, x) ∈ m ∧ p.2 = f p.1 x := by
  obtain ⟨q, hq, rfl⟩ := List.mem_map.mp h
  exact ⟨q.2, hq, rfl⟩

/-! ### One start of a window (R187) -/

/-- What one tc of a window makes of a strand: the served one starts a command, the heads of the others age. -/
def servedStrand (t : Tile) (r k : Nat) (st : Strand) : Strand :=
  if k = r then { st with vq := st.vq - 1, vage := 0 }
  else if t.vClaimants.any fun p => p.1 == k then { st with vage := st.vage + 1 } else st

/-- A tile after one tc of a window with n starts left. -/
def servedTile (t : Tile) (r n : Nat) : Tile :=
  { t with vwin := if n ≤ 1 then none else some (r, n - 1), strands := t.strands.mapVals (servedStrand t r) }

theorem window_on {t : Tile} {r n : Nat} (hw : t.vwin = some (r, n)) (hon : t.windowOn = true) :
    t.window = servedTile t r n := by
  simp only [Tile.window, hon, if_true, hw]
  rfl

theorem window_opens {t : Tile} {r n : Nat} (hoff : t.windowOn = false) (hw : t.openWindow.vwin = some (r, n)) :
    t.window = servedTile t.openWindow r n := by
  simp only [Tile.window, hoff, Bool.false_eq_true, if_false, hw]
  rfl

theorem mem_strands_of_claimant {t : Tile} {p : Nat × Strand} (h : p ∈ t.vClaimants) : p ∈ t.strands :=
  (List.mem_filter.mp h).1

theorem claimants_any {t : Tile} {p : Nat × Strand} (h : p ∈ t.vClaimants) :
    (t.vClaimants.any fun q => q.1 == p.1) = true :=
  List.any_eq_true.mpr ⟨p, h, beq_self_eq_true _⟩

theorem servedTile_served {t : Tile} {r : Nat} {st : Strand} (n : Nat) (h : (r, st) ∈ t.strands)
    (hst : t.strands.val {} r = st) : (servedTile t r n).strands.val {} r = { st with vq := st.vq - 1, vage := 0 } := by
  rw [servedTile, val_mapVals _ _ h, hst, servedStrand, if_pos rfl]

theorem servedTile_waits {t : Tile} {r : Nat} {p : Nat × Strand} (n : Nat) (h : p ∈ t.vClaimants) (hr : p.1 ≠ r)
    (hst : t.strands.val {} p.1 = p.2) :
    (servedTile t r n).strands.val {} p.1 = { p.2 with vage := p.2.vage + 1 } := by
  rw [servedTile, val_mapVals _ _ (mem_strands_of_claimant h), hst, servedStrand, if_neg hr, if_pos (claimants_any h)]

theorem servedStrand_leaving (t : Tile) (r k : Nat) (st : Strand) : (servedStrand t r k st).leaving = st.leaving := by
  unfold servedStrand
  split
  · rfl
  · split <;> rfl

/-- A start makes no strand leave its slot (R176): K tells the strands that may do so. -/
theorem servedTile_leaving {t : Tile} {K : Nat → Prop} (h : ∀ p ∈ t.strands, K p.1 ∨ p.2.leaving = false) (r n : Nat) :
    ∀ p ∈ (servedTile t r n).strands, K p.1 ∨ p.2.leaving = false := by
  intro p hp
  obtain ⟨x, hx, hp2⟩ := mem_mapVals hp
  rw [hp2, servedStrand_leaving]
  exact h _ hx

/-! ### The choice of a new window (R187) -/

theorem betterBy_spec (key : Strand → Int) (x y : Nat × Strand) :
    (betterBy key x y = x ∨ betterBy key x y = y) ∧ key x.2 ≤ key (betterBy key x y).2 ∧
      key y.2 ≤ key (betterBy key x y).2 := by
  unfold betterBy
  split
  · exact ⟨.inr rfl, by omega, Int.le_refl _⟩
  · split
    · exact ⟨.inl rfl, Int.le_refl _, by omega⟩
    · split
      · exact ⟨.inl rfl, Int.le_refl _, by omega⟩
      · exact ⟨.inr rfl, by omega, Int.le_refl _⟩

/-- The claimant with the largest key is one of the list, and none has a larger key. -/
theorem bestOf_spec (key : Strand → Int) {l : List (Nat × Strand)} (h : l ≠ []) :
    ∃ y, bestOf key l = some y ∧ y ∈ l ∧ ∀ x ∈ l, key x.2 ≤ key y.2 := by
  induction l with
  | nil => exact absurd rfl h
  | cons x l ih =>
    by_cases hl : l = []
    · subst hl
      exact ⟨x, rfl, List.mem_cons_self, fun z hz => List.mem_singleton.mp hz ▸ Int.le_refl _⟩
    · obtain ⟨y, hy, hmem, hmax⟩ := ih hl
      obtain ⟨hone, hx, hyb⟩ := betterBy_spec key x y
      refine ⟨betterBy key x y, by rw [bestOf, hy], ?_, fun z hz => ?_⟩
      · rcases hone with h | h <;> rw [h]
        · exact List.mem_cons_self
        · exact List.mem_cons_of_mem _ hmem
      · rcases List.mem_cons.mp hz with rfl | hz
        · exact hx
        · exact Int.le_trans (hmax z hz) hyb

/-- A claimant's strand with its credit at the start of a window. -/
def credited (st : Strand) : Strand := { st with vc := st.vc + (st.pri + 1 : Nat) }

/-- The weight of all claimants of a tile. -/
def totalWeight (t : Tile) : Nat := (t.vClaimants.map fun p => p.2.pri + 1).sum

/-- What the opening of a window for r makes of a claimant. -/
def charged (t : Tile) (r : Nat) (p : Nat × Strand) : Strand :=
  if p.1 = r then { credited p.2 with vc := (credited p.2).vc - (totalWeight t : Int) } else credited p.2

/-- The claimants of a tile as the opening of a window for r leaves them. -/
def chargedAll (t : Tile) (r : Nat) : List (Nat × Strand) := t.vClaimants.map fun p => (p.1, charged t r p)

/-- Whom a new window serves: of the claimants with 36 tc of age the one waiting longest, else the one of most
credit. -/
def servesBest (t : Tile) (st : Strand) : Prop :=
  ((t.vClaimants.any fun p => decide (36 ≤ p.2.vage)) = true → ∀ p ∈ t.vClaimants, p.2.vage ≤ st.vage) ∧
    ((t.vClaimants.any fun p => decide (36 ≤ p.2.vage)) = false →
      ∀ p ∈ t.vClaimants, p.2.vc + (p.2.pri + 1 : Nat) ≤ st.vc + (st.pri + 1 : Nat))

/-- The claimant that a new window picks, with its credit. -/
def windowChoice (t : Tile) : Option (Nat × Strand) :=
  let up := t.vClaimants.map fun p => (p.1, credited p.2)
  let aged := up.filter fun p => decide (36 ≤ p.2.vage)
  if aged.isEmpty then bestOf (fun st => st.vc) up else bestOf (fun st => (st.vage : Int)) aged

theorem windowPick_eq (t : Tile) : t.windowPick = (windowChoice t).map fun p => (p.1, chargedAll t p.1) := by
  have hlist : ∀ r, (t.vClaimants.map fun p => (p.1, credited p.2)).map (fun q =>
      if q.1 = r then (q.1, { q.2 with vc := q.2.vc - (totalWeight t : Int) }) else q) = chargedAll t r := by
    intro r
    rw [List.map_map]
    refine List.map_congr_left fun p _ => ?_
    simp only [Function.comp_apply, charged]
    split <;> rfl
  have hpick : t.windowPick = (windowChoice t).map fun p => (p.1,
      (t.vClaimants.map fun p => (p.1, credited p.2)).map fun q =>
        if q.1 = p.1 then (q.1, { q.2 with vc := q.2.vc - (totalWeight t : Int) }) else q) := rfl
  rw [hpick]
  exact congrArg (Option.map · (windowChoice t)) (funext fun p => by rw [hlist])

theorem noneAged_eq (t : Tile) : ((t.vClaimants.map fun p => (p.1, credited p.2)).filter fun p =>
    decide (36 ≤ p.2.vage)).isEmpty = !t.vClaimants.any fun p => decide (36 ≤ p.2.vage) := by
  rw [List.filter_map, List.isEmpty_map, Bool.eq_iff_iff]
  simp [credited]

theorem windowChoice_best {t : Tile} (h : t.vClaimants ≠ []) :
    ∃ r st, (r, st) ∈ t.vClaimants ∧ windowChoice t = some (r, credited st) ∧ servesBest t st := by
  unfold windowChoice servesBest
  dsimp only
  rw [noneAged_eq]
  cases hany : t.vClaimants.any fun p => decide (36 ≤ p.2.vage) with
  | false =>
    obtain ⟨y, hy, hmem, hmax⟩ := bestOf_spec (fun st => st.vc) (l := t.vClaimants.map fun p => (p.1, credited p.2))
      fun he => h (List.map_eq_nil_iff.mp he)
    obtain ⟨p, hp, rfl⟩ := List.mem_map.mp hmem
    exact ⟨p.1, p.2, hp, hy, nofun, fun _ q hq => hmax _ (List.mem_map.mpr ⟨q, hq, rfl⟩)⟩
  | true =>
    have hne : ((t.vClaimants.map fun p => (p.1, credited p.2)).filter fun p => decide (36 ≤ p.2.vage)) ≠ [] := by
      intro he
      have hnone := noneAged_eq t
      rw [he, hany] at hnone
      exact Bool.false_ne_true hnone.symm
    obtain ⟨y, hy, hmem, hmax⟩ := bestOf_spec (fun st => (st.vage : Int)) hne
    obtain ⟨hup, hage⟩ := List.mem_filter.mp hmem
    obtain ⟨p, hp, rfl⟩ := List.mem_map.mp hup
    refine ⟨p.1, p.2, hp, hy, fun _ q hq => ?_, nofun⟩
    have hage : 36 ≤ p.2.vage := of_decide_eq_true hage
    by_cases hq36 : 36 ≤ q.2.vage
    · exact Int.ofNat_le.mp (hmax (q.1, credited q.2)
        (List.mem_filter.mpr ⟨List.mem_map.mpr ⟨q, hq, rfl⟩, decide_eq_true hq36⟩))
    · omega

/-! ### The opening of a window (R187) -/

/-- What the opening of a window for r makes of a strand. -/
def openedStrand (t : Tile) (r k : Nat) (st : Strand) : Strand :=
  (((chargedAll t r).find? fun p => p.1 == k).map (·.2)).getD st

/-- A tile with a window of four starts opened for r. -/
def openedTile (t : Tile) (r : Nat) : Tile :=
  { t with vwin := some (r, 4), strands := t.strands.mapVals (openedStrand t r) }

theorem openWindow_of_choice {t : Tile} {r : Nat} {st : Strand} (h : windowChoice t = some (r, st)) :
    t.openWindow = openedTile t r := by
  have hp : t.windowPick = some (r, chargedAll t r) := by rw [windowPick_eq, h]; rfl
  simp only [Tile.openWindow, hp]
  rfl

/-- The opening of a window leaves a strand, or credits and charges it as the claimant it is. -/
theorem openedStrand_cases (t : Tile) (r k : Nat) (st : Strand) :
    (openedStrand t r k st = st ∧ ∀ p ∈ t.vClaimants, p.1 ≠ k) ∨
      ∃ p ∈ t.vClaimants, p.1 = k ∧ openedStrand t r k st = charged t r p := by
  unfold openedStrand
  cases hf : (chargedAll t r).find? fun p => p.1 == k with
  | none =>
    refine .inl ⟨rfl, fun p hp hk => ?_⟩
    have hmem : (p.1, charged t r p) ∈ chargedAll t r := List.mem_map.mpr ⟨p, hp, rfl⟩
    exact List.find?_eq_none.mp hf _ hmem (beq_iff_eq.mpr hk)
  | some q =>
    obtain ⟨p, hp, rfl⟩ := List.mem_map.mp (List.mem_of_find?_eq_some hf)
    have hk := List.find?_some hf
    exact .inr ⟨p, hp, beq_iff_eq.mp hk, rfl⟩

theorem charged_keeps (t : Tile) (r : Nat) (p : Nat × Strand) : { charged t r p with vc := p.2.vc } = p.2 := by
  unfold charged
  split <;> rfl

theorem openedTile_leaving {t : Tile} {K : Nat → Prop} (h : ∀ p ∈ t.strands, K p.1 ∨ p.2.leaving = false) (r : Nat) :
    ∀ p ∈ (openedTile t r).strands, K p.1 ∨ p.2.leaving = false := by
  intro p hp
  obtain ⟨x, hx, hp2⟩ := mem_mapVals hp
  rw [hp2]
  obtain ⟨he, -⟩ | ⟨q, hq, hk, he⟩ := openedStrand_cases t r p.1 x
  · rw [he]
    exact h _ hx
  · have hq' := h q (mem_strands_of_claimant hq)
    rw [he, ← hk]
    rwa [← charged_keeps t r q] at hq'

/-- A claimant's entry in a tile where the claimants of one record are all the same. -/
theorem openedStrand_claimant {t : Tile} {p : Nat × Strand} (r : Nat) (st : Strand) (hp : p ∈ t.vClaimants)
    (hsame : ∀ q ∈ t.vClaimants, q.1 = p.1 → q.2 = p.2) : openedStrand t r p.1 st = charged t r p := by
  obtain ⟨-, hno⟩ | ⟨q, hq, hk, he⟩ := openedStrand_cases t r p.1 st
  · exact absurd rfl (hno p hp)
  · have hqp : q = p := Prod.ext hk (hsame q hq hk)
    rw [he, hqp]

section
variable {t : Tile} {p : Nat × Strand} (r : Nat) (hp : p ∈ t.vClaimants)
  (hsame : ∀ q ∈ t.vClaimants, q.1 = p.1 → q.2 = p.2)
include hp hsame

theorem openedTile_strand : (openedTile t r).strands.val {} p.1 = charged t r p := by
  rw [openedTile, val_mapVals _ _ (mem_strands_of_claimant hp), openedStrand_claimant r _ hp hsame]

theorem openedTile_mem : (p.1, charged t r p) ∈ (openedTile t r).strands :=
  List.mem_map.mpr ⟨p, mem_strands_of_claimant hp, by rw [openedStrand_claimant r p.2 hp hsame]⟩

/-- A claimant claims still in the window that has been opened. -/
theorem openedTile_claimant : (p.1, charged t r p) ∈ (openedTile t r).vClaimants := by
  obtain ⟨-, hclaims⟩ := List.mem_filter.mp hp
  refine List.mem_filter.mpr ⟨openedTile_mem r hp hsame, ?_⟩
  rw [← charged_keeps t r p] at hclaims
  exact hclaims
end

/-! ### Suspended strands leave their slots (R176) -/

theorem leaveAll_none {s : State} {tile : Nat} (h : ∀ p ∈ (s.tileAt tile).strands, p.2.leaving = false) :
    s.leaveAll tile = s := by
  have hnone : ((s.tileAt tile).strands.filter fun p => p.2.leaving && p.2.vq == 0) = [] :=
    List.filter_eq_nil_iff.mpr fun p hp => by rw [h p hp, Bool.false_and]; exact Bool.false_ne_true
  rw [State.leaveAll, hnone, List.foldl_nil]

/-- A strand stands in no slot, with no lanes and empty queues. -/
def leftSlot (s : State) (tile r kind : Nat) : Prop :=
  (s.strandAt tile r).slot = none ∧ (s.strandAt tile r).vl = 0 ∧ (s.strandAt tile r).vq = 0 ∧
    (s.strandAt tile r).lq = [] ∧ (s.strandAt tile r).kind = kind

theorem leaveSlot_left (s : State) (tile r : Nat) :
    leftSlot (s.leaveSlot tile r) tile r (s.strandAt tile r).kind ∧ (s.leaveSlot tile r).mem = s.mem := by
  obtain ⟨hf, hm⟩ := maybeDrop_frame (s.modStrandAt tile r outOfSlot) tile r
  refine ⟨?_, hm⟩
  have hst : (s.leaveSlot tile r).strandAt tile r = outOfSlot (s.strandAt tile r) :=
    (localFrame_strandAt hf tile r).trans (strandAt_modStrandAt_same s tile r outOfSlot)
  unfold leftSlot
  rw [hst]
  exact ⟨rfl, rfl, rfl, rfl, rfl⟩

/-- A list of departures of one record leaves it out of its slot: the first takes it out, the others change nothing
of that. -/
theorem leaveSlots_left {tile r kind : Nat} (l : List (Nat × Strand)) (hl : ∀ p ∈ l, p.1 = r) (s : State)
    (h : (s.strandAt tile r).kind = kind) (hs : l = [] → leftSlot s tile r kind) :
    leftSlot (l.foldl (fun s p => s.leaveSlot tile p.1) s) tile r kind ∧
      (l.foldl (fun s p => s.leaveSlot tile p.1) s).mem = s.mem := by
  induction l generalizing s with
  | nil => exact ⟨hs rfl, rfl⟩
  | cons p l ih =>
    obtain ⟨hleft, hm⟩ := leaveSlot_left s tile r
    rw [h] at hleft
    obtain ⟨-, -, -, -, hkind⟩ := id hleft
    rw [List.foldl_cons, hl p List.mem_cons_self]
    obtain ⟨hrest, hm'⟩ := ih (fun q hq => hl q (List.mem_cons_of_mem p hq)) _ hkind fun _ => hleft
    exact ⟨hrest, hm'.trans hm⟩

theorem leaveAll_left {s : State} {tile r : Nat} {st : Strand} (hmem : (r, st) ∈ (s.tileAt tile).strands)
    (hl : st.leaving = true) (hq : st.vq = 0)
    (ho : ∀ p ∈ (s.tileAt tile).strands, p.1 = r ∨ p.2.leaving = false) :
    leftSlot (s.leaveAll tile) tile r (s.strandAt tile r).kind ∧ (s.leaveAll tile).mem = s.mem := by
  refine leaveSlots_left _ (fun p hp => ?_) s rfl fun hnil => ?_
  · obtain ⟨hin, hleaves⟩ := List.mem_filter.mp hp
    obtain ⟨hleaving, -⟩ := Bool.and_eq_true_iff.mp hleaves
    exact (ho p hin).resolve_right (Bool.not_eq_false _ ▸ hleaving)
  · have hout := List.filter_eq_nil_iff.mp hnil (r, st) hmem
    rw [hl, hq] at hout
    exact absurd rfl hout

/-! ### Windows of the vector unit (R187) -/

theorem vectorWindow_idles {s : State} {tile : Nat} (h : (s.tileAt tile).vClaimants = []) :
    Rules.idles (.vectorWindow tile) s :=
  (exec_vectorWindow tile s).trans (stepIf_false (by rw [h]; rfl) _ _)

theorem vectorWindow_due {s : State} {tile : Nat} {p : Nat × Strand} (h : p ∈ (s.tileAt tile).vClaimants) :
    exec (.vectorWindow tile) s = .next ((s.modTileAt tile Tile.window).leaveAll tile) := by
  have hne : (s.tileAt tile).vClaimants.isEmpty = false := by
    rw [List.isEmpty_eq_false_iff]
    exact List.ne_nil_of_mem h
  exact (exec_vectorWindow tile s).trans (stepIf_true (by rw [hne]; rfl) _ _)

/-- One tc of a window that serves r, where no strand is to leave its slot. -/
theorem vectorWindow_serves {s : State} {tile r n : Nat} {t : Tile} {st : Strand} {p : Nat × Strand}
    (hdue : p ∈ (s.tileAt tile).vClaimants) (hwin : (s.tileAt tile).window = servedTile t r n)
    (hin : ∀ p ∈ t.strands, p.2.leaving = false) (hr : (r, st) ∈ t.strands) (hst : t.strands.val {} r = st) :
    ∃ u : State, exec (.vectorWindow tile) s = .next u ∧ Rules.onlyTile s u tile ∧
      (u.tileAt tile).vwin = (if n ≤ 1 then none else some (r, n - 1)) ∧
      u.strandAt tile r = { st with vq := st.vq - 1, vage := 0 } ∧
      ∀ p ∈ t.vClaimants, p.1 ≠ r → t.strands.val {} p.1 = p.2 →
        u.strandAt tile p.1 = { p.2 with vage := p.2.vage + 1 } := by
  have hstay : (s.modTileAt tile Tile.window).leaveAll tile = s.modTileAt tile Tile.window := by
    refine leaveAll_none fun p hp => ?_
    rw [tileAt_modTileAt_same, hwin] at hp
    exact (servedTile_leaving (K := fun _ => False) (fun q hq => .inr (hin q hq)) r n p hp).resolve_left id
  refine ⟨s.modTileAt tile Tile.window, (vectorWindow_due hdue).trans (congrArg _ hstay), onlyTile_modTileAt s tile _,
    ?_, ?_, fun q hq hqr hqst => ?_⟩
  · rw [tileAt_modTileAt_same, hwin]
    rfl
  · rw [strandAt_modTileAt_same, hwin, servedTile_served n hr hst]
  · rw [strandAt_modTileAt_same, hwin, servedTile_waits n hq hqr hqst]

theorem windowOn_of_claimant {t : Tile} {r n : Nat} {st : Strand} (hw : t.vwin = some (r, n))
    (hr : (r, st) ∈ t.vClaimants) : t.windowOn = true := by
  simp only [Tile.windowOn, hw]
  exact claimants_any hr

section
variable {s : State} {tile : Nat}
  (hall : ∀ p ∈ (s.tileAt tile).strands, s.strandAt tile p.1 = p.2 ∧ p.2.leaving = false)
include hall

theorem vectorWindow_goesOn {r n : Nat} {st : Strand} (hw : (s.tileAt tile).vwin = some (r, n))
    (hr : (r, st) ∈ (s.tileAt tile).vClaimants) :
    ∃ u : State, exec (.vectorWindow tile) s = .next u ∧ Rules.onlyTile s u tile ∧
      (u.tileAt tile).vwin = (if n ≤ 1 then none else some (r, n - 1)) ∧
      u.strandAt tile r = { st with vq := st.vq - 1, vage := 0 } ∧
      ∀ p ∈ (s.tileAt tile).vClaimants, p.1 ≠ r → u.strandAt tile p.1 = { p.2 with vage := p.2.vage + 1 } := by
  obtain ⟨hst, -⟩ := hall _ (mem_strands_of_claimant hr)
  obtain ⟨u, he, ho, hv, hs, hw'⟩ := vectorWindow_serves hr (window_on hw (windowOn_of_claimant hw hr))
    (fun p hp => (hall p hp).2) (mem_strands_of_claimant hr) hst
  exact ⟨u, he, ho, hv, hs, fun p hp hpr => hw' p hp hpr (hall p (mem_strands_of_claimant hp)).1⟩

theorem vectorWindow_opens (hoff : (s.tileAt tile).windowOn = false) (hne : (s.tileAt tile).vClaimants ≠ []) :
    ∃ (u : State) (r : Nat) (st : Strand), (r, st) ∈ (s.tileAt tile).vClaimants ∧
      exec (.vectorWindow tile) s = .next u ∧ Rules.onlyTile s u tile ∧ servesBest (s.tileAt tile) st ∧
      (u.tileAt tile).vwin = some (r, 3) ∧
      u.strandAt tile r = { st with
        vq := st.vq - 1, vage := 0, vc := st.vc + ((st.pri + 1 : Nat) : Int) - (totalWeight (s.tileAt tile) : Int) } ∧
      ∀ p ∈ (s.tileAt tile).vClaimants, p.1 ≠ r →
        u.strandAt tile p.1 = { p.2 with vc := p.2.vc + (p.2.pri + 1 : Nat), vage := p.2.vage + 1 } := by
  obtain ⟨r, st, hr, hchoice, hbest⟩ := windowChoice_best hne
  have hopen := openWindow_of_choice hchoice
  have hsame : ∀ p ∈ (s.tileAt tile).vClaimants, ∀ q ∈ (s.tileAt tile).vClaimants, q.1 = p.1 → q.2 = p.2 := by
    intro p hp q hq hqp
    rw [← (hall p (mem_strands_of_claimant hp)).1, ← (hall q (mem_strands_of_claimant hq)).1, hqp]
  have hin : ∀ p ∈ (openedTile (s.tileAt tile) r).strands, p.2.leaving = false := fun p hp =>
    (openedTile_leaving (K := fun _ => False) (fun q hq => .inr (hall q hq).2) r p hp).resolve_left id
  obtain ⟨u, he, ho, hv, hs, hw⟩ := vectorWindow_serves hr (hopen ▸ window_opens hoff (by rw [hopen]; rfl)) hin
    (openedTile_mem r hr (hsame _ hr)) (openedTile_strand r hr (hsame _ hr))
  refine ⟨u, r, st, hr, he, ho, hbest, hv, ?_, fun p hp hpr => ?_⟩
  · rw [hs, charged, if_pos rfl]
    rfl
  · rw [hw _ (openedTile_claimant r hp (hsame p hp)) hpr (openedTile_strand r hp (hsame p hp)), charged, if_neg hpr]
    rfl
end

/-- The tile after one tc of the only claimant, whether or not a window has to be opened for it. -/
theorem window_single {t : Tile} {r : Nat} {st : Strand} (hcs : t.vClaimants = [(r, st)])
    (hst : t.strands.val {} r = st) {K : Nat → Prop} (ho : ∀ p ∈ t.strands, K p.1 ∨ p.2.leaving = false) :
    ∃ (v : Tile) (n : Nat) (c : Int), t.window = servedTile v r n ∧ (r, { st with vc := c }) ∈ v.strands ∧
      v.strands.val {} r = { st with vc := c } ∧ ∀ p ∈ v.strands, K p.1 ∨ p.2.leaving = false := by
  have hr : (r, st) ∈ t.vClaimants := by rw [hcs]; exact List.mem_cons_self
  cases hon : t.windowOn with
  | true =>
    obtain ⟨q, n, hw, hq⟩ : ∃ q n, t.vwin = some (q, n) ∧ (t.vClaimants.any fun p => p.1 == q) = true := by
      unfold Tile.windowOn at hon
      split at hon
      · exact ⟨_, _, ‹_›, hon⟩
      · cases hon
    rw [hcs] at hq
    have hqr : r = q := by simpa using hq
    subst hqr
    exact ⟨t, n, st.vc, window_on hw hon, mem_strands_of_claimant hr, hst, ho⟩
  | false =>
    have hsame : ∀ q ∈ t.vClaimants, q.1 = r → q.2 = st := by
      intro q hq _
      rw [hcs, List.mem_singleton] at hq
      rw [hq]
    obtain ⟨q, x, hq, hchoice, -⟩ := windowChoice_best (List.ne_nil_of_mem hr)
    rw [hcs, List.mem_singleton] at hq
    cases hq
    have hopen := openWindow_of_choice hchoice
    have hch : charged t r (r, st) = { st with vc := (charged t r (r, st)).vc } := by
      rw [charged, if_pos rfl]
      rfl
    refine ⟨openedTile t r, 4, (charged t r (r, st)).vc, hopen ▸ window_opens hon (by rw [hopen]; rfl), ?_, ?_,
      openedTile_leaving ho r⟩
    · rw [← hch]
      exact openedTile_mem r hr hsame
    · rw [← hch]
      exact openedTile_strand r hr hsame

/-- A suspended strand leaves its slot with its last vector command (R176). -/
theorem vectorWindow_leaves {s : State} {tile r : Nat} {st : Strand} (hcs : (s.tileAt tile).vClaimants = [(r, st)])
    (hst : s.strandAt tile r = st) (hl : st.leaving = true) (hq : st.vq = 1)
    (ho : ∀ p ∈ (s.tileAt tile).strands, p.1 ≠ r → p.2.leaving = false) :
    ∃ u : State, exec (.vectorWindow tile) s = .next u ∧ leftSlot u tile r st.kind ∧ u.mem = s.mem := by
  have hr : (r, st) ∈ (s.tileAt tile).vClaimants := by rw [hcs]; exact List.mem_cons_self
  obtain ⟨v, n, c, hwin, hmem, hval, hothers⟩ := window_single hcs hst (K := (· = r)) fun p hp =>
    (Classical.em (p.1 = r)).imp_right (ho p hp)
  have hafter : (s.modTileAt tile Tile.window).tileAt tile = servedTile v r n := by rw [tileAt_modTileAt_same, hwin]
  have hkind : ((s.modTileAt tile Tile.window).strandAt tile r).kind = st.kind := by
    rw [State.strandAt, hafter, servedTile_served n hmem hval]
  have hin : (r, servedStrand v r r { st with vc := c }) ∈ ((s.modTileAt tile Tile.window).tileAt tile).strands := by
    rw [hafter]
    exact List.mem_map.mpr ⟨_, hmem, rfl⟩
  obtain ⟨hleft, hm⟩ := leaveAll_left hin ((servedStrand_leaving v r r _).trans hl)
    (by rw [servedStrand, if_pos rfl]; exact (congrArg (· - 1) hq))
    (by rw [hafter]; exact servedTile_leaving (K := (· = r)) hothers r n)
  rw [hkind] at hleft
  exact ⟨_, vectorWindow_due hr, hleft, hm⟩

/-! ### What a started table command leaves (R150, R151, R157 to R166, R168) -/

/-- The record of a tile stands where a write of it puts it, so that the same tile written again changes nothing. -/
def tilePlaced (s : State) (tile : Nat) : Prop := ∃ m t, s.tiles = SMap.put m tile t

theorem tilePlaced_modTileAt (s : State) (tile : Nat) (f : Tile → Tile) : tilePlaced (s.modTileAt tile f) tile :=
  ⟨_, _, rfl⟩

theorem modTileAt_id {s : State} {tile : Nat} (h : tilePlaced s tile) {f : Tile → Tile}
    (hf : f (s.tileAt tile) = s.tileAt tile) : s.modTileAt tile f = s := by
  obtain ⟨m, t, ht⟩ := h
  have hat : s.tileAt tile = t := by rw [State.tileAt, ht, val_put_same]
  rw [State.modTileAt, hf, hat, ht, put_put, ← ht]

/-- What a started table command leaves: which strand issues, that strand's table queue and whether it has exited, and
where the tile's record stands. -/
def tableFrame (s t : State) : Prop :=
  t.cur = s.cur ∧ t.curRec = s.curRec ∧ t.st.tq = s.st.tq ∧ t.st.exiting = s.st.exiting ∧
    (tilePlaced s s.cur → tilePlaced t s.cur)

theorem tableFrame_refl (s : State) : tableFrame s s := ⟨rfl, rfl, rfl, rfl, id⟩

theorem tableFrame_trans {s t u : State} (h : tableFrame s t) (h' : tableFrame t u) : tableFrame s u := by
  obtain ⟨hc, hr, hq, he, hp⟩ := h
  obtain ⟨hc', hr', hq', he', hp'⟩ := h'
  rw [hc] at hp'
  exact ⟨hc'.trans hc, hr'.trans hr, hq'.trans hq, he'.trans he, hp' ∘ hp⟩

theorem tableFrame_modTl {s : State} {f : Tile → Tile}
    (hq : ((f s.tl).strands.val {} s.curRec).tq = s.st.tq)
    (he : ((f s.tl).strands.val {} s.curRec).exiting = s.st.exiting) : tableFrame s (s.modTl f) :=
  ⟨rfl, rfl, by rw [st_modTl, hq], by rw [st_modTl, he], fun _ => tilePlaced_modTileAt s s.cur f⟩

/-- A change of the tile beside its strands. -/
theorem tableFrame_tile {s : State} {f : Tile → Tile} (h : (f s.tl).strands = s.tl.strands) :
    tableFrame s (s.modTl f) :=
  tableFrame_modTl (by rw [h]; rfl) (by rw [h]; rfl)

theorem tableFrame_modSt {s : State} {f : Strand → Strand}
    (hf : ∀ st, (f st).tq = st.tq ∧ (f st).exiting = st.exiting) : tableFrame s (s.modSt f) :=
  ⟨rfl, rfl, by rw [st_modSt, (hf _).1], by rw [st_modSt, (hf _).2], fun _ => tilePlaced_modTileAt s s.cur _⟩

theorem tableFrame_of_local {s t : State} (h : localFrame s t s.cur) (hp : tilePlaced s s.cur → tilePlaced t s.cur) :
    tableFrame s t := by
  have hst := localFrame_st h
  obtain ⟨hc, hr, -, -⟩ := h
  exact ⟨hc, hr, by rw [hst], by rw [hst], hp⟩

theorem logErr_tiles (s : State) (cls unit loc : Nat) : (s.logErr cls unit loc).tiles = s.tiles := by
  unfold State.logErr
  dsimp only
  split
  · rfl
  · split <;> rfl

theorem meetFlips_placed {s : State} {tile : Nat} (h : tilePlaced s tile) (off n : Nat) :
    tilePlaced (s.meetFlips tile off n) tile := by
  unfold State.meetFlips
  generalize (s.tileAt tile).flips.filter _ = l
  induction l generalizing s with
  | nil => exact h
  | cons f l ih =>
    rw [List.foldl_cons]
    refine ih ?_
    dsimp only
    split <;> (unfold tilePlaced; rw [logErr_tiles]; exact ⟨_, _, rfl⟩)

theorem stBytes_placed {s : State} {tile : Nat} (h : tilePlaced s tile) (off : Nat) (bs : List Byte) (p : Bool) :
    tilePlaced (s.stBytes tile off bs p) tile := by
  unfold State.stBytes
  split
  · exact h
  · exact ⟨_, _, rfl⟩

theorem tableFrame_meetFlips (s : State) (off n : Nat) : tableFrame s (s.meetFlips s.cur off n) :=
  tableFrame_of_local (meetFlips_frame s s.cur off n).1 fun h => meetFlips_placed h off n

theorem tableFrame_stP (s : State) (off : Nat) (bs : List PByte) : tableFrame s (s.stP s.cur off bs) :=
  tableFrame_trans (tableFrame_of_local (stBytes_frame s s.cur off (bs.map (·.1)) false) fun h => stBytes_placed h off _ _)
    (tableFrame_of_local (localFrame_memory _ _ _ _) id)

theorem tableFrame_foldl {α : Type} {f : State → α → State} (h : ∀ s a, tableFrame s (f s a)) (l : List α) (s : State) :
    tableFrame s (l.foldl f s) := by
  induction l generalizing s with
  | nil => exact tableFrame_refl s
  | cons a l ih => exact tableFrame_trans (h s a) (ih _)

theorem tableFrame_moveLoads (s : State) (p : MovePlan) (es : List (Nat × Nat)) :
    tableFrame s (s.moveLoads p es).2 := by
  induction es generalizing s with
  | nil => exact tableFrame_refl s
  | cons e es ih => exact tableFrame_trans (tableFrame_meetFlips s _ _) (ih _)

theorem tableFrame_storeElems (s : State) (n : Nat) (es : List (Nat × Nat × Bool)) :
    tableFrame s (s.storeElems n es) := by
  refine tableFrame_foldl (fun s r => ?_) _ s
  unfold State.putRun
  split
  · exact tableFrame_stP s r.1 r.2
  · exact tableFrame_foldl (fun s (q : Nat × List PByte) => tableFrame_stP s q.1 q.2) _ s

theorem tableFrame_putA (s : State) (j : Nat) (x : AReg) : tableFrame s (s.putA j x) := tableFrame_tile rfl

theorem tableFrame_putTb (s : State) (j : Nat) (x : TbReg) : tableFrame s (s.putTb j x) := tableFrame_tile rfl

theorem bumpGen_strands (t : Tile) (j : Nat) : (t.bumpGen j).strands = t.strands := rfl

theorem tableFrame_runMld (s : State) (cl : Nat) (f : Fields) (c : TCmd) : tableFrame s (s.runMld cl f c) := by
  have hload := tableFrame_moveLoads s (movePlan f c.x.1 c.y.1 c.z.1) ((movePlan f c.x.1 c.y.1 c.z.1).elems c.mask)
  unfold State.runMld
  exact tableFrame_trans hload (tableFrame_tile (bumpGen_strands _ _))

theorem tableFrame_runAld (s : State) (cl : Nat) (f : Fields) (c : TCmd) : tableFrame s (s.runAld cl f c) :=
  tableFrame_trans (tableFrame_moveLoads s _ _) (tableFrame_putA _ _ _)

theorem tableFrame_putFlushed (s : State) (j : Nat) (a : AReg) : tableFrame s (s.putFlushed j a) := by
  unfold State.putFlushed
  split
  · exact tableFrame_trans (tableFrame_putA s j _) (tableFrame_tile rfl)
  · exact tableFrame_putA s j a

theorem wk_queue (st : Strand) (n : Nat) (x : BitVec 64) :
    (st.wk n x).tq = st.tq ∧ (st.wk n x).exiting = st.exiting := by
  unfold Strand.wk
  split <;> exact ⟨rfl, rfl⟩

theorem tableFrame_runMchk (s : State) (cl : Nat) (f : Fields) (c : TCmd) : tableFrame s (s.runMchk cl f c) :=
  tableFrame_trans (tableFrame_putTb s _ _) (tableFrame_modSt fun _ => ⟨rfl, rfl⟩)

theorem tableFrame_runAchk (s : State) (cl : Nat) (f : Fields) (c : TCmd) : tableFrame s (s.runAchk cl f c) := by
  refine tableFrame_modSt fun st => ⟨?_, ?_⟩
  · exact (wk_queue _ _ _).1.trans (wk_queue _ _ _).1
  · exact (wk_queue _ _ _).2.trans (wk_queue _ _ _).2

/-- A change of a strand that keeps every table queue keeps that of the strand whose command it completes. -/
theorem modStrand_queue {t : Tile} {q r : Nat} {f : Strand → Strand}
    (hf : ∀ st, (f st).tq = st.tq ∧ (f st).exiting = st.exiting) :
    ((t.modStrand q f).strands.val {} r).tq = (t.strands.val {} r).tq ∧
      ((t.modStrand q f).strands.val {} r).exiting = (t.strands.val {} r).exiting := by
  by_cases h : r = q
  · rw [h, strand_modStrand_same]
    exact hf _
  · rw [strand_modStrand_ne _ _ h]
    exact ⟨rfl, rfl⟩

theorem tableFrame_lateOf (s : State) (i : Instr) (d : BitVec 8) :
    tableFrame s (s.modTl fun t => t.lateOf s.curRec i d) := by
  have h : ((s.tl.lateOf s.curRec i d).strands.val {} s.curRec).tq = s.st.tq ∧
      ((s.tl.lateOf s.curRec i d).strands.val {} s.curRec).exiting = s.st.exiting := by
    unfold Tile.lateOf
    dsimp only
    split
    · rename_i q _
      obtain ⟨hq, he⟩ := modStrand_queue (t := s.tl) (q := s.curRec) (r := s.curRec) (f := fun st => st.foldLate d
        ((resultRegs i).flatMap fun sp => st.foldReg (BitVec.allOnes 64) sp)) fun _ => ⟨rfl, rfl⟩
      obtain ⟨hq', he'⟩ := modStrand_queue (t := s.tl.modStrand s.curRec fun st => st.foldLate d
        ((resultRegs i).flatMap fun sp => st.foldReg (BitVec.allOnes 64) sp)) (q := q) (r := s.curRec)
        (f := fun x => x.fillFwd d { s.st.forward i with await := none }) fun _ => ⟨rfl, rfl⟩
      exact ⟨hq'.trans hq, he'.trans he⟩
    · exact ⟨rfl, rfl⟩
  exact tableFrame_modTl h.1 h.2

theorem tableFrame_runT (s : State) (c : TCmd) : tableFrame s (s.runT c) := by
  have hputs : ∀ (j k : Nat) (b : TbReg) (a : AReg), tableFrame s ((s.putTb j b).putA k a) := fun j k b a =>
    tableFrame_trans (tableFrame_putTb s j b) (tableFrame_putA _ k a)
  have hlate : ∀ {t : State} (d : BitVec 8), tableFrame s t →
      tableFrame s (t.modTl fun u => u.lateOf s.curRec c.instr d) := by
    intro t d h
    have hcur : t.curRec = s.curRec := h.2.1
    rw [← hcur]
    exact tableFrame_trans h (tableFrame_lateOf t c.instr d)
  unfold State.runT
  split
  · exact tableFrame_refl s
  · rename_i cl _
    split
    next f _ => exact tableFrame_runMld s cl f c
    next f _ => exact tableFrame_storeElems s _ _
    next f _ => exact tableFrame_runAld s cl f c
    next f _ => exact tableFrame_storeElems s _ _
    next f _ => exact tableFrame_putTb s _ _
    next f _ => exact tableFrame_putTb s _ _
    next f _ => exact hputs _ _ _ _
    next f _ => exact hputs _ _ _ _
    next f _ => exact tableFrame_putTb s _ _
    next f _ => exact tableFrame_putA s _ _
    next f _ => exact tableFrame_putFlushed s _ _
    next f _ => exact tableFrame_putA s _ _
    next f _ => exact hlate f.d (tableFrame_runMchk s cl f c)
    next f _ => exact hlate f.d (tableFrame_runAchk s cl f c)
    · exact tableFrame_refl s

/-! ### The turn of the table engine (R168) -/

/-- The claimant that goes next is one of the list, and none has started less recently. -/
theorem leastRecent_spec (last : List Nat) (place : Strand → Nat) {l : List (Nat × Strand)} (h : l ≠ []) :
    ∃ y, leastRecent last place l = some y ∧ y ∈ l ∧ ∀ x ∈ l, staleness last y.1 ≤ staleness last x.1 := by
  induction l with
  | nil => exact absurd rfl h
  | cons x l ih =>
    by_cases hl : l = []
    · subst hl
      exact ⟨x, rfl, List.mem_cons_self, fun z hz => List.mem_singleton.mp hz ▸ Nat.le_refl _⟩
    · obtain ⟨y, hy, hmem, hmin⟩ := ih hl
      have hx : ∀ (ha : staleness last x.1 ≤ staleness last y.1), ∀ z ∈ x :: l,
          staleness last x.1 ≤ staleness last z.1 := fun ha z hz =>
        (List.mem_cons.mp hz).elim (fun he => he ▸ Nat.le_refl _) fun hz => Nat.le_trans ha (hmin z hz)
      have hy' : ∀ (ha : staleness last y.1 ≤ staleness last x.1), ∀ z ∈ x :: l,
          staleness last y.1 ≤ staleness last z.1 := fun ha z hz =>
        (List.mem_cons.mp hz).elim (fun he => by rw [he]; exact ha) (hmin z)
      have hmem' : y ∈ x :: l := List.mem_cons_of_mem _ hmem
      have hxm : x ∈ x :: l := List.mem_cons_self
      simp only [leastRecent, hy]
      split
      · exact ⟨x, rfl, hxm, hx (by omega)⟩
      · split
        · exact ⟨y, rfl, hmem', hy' (by omega)⟩
        · have heq : staleness last x.1 = staleness last y.1 := by omega
          split
          · exact ⟨x, rfl, hxm, hx (Nat.le_of_eq heq)⟩
          · split
            · exact ⟨y, rfl, hmem', hy' (Nat.le_of_eq heq.symm)⟩
            · split
              · exact ⟨x, rfl, hxm, hx (Nat.le_of_eq heq)⟩
              · exact ⟨y, rfl, hmem', hy' (Nat.le_of_eq heq.symm)⟩

theorem claimant_queue {t : Tile} {p : Nat × Strand} (h : p ∈ t.tClaimants) : ∃ c rest, p.2.tq = c :: rest := by
  unfold Tile.tClaimants at h
  split at h
  · exact absurd h List.not_mem_nil
  · obtain ⟨-, hready⟩ := List.mem_filter.mp h
    cases hq : p.2.tq with
    | nil =>
      rw [hq] at hready
      exact absurd hready Bool.false_ne_true
    | cons c rest => exact ⟨c, rest, rfl⟩

theorem settle_none {t : Tile} {r : Nat} (n : Nat) (h : ∀ q ∈ (t.strands.val {} r).tq, q.onClaim = false) :
    t.settle r n = t := by
  cases n with
  | zero => rfl
  | succ n =>
    unfold Tile.settle
    split
    · rfl
    · rename_i c rest hq
      have hc := h c (hq ▸ List.mem_cons_self)
      unfold TCmd.onClaim at hc
      dsimp only
      split
      · rename_i f hi
        rw [hi] at hc
        cases hc
      · rename_i f hi
        rw [hi] at hc
        cases hc
      · rfl

theorem reap_stays {s : State} {tile r : Nat} (h : (s.strandAt tile r).exiting = false) : s.reap tile r = s := by
  unfold State.reap
  dsimp only
  split
  · rfl
  · rename_i st hv
    have hst : s.strandAt tile r = st := by rw [State.strandAt, SMap.val, hv, Option.getD_some]
    rw [← hst, h, Bool.false_and, if_neg Bool.false_ne_true]

/-- The start of a strand's head command: what it leaves in the queue, and that it runs for that strand. -/
def headStarted (s : State) (tile r : Nat) (rest : List TCmd) : State :=
  { s.modTileAt tile fun t => (t.modStrand r fun st => { st with tq := rest }).started r with cur := tile, curRec := r }

theorem headStarted_strand (s : State) (tile r : Nat) (rest : List TCmd) :
    (headStarted s tile r rest).st.tq = rest ∧
      (headStarted s tile r rest).st.exiting = (s.strandAt tile r).exiting := by
  have hat := strandAt_modTileAt_same s tile r fun t => (t.modStrand r fun st => { st with tq := rest }).started r
  have hst : (headStarted s tile r rest).st = { s.strandAt tile r with tq := rest } :=
    hat.trans (strand_modStrand_same (s.tileAt tile) r fun st => { st with tq := rest })
  rw [hst]
  exact ⟨rfl, rfl⟩

/-- A started command with no claim command behind it, of a strand that has not exited, does what it does and no more. -/
theorem startT_runs {s : State} {tile r : Nat} {c : TCmd} {rest : List TCmd}
    (hq : (s.strandAt tile r).tq = c :: rest) (he : (s.strandAt tile r).exiting = false)
    (hrest : ∀ q ∈ rest, q.onClaim = false) : s.startT tile r = (headStarted s tile r rest).runT c := by
  obtain ⟨hc, hr, htq, hex, hp⟩ := tableFrame_runT (headStarted s tile r rest) c
  obtain ⟨hrest0, hex0⟩ := headStarted_strand s tile r rest
  have hplain : s.startT tile r = (((headStarted s tile r rest).runT c).modTileAt tile fun t =>
      if ((t.settle r 3).strands.val {} r).exiting then (t.settle r 3).exitQueue r else t.settle r 3).reap tile r := by
    unfold State.startT
    rw [hq]
    rfl
  rw [hplain]
  generalize hu : (headStarted s tile r rest).runT c = u at hc hr htq hex hp ⊢
  have hst : (u.tileAt tile).strands.val {} r = u.st := by
    rw [State.st, hc, hr]
    rfl
  have hexit : ((u.tileAt tile).strands.val {} r).exiting = false := by rw [hst, hex, hex0, he]
  have hsettle : (u.tileAt tile).settle r 3 = u.tileAt tile :=
    settle_none 3 fun q hqm => hrest q (by rwa [hst, htq, hrest0] at hqm)
  have hplaced : tilePlaced u tile := hp ⟨_, _, rfl⟩
  rw [modTileAt_id hplaced (by rw [hsettle, hexit, if_neg Bool.false_ne_true])]
  exact reap_stays hexit

theorem tableCommandStart_idles {s : State} {tile : Nat} (h : (s.tileAt tile).tClaimants = []) :
    Rules.idles (.tableCommandStart tile) s := by
  have hpick : (s.tileAt tile).pickT = none := by rw [Tile.pickT, h]; rfl
  refine (exec_tableCommandStart tile s).trans ?_
  simp only [execTableCommandStart, hpick]

theorem tableCommandStart_starts {s : State} {tile : Nat} (hne : (s.tileAt tile).tClaimants ≠ [])
    (hdue : (s.tileAt tile).rebuildDue = none)
    (hall : ∀ p ∈ (s.tileAt tile).tClaimants, s.strandAt tile p.1 = p.2 ∧ p.2.exiting = false) :
    ∃ (r : Nat) (st : Strand) (c : TCmd) (rest : List TCmd), (r, st) ∈ (s.tileAt tile).tClaimants ∧ st.tq = c :: rest ∧
      (∀ p ∈ (s.tileAt tile).tClaimants, staleness (s.tileAt tile).tlast r ≤ staleness (s.tileAt tile).tlast p.1) ∧
      ((∀ q ∈ rest, q.onClaim = false) →
        exec (.tableCommandStart tile) s = .next ((headStarted s tile r rest).runT c)) := by
  obtain ⟨⟨r, st⟩, hpick, hmem, hmin⟩ := leastRecent_spec (s.tileAt tile).tlast (fun st => st.claim.getD 4) hne
  obtain ⟨c, rest, hq⟩ := claimant_queue hmem
  obtain ⟨hst, he⟩ := hall _ hmem
  refine ⟨r, st, c, rest, hmem, hq, hmin, fun hrest => (exec_tableCommandStart tile s).trans ?_⟩
  have hpickT : (s.tileAt tile).pickT = some (r, st) := hpick
  simp only [execTableCommandStart, hpickT, hdue]
  rw [startT_runs (hst ▸ hq) (hst ▸ he) hrest]

/-- Settles O38: the grants, the windows and the table engine's turns each through the tile they make. -/
theorem grantsAndWindowsServeTheirClaimants : Obligations.GrantsAndWindowsServeTheirClaimants := by
  intro s tile
  refine ⟨fun h => stepIf_false h _ _, fun r lo hi d rest => vclaimGrant_grants, fun h => stepIf_false h _ _,
    fun r c d rest => mclaimGrant_grants, ⟨vectorWindow_idles, fun hall => ⟨fun r n st => vectorWindow_goesOn hall,
      fun hoff hne => ?_⟩, fun r st hcs hst hl hq ho => ?_⟩, tableCommandStart_idles, tableCommandStart_starts⟩
  · obtain ⟨u, r, st, hr, he, ho, ⟨haged, hcredit⟩, hv, hs, hw⟩ := vectorWindow_opens hall hoff hne
    exact ⟨u, r, st, hr, he, ho, haged, hcredit, hv, hs, hw⟩
  · obtain ⟨u, he, ⟨hslot, hvl, hvq, hlq, hkind⟩, hm⟩ := vectorWindow_leaves hcs hst hl hq ho
    exact ⟨u, he, hslot, hvl, hvq, hlq, hkind, hm⟩

end Sys2Proof.Proofs
end

section
/-! PROOFS. The statements about `spawn` and about the issue cycle of a tile. -/

namespace Sys2Proof.Proofs

open Sys2Proof.Machine Sys2Proof.Laws

/-! ### The registers of a new strand (R179) -/

/-- Of a sparse map filtered by index the entries kept read as before. -/
theorem val?_filter {α : Type} (m : SMap α) (P : Nat → Bool) {n : Nat} (h : P n = true) :
    SMap.val? (m.filter fun p => P p.1) n = m.val? n := by
  induction m with
  | nil => rfl
  | cons p m ih =>
    obtain ⟨k, x⟩ := p
    by_cases hk : k = n
    · simp only [List.filter_cons, SMap.val?, hk, h, if_true]
    · cases hP : P k with
      | true => simp only [List.filter_cons, SMap.val?, hk, hP, if_true, if_false, ih]
      | false => simp only [List.filter_cons, SMap.val?, hk, hP, Bool.false_eq_true, if_false, ih]

/-- The strand that `spawn` makes of the issuing one for a work number and a priority. -/
def newStrand (s : State) (pc x y : Word) : Strand :=
  { s.st.child pc (setBits s.st.wid 0 (fieldW s.st.widw 0) x.toNat) (y.toNat % 8) with
    since := s.freeCtr, elders := s.st.elders ++ [(s.curRec, s.st.pos)] }

section
variable (s : State) (pc x y : Word) {n : Nat} (h1 : 1 ≤ n) (h5 : n ≤ 5)
include h1 h5

theorem newStrand_rg : (newStrand s pc x y).rg n = s.st.rg n := by
  have hkept : (decide (1 ≤ n) && decide (n ≤ 5)) = true := by simp only [h1, h5, decide_true, Bool.and_self]
  simp only [Strand.rg, newStrand, Strand.child, SMap.val]
  rw [val?_filter _ (fun k => decide (1 ≤ k) && decide (k ≤ 5)) hkept]

/-- The mask 0x3e keeps the poison of `g1` to `g5`. -/
theorem newStrand_rgp : (newStrand s pc x y).rgp n = s.st.rgp n := by
  have hmask : (0x3e : BitVec 32).getLsbD n = true := by
    obtain rfl | rfl | rfl | rfl | rfl : n = 1 ∨ n = 2 ∨ n = 3 ∨ n = 4 ∨ n = 5 := by omega
    all_goals rfl
  simp only [Strand.rgp, newStrand, Strand.child, BitVec.getLsbD_and, hmask, Bool.and_true]
end

/-! ### The state after a spawn (R179) -/

theorem rdSrc_curRec {s t : State} {sp : BitVec 8} {x : Word × Bool} (h : s.rdSrc sp = .ok (x, t)) :
    t.curRec = s.curRec := by
  obtain ⟨hs, -⟩ := rdSrc_frame h
  rw [← hs]

theorem rd2_curRec {s t : State} {a b : BitVec 8} {x y : Word × Bool} (h : s.rd2 a b = .ok (x, y, t)) :
    t.curRec = s.curRec := by
  obtain ⟨u, ha, hb⟩ := rd2_cases h
  rw [rdSrc_curRec hb, rdSrc_curRec ha]

/-- A tile whose record i a new strand has taken. -/
def recordTaken (t : Tile) (i : Nat) (c : Strand) : Tile :=
  { t with strands := (t.strands.mapVals fun _ st => st.outlives i).put i c, ready := t.ready ++ [i] }

/-- The state in which a new strand stands in record i, before D is written. -/
def spawned (s : State) (i : Nat) (c : Strand) : State :=
  ((s.modTl fun t => recordTaken t i c).writeRecord s.cur i).draw

section
variable (s : State) (i : Nat) (c : Strand)

theorem spawned_frame : localFrame (s.modTl fun t => recordTaken t i c) (spawned s i c) s.cur :=
  localFrame_trans (writeRecord_frame _ s.cur i) (localFrame_draw _ s.cur)

theorem spawned_cur : (spawned s i c).cur = s.cur := (spawned_frame s i c).1

theorem spawned_curRec : (spawned s i c).curRec = s.curRec := by
  obtain ⟨-, hr, -⟩ := spawned_frame s i c
  exact hr

theorem spawned_ready : (spawned s i c).tl.ready = s.tl.ready ++ [i] := by
  rw [State.tl, spawned_cur, localFrame_ready (spawned_frame s i c)]
  exact congrArg Tile.ready (tl_modTl s _)

theorem spawned_child : (spawned s i c).strandAt s.cur i = c := by
  rw [localFrame_strandAt (spawned_frame s i c)]
  exact (strandAt_modTileAt_same s s.cur i _).trans (val_put_same _ _ _ _)
end

/-! ### A write of D (R45) -/

theorem wrG_ready (s : State) (d : BitVec 8) (x : Word) (p : Bool) : (s.wrG d x p).tl.ready = s.tl.ready := by
  unfold State.wrG
  split
  · rw [tl_modSt]
    rfl
  · rfl

theorem wrG_strandAt_ne (s : State) (d : BitVec 8) (x : Word) (p : Bool) {r : Nat} (h : r ≠ s.curRec) :
    (s.wrG d x p).strandAt s.cur r = s.strandAt s.cur r := by
  unfold State.wrG
  split
  · exact strandAt_modSt_ne s _ (.inr h.symm)
  · rfl

theorem wrG_rg (s : State) {d : BitVec 8} (x : Word) (p : Bool) (hg : isG d = true) (h0 : opIdx d ≠ 0) :
    (s.wrG d x p).st.rg (opIdx d) = x := by
  rw [State.wrG, if_pos hg, st_modSt, rg_wg_same _ _ _ h0]

/-! ### `spawn` (R179) -/

theorem sTarget_of_line {s : State} {imm : BitVec 32} {line : Nat} (hlt : line < 2048)
    (h : (line : Int) = (pcLine s.st.upc : Int) + sextN 29 (imm.toNat / 8)) :
    s.sTarget imm = mkPc line (imm.toNat % 8) := by
  unfold State.sTarget
  dsimp only
  rw [← h, if_pos (by omega), Int.toNat_natCast]

/-- The effect of a spawn, with D written, for the record that is free. -/
def spawnedInto (f : Fields) (s : State) (x y : Word) : Option Nat → State
  | none => s.wrG f.d (BitVec.allOnes 64) false
  | some i => (spawned s i (newStrand s (s.sTarget f.imm) x y)).wrG f.d (BitVec.ofNat 64 i) false

/-- The write of D leaves the new strand, which stands in another record. -/
theorem spawnedInto_child (f : Fields) {s : State} (x y : Word) {i : Nat} (h : i ≠ s.curRec) :
    (spawnedInto f s x y (some i)).strandAt s.cur i = newStrand s (s.sTarget f.imm) x y := by
  have hkept := wrG_strandAt_ne (spawned s i (newStrand s (s.sTarget f.imm) x y)) f.d (BitVec.ofNat 64 i) false
    (r := i) (by rwa [spawned_curRec])
  rw [spawned_cur, spawned_child] at hkept
  exact hkept

section
variable {f : Fields} {s s1 : State} {x y : Word × Bool} (h : s.runs (.spawn f) f)
  (hrd : s.rd2 f.a f.b = .ok (x, y, s1)) (hx : x.2 = false) (hy : y.2 = false)
  (htarget : s1.targetBad s1.cur (s1.sTarget f.imm) = false) (hnumber : x.1.toNat < 2 ^ fieldW s1.st.widw 0)
include h hrd hx hy htarget hnumber

theorem spawn_completes : s.completes (.spawn f) (spawnedInto f s1 x.1 y.1 s1.tl.freeRecord) := by
  refine completes_of fun hs => guardedOp_ok h ?_ hs
  simp only [hrd, hx, hy, htarget, Nat.div_eq_of_lt hnumber, guardT, bind, Except.bind, pure, Except.pure, Bool.or_self,
    bne_self_eq_false, Bool.false_eq_true, if_false]
  cases s1.tl.freeRecord <;> rfl
end

/-- The strand made after the reads of A and B has of the issuing one what it had before them. -/
theorem newStrand_inherits {s s1 : State} {a b : BitVec 8} {x y : Word × Bool} (hrd : s.rd2 a b = .ok (x, y, s1))
    (pc : Word) :
    let c := newStrand s1 pc x.1 y.1
    c.wid = setBits s.st.wid 0 (fieldW s.st.widw 0) x.1.toNat ∧ c.widw = s.st.widw ∧ c.sup = s.st.sup ∧
      c.abortPc = s.st.abortPc ∧ ∀ n, 1 ≤ n → n ≤ 5 → c.rg n = s.st.rg n ∧ c.rgp n = s.st.rgp n := by
  obtain ⟨-, -, hq, -⟩ := rd2_readsOnly hrd
  rw [← hq]
  exact ⟨rfl, rfl, rfl, rfl, fun n h1 h5 => ⟨newStrand_rg s1 pc _ _ h1 h5, newStrand_rgp s1 pc _ _ h1 h5⟩⟩

/-- Settles O27: the strand that the spawn puts into the free record, through the reads before it and the write of D
after it. -/
theorem spawnCreatesARunnableStrand : Obligations.SpawnCreatesARunnableStrand := by
  intro f s s1 x y line h hrd hx hy hlt hline htarget hnumber
  obtain ⟨-, -, hq, -⟩ := rd2_readsOnly hrd
  have hwidw : s1.st.widw = s.st.widw := by rw [← hq]
  have hpc : s1.sTarget f.imm = mkPc line (f.imm.toNat % 8) := sTarget_of_line hlt (by rw [rd2_upc hrd]; exact hline)
  have hnumber1 : x.1.toNat < 2 ^ fieldW s1.st.widw 0 := by rw [hwidw]; exact hnumber
  rw [← hpc] at htarget
  have hdone := spawn_completes h hrd hx hy htarget hnumber1
  refine ⟨fun hfull => by rwa [hfull] at hdone, fun i hi hne => ?_⟩
  rw [hi] at hdone
  refine ⟨spawnedInto f s1 x.1 y.1 (some i), ?_, fun hg h0 => wrG_rg _ _ _ hg h0, ?_, hdone⟩
  · exact (wrG_ready _ _ _ _).trans (spawned_ready s1 i _)
  · have hchild := spawnedInto_child f x.1 y.1 (s := s1) (i := i) (by rwa [rd2_curRec hrd])
    rw [rd2_cur hrd, hpc] at hchild
    rw [hchild]
    obtain ⟨hwid, hw, hsup, habort, hregs⟩ := newStrand_inherits hrd (mkPc line (f.imm.toNat % 8))
    exact ⟨rfl, rfl, rfl, rfl, hwid, hw, hsup, habort, hregs, rfl⟩

/-! ### The issue cycle of a tile (R185) -/

theorem exec_tileIssueCycle (tile : Nat) (s : State) : exec (.tileIssueCycle tile) s = execTileIssueCycle tile s := rfl

/-- What the counts of a tc make of a strand. -/
def tickedStrand (s : State) (tile r : Nat) (st : Strand) : Strand :=
  st.tick (((s.pickSlot tile).map (·.1)).isSome && st.slot == (s.pickSlot tile).map (·.1))
    (s.stopping tile || s.stopped tile r)

/-- The idle counters that a tc of the issue cycle moves: those of the slots not picked. -/
def idleSlots (s : State) (tile : Nat) : List (Option Nat) :=
  ((List.range 8).filter fun n => (s.pickSlot tile).map (·.1) != some n).map (s.idleOf tile)

/-- What a tc of the issue cycle makes of a tile before the slot it picks is noted: counters tick. -/
def tickedTile (s : State) (tile : Nat) : Tile :=
  let t := (idleSlots s tile).foldl Tile.bumpIdle (s.tileAt tile)
  { t with
    parkCnt := if t.onlyWaiting && t.parkSt == 0 then t.parkCnt + 1 else 0
    vwin := if t.windowOn then t.vwin else none
    strands := t.strands.mapVals (tickedStrand s tile) }

/-- The credit of a slot with its weight added. -/
def raisedCredit (t : Tile) (n : Nat) : Nat := t.cr.val 0 n + ((t.inSlot n).map fun p => p.2.pri + 1).getD 0

/-- The slot picked noted in its tile, with its credit where it does not issue by the bonus. -/
def notePick (t : Tile) : Option (Nat × Bool) → Tile
  | none => { t with bonus := false }
  | some (n, true) => { t with issT := n, bonus := false }
  | some (n, false) =>
    { t with issT := n, bonus := decide (8 ≤ raisedCredit t n),
             cr := t.cr.put n (if 8 ≤ raisedCredit t n then raisedCredit t n - 8 else raisedCredit t n) }

theorem cycle_tile (s : State) (tile : Nat) :
    (s.cycle tile).tileAt tile = notePick (tickedTile s tile) (s.pickSlot tile) := by
  rw [State.cycle, tileAt_modTileAt_same]
  unfold notePick
  rfl

theorem cycle_tileAt_ne (s : State) {tile n : Nat} (h : n ≠ tile) : (s.cycle tile).tileAt n = s.tileAt n :=
  tileAt_modTileAt_ne s _ h.symm

/-! ### The ticks leave slots, priorities and credits -/

theorem bumpIdle_keeps (t : Tile) (i : Option Nat) :
    (t.bumpIdle i).strands = t.strands ∧ (t.bumpIdle i).issT = t.issT ∧ (t.bumpIdle i).cr = t.cr := by
  cases i <;> exact ⟨rfl, rfl, rfl⟩

theorem bumpAll_keeps (l : List (Option Nat)) (t : Tile) :
    (l.foldl Tile.bumpIdle t).strands = t.strands ∧ (l.foldl Tile.bumpIdle t).issT = t.issT ∧
      (l.foldl Tile.bumpIdle t).cr = t.cr := by
  induction l generalizing t with
  | nil => exact ⟨rfl, rfl, rfl⟩
  | cons i l ih =>
    obtain ⟨hs, hi, hc⟩ := ih (t.bumpIdle i)
    obtain ⟨hs0, hi0, hc0⟩ := bumpIdle_keeps t i
    exact ⟨hs.trans hs0, hi.trans hi0, hc.trans hc0⟩

theorem tickedTile_keeps (s : State) (tile : Nat) :
    (tickedTile s tile).strands = (s.tileAt tile).strands.mapVals (tickedStrand s tile) ∧
      (tickedTile s tile).issT = (s.tileAt tile).issT ∧ (tickedTile s tile).cr = (s.tileAt tile).cr := by
  obtain ⟨hs, hi, hc⟩ := bumpAll_keeps (idleSlots s tile) (s.tileAt tile)
  exact ⟨congrArg (SMap.mapVals · (tickedStrand s tile)) hs, hi, hc⟩

theorem tickedStrand_keeps (s : State) (tile r : Nat) (st : Strand) :
    (tickedStrand s tile r st).slot = st.slot ∧ (tickedStrand s tile r st).pri = st.pri := by
  unfold tickedStrand Strand.tick
  split <;> exact ⟨rfl, rfl⟩

/-- A change of every strand that keeps its slot leaves who stands in a slot. -/
theorem inSlot_mapVals {t u : Tile} {f : Nat → Strand → Strand} (hu : u.strands = t.strands.mapVals f)
    (hf : ∀ r st, (f r st).slot = st.slot) (n : Nat) : u.inSlot n = (t.inSlot n).map fun p => (p.1, f p.1 p.2) := by
  rw [Tile.inSlot, hu, SMap.mapVals, List.find?_map]
  simp only [Function.comp_def, hf]
  rfl

/-- The credit that the slot of a strand reaches in the tc that it issues in. -/
theorem raisedCredit_ticked {s : State} {tile n r : Nat} {st : Strand} (h : (s.tileAt tile).inSlot n = some (r, st)) :
    raisedCredit (tickedTile s tile) n = (s.tileAt tile).cr.val 0 n + st.pri + 1 := by
  obtain ⟨hs, -, hc⟩ := tickedTile_keeps s tile
  obtain ⟨-, hpri⟩ := tickedStrand_keeps s tile r st
  rw [raisedCredit, hc, inSlot_mapVals hs (fun k u => (tickedStrand_keeps s tile k u).1), h, Option.map_some,
    Option.map_some, Option.getD_some, hpri, Nat.add_assoc]

/-! ### The slot picked (R185) -/

theorem inSlot_of_ready {s : State} {tile n : Nat} (h : s.slotReady tile n = true) :
    ∃ r st, (s.tileAt tile).inSlot n = some (r, st) := by
  unfold State.slotReady at h
  split at h
  · rename_i r st hin
    exact ⟨r, st, hin⟩
  · contradiction

theorem pickSlot_bonus {s : State} {tile : Nat} (hb : (s.tileAt tile).bonus = true)
    (hr : s.slotReady tile (s.tileAt tile).issT = true) : s.pickSlot tile = some ((s.tileAt tile).issT, true) := by
  simp only [State.pickSlot, hb, hr, Bool.and_self, if_true]

/-- Without the bonus the slots are asked in turn from the one after the last that issued. -/
theorem pickSlot_turn {s : State} {tile : Nat}
    (hb : (s.tileAt tile).bonus = true → s.slotReady tile (s.tileAt tile).issT = false) :
    s.pickSlot tile = ((List.range 8).find? fun i => s.slotReady tile (((s.tileAt tile).issT + 1 + i) % 8)).map
      fun i => (((s.tileAt tile).issT + 1 + i) % 8, false) := by
  have hno : ((s.tileAt tile).bonus && s.slotReady tile (s.tileAt tile).issT) = false := by
    cases hbonus : (s.tileAt tile).bonus with
    | false => rfl
    | true => rw [hb hbonus, Bool.and_false]
  simp only [State.pickSlot, hno, Bool.false_eq_true, if_false]

theorem pickSlot_first {s : State} {tile k : Nat} (hb : (s.tileAt tile).bonus = false) (hk : k < 8)
    (hr : s.slotReady tile (((s.tileAt tile).issT + 1 + k) % 8) = true)
    (hfirst : ∀ j, j < k → s.slotReady tile (((s.tileAt tile).issT + 1 + j) % 8) = false) :
    s.pickSlot tile = some (((s.tileAt tile).issT + 1 + k) % 8, false) := by
  have hfind : (List.range 8).find? (fun i => s.slotReady tile (((s.tileAt tile).issT + 1 + i) % 8)) = some k :=
    List.find?_range_eq_some.mpr ⟨hr, List.mem_range.mpr hk, fun j hj => by rw [hfirst j hj, Bool.not_false]⟩
  rw [pickSlot_turn fun hbonus => absurd (hbonus.symm.trans hb) (by decide), hfind, Option.map_some]

theorem pickSlot_none {s : State} {tile : Nat} (h : ∀ n, n < 8 → s.slotReady tile n = false)
    (hi : (s.tileAt tile).issT < 8) : s.pickSlot tile = none := by
  have hfind : (List.range 8).find? (fun i => s.slotReady tile (((s.tileAt tile).issT + 1 + i) % 8)) = none :=
    List.find?_eq_none.mpr fun i _ => by
      rw [h _ (Nat.mod_lt _ (by decide))]
      exact Bool.false_ne_true
  rw [pickSlot_turn fun _ => h _ hi, hfind, Option.map_none]

/-! ### What the step answers (R185) -/

/-- The state in which the strand of record r issues in its tile's tc. -/
def issuesNext (s : State) (tile r : Nat) : State := { s.cycle tile with cur := tile, curRec := r, issuing := true }

theorem issuesNext_tileAt (s : State) (tile r n : Nat) : (issuesNext s tile r).tileAt n = (s.cycle tile).tileAt n := rfl

theorem tileIssueCycle_issues {s : State} {tile n r : Nat} {b : Bool} {st : Strand} (hp : s.pickSlot tile = some (n, b))
    (hin : (s.tileAt tile).inSlot n = some (r, st)) :
    exec (.tileIssueCycle tile) s = .next (issuesNext s tile r) := by
  rw [exec_tileIssueCycle, execTileIssueCycle, hp, Option.bind_some, hin]
  rfl

theorem tileIssueCycle_none {s : State} {tile : Nat} (hp : s.pickSlot tile = none) :
    exec (.tileIssueCycle tile) s = .next (s.cycle tile) := by
  rw [exec_tileIssueCycle, execTileIssueCycle, hp]
  rfl

/-- Settles O37: the slot that each case picks, and the tile in which the pick is noted. -/
theorem issueCyclesChooseTheNextReadySlot : Obligations.IssueCyclesChooseTheNextReadySlot := by
  intro s tile
  obtain ⟨-, hissT, hcr⟩ := tickedTile_keeps s tile
  refine ⟨fun k hb hk hr hfirst => ?_, fun hb hr => ?_, fun h hi => ?_⟩
  · have hp := pickSlot_first hb hk hr hfirst
    obtain ⟨r, st, hin⟩ := inSlot_of_ready hr
    have hraised := raisedCredit_ticked hin
    refine ⟨_, r, st, hin, tileIssueCycle_issues hp hin, rfl, rfl, rfl, ?_⟩
    simp only [issuesNext_tileAt, cycle_tile, hp, notePick, hraised, hcr, val_put_same, true_and]
    exact ⟨fun m hm => val_put_ne _ _ _ hm.symm, rfl, fun m hm => cycle_tileAt_ne s hm⟩
  · have hp := pickSlot_bonus hb hr
    obtain ⟨r, st, hin⟩ := inSlot_of_ready hr
    refine ⟨_, r, st, hin, tileIssueCycle_issues hp hin, rfl, rfl, rfl, ?_⟩
    simp only [issuesNext_tileAt, cycle_tile, hp, notePick, hcr, true_and]
    rfl
  · have hp := pickSlot_none h hi
    refine ⟨_, tileIssueCycle_none hp, rfl, ?_⟩
    simp only [cycle_tile, hp, notePick, hissT, true_and]
    rfl

end Sys2Proof.Proofs
end

section
/-! PROOFS. The statements about the exchange engine: the start and the requests of its commands, and their way back. -/

namespace Sys2Proof.Proofs

open Sys2Proof.Machine Sys2Proof.Laws

/-! ### Steps of the exchange engine (R238, R239, R305, R331) -/

/-- Every step of the exchange engine is `orStay` of the state that it comes to where it is due. -/
theorem orStay_some {o : Option State} {s t : State} (h : o = some t) : orStay o s = .next t := by
  rw [h, orStay, Option.getD_some]

theorem orStay_none {o : Option State} {s : State} (h : o = none) : orStay o s = .next s := by
  rw [h, orStay, Option.getD_none]

/-! ### Numbers in local memory (R9, R347) -/

theorem stBytes_mem (s : State) (tile off : Nat) (bs : List Byte) (p : Bool) :
    (s.stBytes tile off bs p).mem = wrBytes s.mem (sramKey tile off) bs := by
  unfold State.stBytes
  split
  · rename_i h
    rw [List.isEmpty_iff.mp h]
    rfl
  · dsimp only
    rw [modTileAt_mem, (meetFlips_frame _ tile off _).2, modTileAt_mem]

theorem stNum_mem (s : State) (tile off n x : Nat) (p : Bool) :
    (s.stNum tile off n x p).mem = wrBytes s.mem (sramKey tile off) (natToBytes n x) := stBytes_mem s tile off _ p

/-- A number reads as before where it lies below the bytes written. -/
theorem rdNat_wrBytes_below (m : Memory) {a b n : Nat} (bs : List Byte) (h : a + n ≤ b) :
    rdNat (wrBytes m b bs) a n = rdNat m a n := by
  unfold rdNat
  congr 1
  induction n generalizing a with
  | zero => rfl
  | succ n ih => rw [rdBytes, rdBytes, ih (by omega), rdByte_wrBytes_out m bs (.inl (by omega))]

/-- The lowest k bytes of a number that was written read back. -/
theorem rdNat_wrBytes_natToBytes {m : Memory} {a k n : Nat} (x : Nat) (w : m.wf = true) (h : k ≤ n) :
    rdNat (wrBytes m a (natToBytes n x)) a k = x % 256 ^ k := by
  induction k generalizing m a n x with
  | zero => exact (Nat.mod_one x).symm
  | succ k ih =>
    obtain ⟨n, rfl⟩ := Nat.exists_eq_add_of_le' (Nat.lt_of_lt_of_le (Nat.succ_pos k) h)
    have hlow : rdByte (wrBytes (wrByte m a (BitVec.ofNat 8 x)) (a + 1) (natToBytes n (x / 256))) a =
        BitVec.ofNat 8 x := by
      rw [rdByte_wrBytes_out _ _ (.inl (Nat.lt_succ_self a)), rdByte_wrByte_same _ _ w]
    have hhigh := ih (m := wrByte m a (BitVec.ofNat 8 x)) (a := a + 1) (n := n) (x / 256) (wrByte_wf _ _ w) (by omega)
    unfold rdNat at hhigh ⊢
    rw [natToBytes, wrBytes, rdBytes, bytesToNat, hlow, hhigh, BitVec.toNat_ofNat, Nat.pow_succ' (m := 256),
      Nat.mod_mul]

/-! ### What work at sync words leaves (R232 to R234) -/

theorem stNum_frame (s : State) (tile off n x : Nat) (p : Bool) : localFrame s (s.stNum tile off n x p) tile :=
  stBytes_frame s tile off _ p

theorem swFlag_frame (s : State) (tile addr bit : Nat) : localFrame s (s.swFlag tile addr bit) tile := by
  unfold State.swFlag
  split
  · exact localFrame_refl s tile
  · exact stNum_frame s tile _ _ _ _

theorem swHeld_frame (s : State) (tile addr : Nat) (count : Option Nat) :
    localFrame s (s.swHeld tile addr count) tile := by
  unfold State.swHeld
  split
  · exact localFrame_refl s tile
  · exact stNum_frame s tile _ _ _ _

theorem arrive_frame (s : State) (tile addr n : Nat) (p : Bool) : localFrame s (s.arrive tile addr n p).1 tile := by
  have hflag : localFrame s (if p then s.swFlag tile addr 1 else s) tile := by
    split
    · exact swFlag_frame s tile addr 1
    · exact localFrame_refl s tile
  unfold State.arrive
  split
  · exact localFrame_refl s tile
  · generalize (if p then s.swFlag tile addr 1 else s) = s1 at hflag
    refine localFrame_trans hflag ?_
    dsimp only
    split
    · split
      · exact localFrame_trans (stNum_frame _ tile _ _ _ _) (swFlag_frame _ tile _ _)
      · exact stNum_frame _ tile _ _ _ _
    · exact localFrame_trans (stNum_frame _ tile _ _ _ _) (stNum_frame _ tile _ _ _ _)

theorem countOwn_frame (s : State) (tile : Nat) (c : XCmd) (n : Nat) (p : Bool) :
    localFrame s (s.countOwn tile c n p) tile := by
  unfold State.countOwn
  split
  · exact arrive_frame s tile _ n p
  · exact localFrame_refl s tile

theorem heldCount_frame (s : State) (tile : Nat) (c : XCmd) (up : Bool) :
    localFrame s (s.heldCount tile c up) tile := by
  unfold State.heldCount
  split
  · exact swHeld_frame s tile _ _
  · exact localFrame_refl s tile

theorem swSet_frame (s : State) (tile addr : Nat) (g : Bool) (x : Nat) : localFrame s (s.swSet tile addr g x) tile :=
  localFrame_trans (stNum_frame s tile _ _ _ _) (stNum_frame _ tile _ _ _ _)

/-- `swset` writes the low half of its value at the word's first byte (R234). -/
theorem swSet_ldNum {s : State} (tile addr : Nat) (g : Bool) (x : Nat) (hw : s.mem.wf = true) :
    (s.swSet tile addr g x).ldNum tile addr 4 = x % 2 ^ 32 := by
  unfold State.swSet State.ldNum
  dsimp only
  rw [stNum_mem, rdNat_wrBytes_below _ _ (by unfold sramKey; omega), stNum_mem,
    rdNat_wrBytes_natToBytes _ hw (by decide)]
  exact Nat.mod_mod x (2 ^ 32)

/-! ### Active commands (R238) -/

theorem localFrame_xact {s t : State} {tile : Nat} (h : localFrame s t tile) :
    (t.tileAt tile).xact = (s.tileAt tile).xact := by
  obtain ⟨-, -, -, ht⟩ := h
  rw [← ht]

/-- A change that keeps the number of each command is found at the number where it was made. -/
theorem act?_modAct {t : Tile} {no : Nat} {a : XAct} {f : XAct → XAct} (h : t.act? no = some a)
    (hf : ∀ b, (f b).cmd = b.cmd) : (t.modAct no f).act? no = some (f a) := by
  have hkeeps : (fun b : XAct => b.cmd.no == no) ∘ (fun b => if b.cmd.no = no then f b else b) =
      fun b => b.cmd.no == no := by
    funext b
    rw [Function.comp_apply]
    split
    · rw [hf]
    · rfl
  have hno : (a.cmd.no == no) = true := List.find?_some (p := fun b : XAct => b.cmd.no == no) h
  rw [Tile.act?, Tile.modAct, List.find?_map, hkeeps, ← Tile.act?, h, Option.map_some, if_pos (beq_iff_eq.mp hno)]

theorem modAct_act? {s : State} {tile no : Nat} {a : XAct} {f : XAct → XAct} (h : (s.tileAt tile).act? no = some a)
    (hf : ∀ b, (f b).cmd = b.cmd) : ((s.modAct tile no f).tileAt tile).act? no = some (f a) := by
  rw [State.modAct, tileAt_modTileAt_same, act?_modAct h hf]

theorem freeSlots_act? {s : State} {tile no : Nat} {a : XAct} (p : XReq → Bool) (h : (s.tileAt tile).act? no = some a) :
    ((s.freeSlots tile no p).tileAt tile).act? no =
      some { a with reqs := a.reqs.map fun r => if p r then { r with cls := none } else r } := by
  simp only [State.freeSlots, h, tileAt_modTileAt_same]
  exact act?_modAct h fun _ => rfl

/-! ### The start of a command leaves the queues (R238) -/

/-- The order of the starts, and of each strand the commands that are queued and whether it has exited. -/
def queuesKept (t u : Tile) : Prop :=
  u.xlast = t.xlast ∧ ∀ k, (u.strands.val {} k).xq = (t.strands.val {} k).xq ∧
    (u.strands.val {} k).exiting = (t.strands.val {} k).exiting

theorem queuesKept_refl (t : Tile) : queuesKept t t := ⟨rfl, fun _ => ⟨rfl, rfl⟩⟩

theorem queuesKept_trans {t u v : Tile} (h : queuesKept t u) (h' : queuesKept u v) : queuesKept t v :=
  ⟨h'.1.trans h.1, fun k => ⟨(h'.2 k).1.trans (h.2 k).1, (h'.2 k).2.trans (h.2 k).2⟩⟩

theorem queuesKept_of_local {s t : State} {tile : Nat} (h : localFrame s t tile) :
    queuesKept (s.tileAt tile) (t.tileAt tile) := by
  obtain ⟨-, -, -, ht⟩ := h
  rw [← ht]
  exact queuesKept_refl _

theorem lateG_queuesKept (t : Tile) (r : Nat) (d : BitVec 8) (x : Word) (p : Bool) :
    queuesKept t (t.lateG r d x p) := by
  have hlast := congrArg Tile.xlast (lateG_tile t r d x p)
  refine ⟨hlast, fun k => ?_⟩
  obtain ⟨hst, -⟩ := (lateG_claimFrame t r d x p).2 k
  exact ⟨by rw [← hst], by rw [← hst]⟩

theorem putReg_queuesKept (s : State) (tile : Nat) (c : XCmd) (x : Word) (p : Bool) :
    queuesKept (s.tileAt tile) ((s.putReg tile c x p).tileAt tile) := by
  unfold State.putReg
  split
  · rw [tileAt_modTileAt_same]
    exact lateG_queuesKept _ _ _ _ _
  · exact queuesKept_refl _

theorem activate_tile (s : State) (tile : Nat) (c : XCmd) (bs : List PByte) :
    (s.activate tile c bs).tileAt tile = { s.tileAt tile with
      xact := (s.tileAt tile).xact ++
        [{ cmd := c, counted := c.from0, nxt := c.from0, wnxt := c.from0, block := bs }] } :=
  tileAt_modTileAt_same s tile _

theorem activate_queuesKept (s : State) (tile : Nat) (c : XCmd) (bs : List PByte) :
    queuesKept (s.tileAt tile) ((s.activate tile c bs).tileAt tile) := by
  rw [activate_tile]
  exact queuesKept_refl _

theorem startXop_queuesKept (s : State) (tile b : Nat) (c : XCmd) :
    queuesKept (s.tileAt tile) ((s.startXop tile b c).tileAt tile) := by
  have hmet := queuesKept_of_local (meetFlips_frame s tile b 128).1
  unfold State.startXop
  dsimp only
  split
  · exact queuesKept_trans hmet
      (queuesKept_of_local (localFrame_trans (stNum_frame _ tile _ _ _ _) (countOwn_frame _ tile c _ _)))
  · exact queuesKept_trans hmet (activate_queuesKept _ tile c _)

theorem startCmd_queuesKept (s : State) (tile : Nat) (c : XCmd) :
    queuesKept (s.tileAt tile) ((s.startCmd tile c).tileAt tile) := by
  unfold State.startCmd
  split
  case h_1 => exact queuesKept_of_local (swSet_frame s tile _ _ _)
  case h_2 =>
    exact queuesKept_trans (queuesKept_of_local (meetFlips_frame s tile _ _).1) (putReg_queuesKept _ tile c _ _)
  case h_3 => exact queuesKept_refl _
  case h_4 => exact putReg_queuesKept s tile c _ _
  case h_5 => exact activate_queuesKept s tile c _
  case h_6 => exact startXop_queuesKept s tile _ c
  case h_7 =>
    split
    · exact queuesKept_refl _
    · exact activate_queuesKept s tile c _

/-! ### EXCHANGE_COMMAND_START (R238) -/

/-- The head of a strand's exchange queue taken off, the strand noted as the last that started one. -/
def xqTaken (s : State) (tile r : Nat) (rest : List XCmd) : State :=
  s.modTileAt tile fun t =>
    { t.modStrand r (fun st => { st with xq := rest }) with xlast := (t.xlast.filter (· != r)) ++ [r] }

theorem xqTaken_tile (s : State) (tile r : Nat) (rest : List XCmd) : (xqTaken s tile r rest).tileAt tile =
    { (s.tileAt tile).modStrand r (fun st => { st with xq := rest }) with
      xlast := ((s.tileAt tile).xlast.filter (· != r)) ++ [r] } := tileAt_modTileAt_same s tile _

theorem xqTaken_strand (s : State) (tile r : Nat) (rest : List XCmd) :
    (xqTaken s tile r rest).strandAt tile r = { s.strandAt tile r with xq := rest } := by
  rw [State.strandAt, xqTaken_tile]
  exact strand_modStrand_same (s.tileAt tile) r fun st => { st with xq := rest }

theorem startX?_stopped {s : State} {tile : Nat} (h : s.engineGo tile = false ∨ 16 ≤ (s.tileAt tile).active) :
    s.startX? tile = none := by
  unfold State.startX?
  dsimp only
  rw [if_pos]
  simpa using h

theorem engine?_stopped {s : State} {tile : Nat} (no : Nat) (h : s.engineGo tile = false) :
    s.engine? tile no = none := by
  unfold State.engine?
  split
  · rfl
  · simp [h]

section
variable {s : State} {tile r : Nat} {st : Strand} {c : XCmd} {rest : List XCmd}

/-- With one head that can start, that one starts. -/
theorem startX?_alone (hgo : s.engineGo tile = true) (hact : (s.tileAt tile).active < 16)
    (hcs : ((s.tileAt tile).strands.filter fun p => s.headReady tile p.2) = [(r, st)]) (hq : st.xq = c :: rest) :
    s.startX? tile = some (((xqTaken s tile r rest).startCmd tile c).reap tile r) := by
  unfold State.startX?
  simp only [hgo, hcs, hq, leastRecent, Bool.not_true, Bool.false_or, decide_eq_true_eq, Nat.not_le.mpr hact, if_false]
  rfl

/-- A strand that has not exited keeps its record, so that the start is all that happens. -/
theorem exchangeCommandStart_alone (hgo : s.engineGo tile = true) (hact : (s.tileAt tile).active < 16)
    (hcs : ((s.tileAt tile).strands.filter fun p => s.headReady tile p.2) = [(r, st)])
    (hst : s.strandAt tile r = st) (hexit : st.exiting = false) (hq : st.xq = c :: rest) :
    exec (.exchangeCommandStart tile) s = .next ((xqTaken s tile r rest).startCmd tile c) := by
  have hstart := startX?_alone hgo hact hcs hq
  have hkept : ((xqTaken s tile r rest).startCmd tile c |>.strandAt tile r).exiting = false := by
    obtain ⟨-, hstrand⟩ := startCmd_queuesKept (xqTaken s tile r rest) tile c
    refine (hstrand r).2.trans ?_
    rw [← State.strandAt, xqTaken_strand, hst, hexit]
  rw [reap_stays hkept] at hstart
  exact orStay_some hstart

end

theorem startCmd_transfer (s : State) (tile : Nat) {c : XCmd}
    (hk : c.kind ∈ [XKind.get, .put, .cpy, .mc, .st, .ld, .ldlq, .send]) (hlen : c.len ≠ 0) :
    s.startCmd tile c = s.activate tile c [] := by
  simp only [List.mem_cons, List.not_mem_nil, or_false] at hk
  rcases hk with hk | hk | hk | hk | hk | hk | hk | hk <;> simp only [State.startCmd, hk, if_neg hlen]

theorem startCmd_swset (s : State) (tile : Nat) {c : XCmd} {g : Bool} {w : Nat} (hk : c.kind = .swset g)
    (hw : c.sw = some w) : s.startCmd tile c = s.swSet tile w g c.arg := by
  simp only [State.startCmd, hk, hw, Option.getD_some]

/-- `ctstat` reads the entry into its register (R255). -/
theorem startCmd_ctstat (s : State) (tile : Nat) {c : XCmd} {d : BitVec 8} (hk : c.kind = .ctstat) (hd : c.d = some d)
    (hg : isG d = true) (h0 : opIdx d ≠ 0) :
    ((s.startCmd tile c).strandAt tile c.ri).rg (opIdx d) = (s.entryAt c.arg).word := by
  obtain ⟨x, l, w, hst⟩ := lateG_strand (s.tileAt tile) c.ri (s.entryAt c.arg).word false hg
  simp only [State.startCmd, hk, State.putReg, hd, strandAt_modTileAt_same, hst]
  exact rg_wg_same _ _ _ h0

theorem startCmd_ctarm (s : State) (tile : Nat) {c : XCmd} {f : Bool} (hk : c.kind = .ctarm f) :
    ((s.startCmd tile c).entryAt c.arg).armed = c.sw.map fun w => (tile, w, (s.tileAt tile).kernel.getD 0) := by
  simp only [State.startCmd, hk, State.modEntry, State.entryAt, val_put_same]

/-! ### REQUEST_INJECT (R239, R249) -/

theorem toLine_bounds (c : XCmd) (dst : Bool) (off : Nat) : 1 ≤ c.toLine dst off ∧ c.toLine dst off ≤ 128 := by
  unfold XCmd.toLine
  split <;> omega

theorem pieceLen_bounds {a : XAct} (hx : a.cmd.kind.isXop = false) (h : a.nxt < a.cmd.len) :
    1 ≤ a.pieceLen ∧ a.pieceLen ≤ 128 := by
  obtain ⟨hlo, hhi⟩ := toLine_bounds a.cmd true a.nxt
  obtain ⟨hlo', hhi'⟩ := toLine_bounds a.cmd false a.nxt
  unfold XAct.pieceLen
  dsimp only
  split
  case h_4 hk =>
    rw [hk] at hx
    nomatch hx
  all_goals omega

/-- The request that a command which reads at its home sends next. -/
def nextRequest (s : State) (tile : Nat) (a : XAct) : XReq :=
  { off := a.nxt, len := a.pieceLen, seq := (s.tileAt tile).xseq, data := s.carried tile a a.pieceLen,
    cls := s.slotClass tile a }

/-- A command that has sent a request. -/
def withRequest (q : XReq) (a : XAct) : XAct :=
  { a with reqs := a.reqs ++ [q], nxt := a.nxt + q.len, frags := a.frags ++ [] }

/-- The state in which that command has sent it, with the landing slots then in use. -/
def requestSent (s : State) (tile no : Nat) (a : XAct) (l : SMap Nat) : State :=
  s.modTileAt tile fun t =>
    { t.modAct no (withRequest (nextRequest s tile a)) with xseq := t.xseq + 1, land := l }

section
variable {s : State} {tile no : Nat} {a : XAct}

/-- The transfers that read at their home have no local source, and only the multicast writes as it goes. -/
theorem homeReader_kind (hk : a.cmd.kind ∈ [XKind.get, .cpy, .mc, .ld, .ldlq]) :
    a.cmd.kind ≠ .ctready ∧ a.cmd.kind.isXop = false ∧ a.source? = none ∧
      (a.cmd.kind.writes && a.cmd.kind != .cpy) = (a.cmd.kind == .mc) := by
  simp only [List.mem_cons, List.not_mem_nil, or_false] at hk
  rcases hk with hk | hk | hk | hk | hk <;> simp only [XAct.source?, hk] <;> exact ⟨nofun, rfl, trivial, rfl⟩

theorem engine?_prepared (ha : (s.tileAt tile).act? no = some a) (hgo : s.engineGo tile = true)
    (hreplay : a.replay = false) (hwalk : a.walking = false) (hredir : a.redir = false) (hheld : a.held = none)
    (hend : a.ended = false) (hk : a.cmd.kind ≠ .ctready) (hlim : a.lim = none) (hprep : a.prep = true)
    (hout : s.sendOut? tile no a = none) : s.engine? tile no = s.inject? tile no a := by
  have hatlim : a.atLim = false := by rw [XAct.atLim, hlim, Option.any_none]
  simp [State.engine?, ha, hgo, hreplay, hwalk, hredir, hheld, hend, hk, hatlim, hprep, hout, hlim]

theorem inject?_reads (hk : a.cmd.kind ∈ [XKind.get, .cpy, .mc, .ld, .ldlq]) (hleft : a.nxt < a.cmd.len)
    (hstamp : a.stampLeft = false) (hsides : s.sidesKnown tile a = true)
    (horder : s.orderLets tile a (a.cmd.kind == .mc) a.nxt a.pieceLen = true)
    (hslot : ∀ k, s.slotClass tile a = some k → (s.tileAt tile).land.val 0 k < 8) :
    ∃ l, s.inject? tile no a = some (requestSent s tile no a l) := by
  obtain ⟨-, -, hsource, hwrites⟩ := homeReader_kind hk
  have hfull : ((s.slotClass tile a).map fun k => decide (8 ≤ (s.tileAt tile).land.val 0 k)).getD false = false := by
    cases hc : s.slotClass tile a with
    | none => rfl
    | some k => simpa using hslot k hc
  unfold State.inject?
  simp only [Nat.not_le.mpr hleft, if_false, hstamp, Bool.false_eq_true, hfull, hsource, hwrites, hsides, horder]
  exact ⟨_, rfl⟩

theorem requestSent_act? (l : SMap Nat) (ha : (s.tileAt tile).act? no = some a) :
    ((requestSent s tile no a l).tileAt tile).act? no = some (withRequest (nextRequest s tile a) a) := by
  rw [requestSent, tileAt_modTileAt_same]
  exact act?_modAct ha fun _ => rfl

end

section
variable {s : State} {tile no : Nat} {a : XAct} (ha : (s.tileAt tile).act? no = some a)
include ha

/-! ### Redirects and replays (R305, R331) -/

theorem redirected?_due (h : a.redir = true) : s.redirected? tile no = some (s.modAct tile no fun a =>
    { a with redir := false, prep := a.prep && a.srcO.isNone && a.dstO.isNone }) := by
  simp only [State.redirected?, ha, h, if_true]

theorem redirected?_none (h : a.redir = false) : s.redirected? tile no = none := by
  simp only [State.redirected?, ha, h, Bool.false_eq_true, if_false]

theorem replay?_none (h : a.replay = false) : s.replay? tile no = none := by
  simp only [State.replay?, ha, h, Bool.false_and, Bool.false_eq_true, if_false]

/-- The end of a hold leaves the command as it is. -/
theorem heldCount_act? (c : XCmd) (up : Bool) : ((s.heldCount tile c up).tileAt tile).act? no = some a := by
  rw [Tile.act?, localFrame_xact (heldCount_frame s tile c up)]
  exact ha

/-- A replayed command with nothing under way starts again from its restart point (R305). -/
theorem replay?_restarts (h : a.replay = true) (hrest : ∀ r ∈ a.reqs, r.phase = .done ∨ r.phase = .buffered) :
    ∃ u b, s.replay? tile no = some u ∧ (u.tileAt tile).act? no = some b ∧ b.cmd = a.cmd ∧ b.held = none ∧
      b.replay = false ∧ b.nxt = a.counted ∧ b.wnxt = a.counted ∧ b.counted = a.counted ∧ b.reqs = [] ∧
      b.pages = [] ∧ b.prep = false := by
  have hall : a.reqs.all (·.atRest) = true :=
    List.all_eq_true.mpr fun r hr => by simpa [XReq.atRest] using hrest r hr
  have hs1 : ((if a.held.isSome then s.heldCount tile a.cmd false else s).tileAt tile).act? no = some a := by
    split
    · exact heldCount_act? ha a.cmd false
    · exact ha
  simp only [State.replay?, ha, h, hall, Bool.and_self, if_true]
  exact ⟨_, _, rfl, modAct_act? (freeSlots_act? (fun _ => true) hs1) fun _ => rfl, rfl, rfl, rfl, rfl, rfl, rfl, rfl,
    rfl, rfl⟩

end

/-- Settles O43: each step by what it answers where it is due, and the start of a command by what it leaves of the
queues. -/
theorem enginesStartAndSendCommands : Obligations.EnginesStartAndSendCommands := by
  intro s tile no
  refine ⟨fun hgo => ⟨orStay_none (startX?_stopped (.inl hgo)), orStay_none (engine?_stopped no hgo)⟩,
    fun hfull => orStay_none (startX?_stopped (.inr hfull)), fun r st c rest hgo hact hcs hst hexit hq => ?_,
    fun a ha hgo hreplay hwalk hredir hprep hheld hend hstamp hk hleft hout hsides horder hlim hslot => ?_,
    fun a ha hredir => ?_, fun a ha hredir => orStay_none (redirected?_none ha hredir), fun a ha hreplay hrest => ?_,
    fun a ha hreplay => orStay_none (replay?_none ha hreplay)⟩
  · obtain ⟨hlast, hstrand⟩ := startCmd_queuesKept (xqTaken s tile r rest) tile c
    have htile := xqTaken_tile s tile r rest
    refine ⟨_, exchangeCommandStart_alone hgo hact hcs hst hexit hq, ?_, ?_, fun hk hlen => ?_, fun g w hk hw hwf => ?_,
      fun d hk hri hd hg h0 => ?_, fun f hk => ?_⟩
    · refine (hstrand r).1.trans ?_
      rw [← State.strandAt, xqTaken_strand]
    · rw [hlast, htile]
    · rw [startCmd_transfer _ tile hk hlen, activate_tile, htile]
      exact ⟨_, rfl, rfl, rfl, rfl, rfl, rfl⟩
    · rw [startCmd_swset _ tile hk hw, localFrame_xact (swSet_frame _ tile w g c.arg), htile]
      exact ⟨swSet_ldNum tile w g c.arg hwf, rfl⟩
    · rw [← hri]
      exact startCmd_ctstat _ tile hk hd hg h0
    · rw [startCmd_ctarm _ tile hk, htile]
      rfl
  · obtain ⟨hready, hxop, -, -⟩ := homeReader_kind hk
    obtain ⟨l, hinj⟩ := inject?_reads hk hleft hstamp hsides horder hslot
    have hsent := (engine?_prepared ha hgo hreplay hwalk hredir hheld hend hready hlim hprep hout).trans hinj
    obtain ⟨hlo, hhi⟩ := pieceLen_bounds hxop hleft
    exact ⟨_, _, _, orStay_some hsent, requestSent_act? l ha, rfl, rfl, rfl, hlo, hhi, rfl, rfl⟩
  · refine ⟨_, _, orStay_some (redirected?_due ha hredir), onlyTile_modTileAt s tile _, modAct_act? ha fun _ => rfl,
      rfl, fun hobj => ?_⟩
    rcases hobj with hobj | hobj <;> simp [Option.isNone_eq_false_iff.mpr hobj]
  · obtain ⟨u, b, hu, hb⟩ := replay?_restarts ha hreplay hrest
    exact ⟨u, b, orStay_some hu, hb⟩

/-! ### A walk whose entry has no place in the miss table (R300) -/

/-- A read of a virtual page under a KEYID that its context does not hold, as it waits for the page's walk. -/
def walkedRead : XAct := { cmd := { no := 4, src := .virt (2 ^ 30), dst := .loc 0x100, len := 8 }, walking := true }

/-- A leaf of 1 GiB in the own HBM. -/
def gibLeaf : BitVec 64 := 2 ^ 63 + 3 * 2 ^ 60 + 4 * 2 ^ 44

/-- The walk of that page stands at place 64 of a miss table whose 64 places 0 to 63 hold other walks. -/
def overfullTable : State :=
  { mem := wrBytes [] (hbmKey 0 0) (natToBytes 8 (2 ^ 63) ++ natToBytes 8 gibLeaf.toNat),
    tiles := [(0, { xact := [walkedRead] })],
    dies := [(0, { miss := (List.range 64).map (fun i => (i, {})) ++ [(64, { va := 2 ^ 30, waits := [(0, 4)] })] })] }

theorem overfullTable_walk : overfullTable.walk 0 (2 ^ 30) = .leaf gibLeaf 3 (hbmKey 0 8) := by decide +kernel

/-- The read's KEYID fault finds no entry for itself, and the read is not held. -/
theorem overfullTable_holdsNone : ∃ u, exec (.pageWalkComplete 0 64) overfullTable = .next u ∧
    ((u.tileAt 0).act? 4).map (·.held) = some none :=
  ⟨_, rfl, by decide +kernel⟩

/-- Refutes O45: a command whose access the leaf does not permit enters the miss table anew once its walk has left its
entry, and the statement has it held wherever that entry stood; at place 64, which no table of 64 entries has (R300),
the walk frees none of the 64 places, and a command that finds them all in use waits in its engine, not held. -/
theorem not_responsesLandAndCount : ¬ Obligations.ResponsesLandAndCount := by
  intro h
  obtain ⟨-, -, -, -, -, -, -, hwalk, -⟩ := h overfullTable 0 0
  obtain ⟨-, hfaults, -⟩ := hwalk 0 64 { va := 2 ^ 30, waits := [(0, 4)] } (by decide +kernel) rfl rfl
  obtain ⟨u, b, r, hu, hb, -, hheld, -⟩ := hfaults _ _ _ (0, 4) 2 walkedRead overfullTable_walk (by decide +kernel) rfl
    rfl (by decide +kernel) rfl rfl (by decide) rfl fun _ => rfl
  obtain ⟨v, hv, hnone⟩ := overfullTable_holdsNone
  obtain rfl := Host.Outcome.next.inj (hu.symm.trans hv)
  have hb' := congrArg (Option.map XAct.held) hb
  exact absurd (hnone.symm.trans hb') (by simp [hheld])

end Sys2Proof.Proofs
end
